-- ==== Sys2Proof/Word.lean ====
section
/-! DEFINITION. The word types of the spec (00_scope "Numbers, units and bits", R13) and the plain
arithmetic on them. -/

namespace Sys2Proof

/-- A byte: 8 bits. -/
abbrev Byte := BitVec 8
/-- A u16. -/
abbrev U16 := BitVec 16
/-- A u32 (R13). -/
abbrev U32 := BitVec 32
/-- A u64 (R13). -/
abbrev U64 := BitVec 64
/-- A 128-bit instruction word (R151). -/
abbrev Word := BitVec 128
/-- A 256-bit descriptor register (R162). -/
abbrev Desc := BitVec 256

end Sys2Proof
end

