-- ==== Sys2Proof/Syntax.lean ====
section
/-! DEFINITION. The commands: one constructor per row of spec/opcode_table.json, with the operands a
row needs. -/

namespace Sys2Proof

/-- The three engines of a strand, and so its three streams (R27). -/
inductive Eng where
  | m | v | x
deriving DecidableEq, Repr

/-- A strand, named as programs name it: context, virtual core, strand (R12, R27). -/
structure StrandId where
  ctx : Nat
  vc : Nat
  st : Nat
deriving DecidableEq, Repr

/-- A stream: a strand and one of its engines (R27). -/
structure StreamId where
  ctx : Nat
  vc : Nat
  st : Nat
  eng : Eng
deriving DecidableEq, Repr

/-- The stores of Table 7.6 in which an error can be held. -/
inductive Store where
  /-- scratchpad of a physical core -/
  | scratch (core : Nat)
  | staging
  | hbm
  | ddr
  /-- accumulator slots of a physical core -/
  | slots (core : Nat)
  /-- routine memory of a physical core -/
  | routine (core : Nat)
  | vault
deriving DecidableEq, Repr

/-- An error held in a code word of a store (R198, R455): where, and whether the code corrects it. -/
structure MemErr where
  store : Store
  addr : Nat
  correctable : Bool
deriving DecidableEq, Repr

/-- An aligned 32-bit scratchpad word, by its number, and the bits of it that the bank owner's port wrote in the cycle in
which a shared port wrote the word too (R180). -/
structure LostWord where
  word : Nat
  mask : U32
deriving DecidableEq, Repr

/-- Cycles in which a master (0 M, 1 V, 2 X, 3 W) of a physical core held a request to a bank that was not served (R183). -/
structure BankWait where
  pc : Nat
  master : Nat
  bank : Nat
  cycles : Nat
deriving DecidableEq, Repr

/-- A product of a tile product that a failing cell got wrong (R88 to R90): output row and column in the group, with no
column for the checksum cell of the row; place of the product in the visit; and the value (−1)^neg · mag · 2^exp that the
cell gave for it. -/
structure Upset where
  row : Nat
  col : Option Nat
  k : Nat
  neg : Bool
  mag : Nat
  exp : Int
deriving DecidableEq, Repr

/-- What the cycles of bank arbitration made of a command's scratchpad accesses: the model keeps no such cycles, so they
come with the command (R132, R179 to R183; log 9). -/
structure BankEnv where
  lost : List LostWord := []
  waits : List BankWait := []
  /-- cycles a V instruction waited for the interlock of R132 -/
  intlk : Nat := 0
deriving DecidableEq, Repr

/-- What the environment does to one fragment as it completes (Table 7.9). -/
structure FragEnv where
  /-- delivery failed after retransmission -/
  link : Bool
  /-- a block was isolated by a reset of its own -/
  isolated : Bool
  /-- errors in stores that the fragment's accesses can meet -/
  errs : List MemErr
  /-- what bank arbitration made of the fragment's accesses -/
  bank : BankEnv
deriving DecidableEq, Repr

/-- The Ethernet next hop, IP header and UDP header of a fabric or host frame (R261, R264, R362). Addresses are IPv6, an IPv4 one as
::ffff:a.b.c.d. -/
structure IpHdr where
  nextHop : BitVec 128 := 0
  src : BitVec 128 := 0
  dst : BitVec 128 := 0
  /-- hop limit or TTL, and the DF bit of IPv4 -/
  hops : Nat := 64
  df : Bool := false
  dscp : Nat := 0
  /-- ECN field: 2 is ECT(0), 3 is CE -/
  ecn : Nat := 2
  sport : U16 := 0
  dport : U16 := 48214
deriving DecidableEq, Repr

/-- A Yaril transport frame on the fabric (R264, Tables 10.3 and 10.4). -/
structure FabFrame where
  ver : Byte
  typ : Byte
  flags : Byte
  status : Byte
  srcdev : U32
  dstdev : U32
  srcep : U16
  dstep : U16
  srcctx : Byte
  dstctx : Byte
  epoch : U32
  psn : U32
  apsn : U32
  sack : U64
  w0 : U64
  w1 : U64
  w2 : U32
  w3 : U32
  payload : List Byte
  /-- poison mask of the trailer, bit g for payload bytes 64g to 64g + 63 -/
  mask : BitVec 128
  crc : U32
  /-- the CE codepoint of the IP header (R268) -/
  ce : Bool
  /-- port the frame arrives on or leaves by, 0 to 15 -/
  port : Nat
  ip : IpHdr := {}
deriving DecidableEq, Repr

/-- A twin-link frame (R289, Table 11.1). -/
structure TwinFrame where
  ver : Byte
  chan : Byte
  seq : U32
  aseq : U32
  aux : U64
  payload : List Byte
  /-- poison mask, bit g for payload bytes 64g to 64g + 63 -/
  mask : U64
  crc : U32
deriving DecidableEq, Repr

/-- A host transport frame (R363, Table 13.8). -/
structure HostFrame where
  ver : Byte
  typ : Byte
  sess : Byte
  flags : Byte
  cookie : U32
  seq : U32
  aseq : U32
  sack : U64
  chan : Byte
  status : Byte
  word : U32
  payload : List Byte
  crc : U32
  /-- IP source address and UDP source port of the packet that carried it (R365, R367) -/
  addr : BitVec 128
  udp : U16
  /-- host port it arrives on, 0 or 1 -/
  port : Nat
  /-- headers of its packet (R362) -/
  ip : IpHdr := { dport := 48213 }
deriving DecidableEq, Repr

/-- A mailbox message (R374, Table 13.12). -/
structure Msg where
  cmd : U16
  kind : Byte
  status : Byte
  tag : U32
  mseq : U16
  detail : U32
  /-- PLEN bytes, at most 240 -/
  payload : List Byte
deriving DecidableEq, Repr

/-- Where a parity error of R327 strikes. -/
inductive ParityAt where
  /-- data in transit: the context that owns them and the destination granules that the data reaches, and the physical core
  in which the error lies, if it lies in one -/
  | data (ctx : Nat) (granules : List MemErr) (core : Option Nat)
  /-- control state of a stream -/
  | stream (i : StreamId)
  /-- control state of a barrier unit -/
  | barrier (ctx bar : Nat)
  /-- a semaphore cell or other control state of a physical core -/
  | core (pc : Nat)
  /-- the collective engine of a hub die -/
  | coll (hub : Nat)
  /-- the dispatch engine of a hub die -/
  | disp (hub : Nat)
  /-- the directory words of a context -/
  | dir (ctx : Nat)
deriving DecidableEq, Repr

/-- The block that a PORTRST or a retrain names (Table 15.6). -/
inductive PortId where
  | fabric (k : Nat)
  | host (k : Nat)
  | twin
  | hbm (stack : Nat)
  | ddr (chan : Nat)
deriving DecidableEq, Repr

/-- A PLL with a clock monitor (R410, R411). -/
inductive PllId where
  /-- compute PLL of VDD_CORE rail k, 0 to 7 -/
  | compute (k : Nat)
  | hub (h : Nat)
  | steward (h : Nat)
  /-- lane or memory PLL of a port or interface -/
  | serdes (p : PortId)
  | timebase
deriving DecidableEq, Repr

/-- A memory row for repair (R340). -/
structure RowId where
  hbm : Bool
  /-- stack or channel -/
  unit : Nat
  /-- first device offset of the row in its store, and its length in bytes -/
  base : Nat
  len : Nat
deriving DecidableEq, Repr

/-- One pass of the retest of a core in proofing: its setting, whether the test-vector suite gave its bits, and the captured
cases whose 1,000 repetitions all gave theirs (R335). -/
structure ProofPass where
  setting : Nat
  suite : Bool
  cases : List Nat
deriving DecidableEq, Repr

/-- PTP messages over the fabric ports (R226): one-step and two-step event messages, and general ones. -/
inductive PtpKind where
  | announce | sync | syncTwoStep | followUp | delayReq | delayResp
deriving DecidableEq, Repr

/-- A PTP message as it bears on the time base. -/
structure PtpMsg where
  kind : PtpKind
  /-- clock identity of the grandmaster it comes from, and the data set that the default best master clock algorithm
  compares, as a number of which the lower is better -/
  clock : U64
  rank : BitVec 128
  /-- every switch on its path acts as a transparent clock -/
  transparent : Bool
deriving DecidableEq, Repr

/-- A link lane (R341). -/
structure LaneId where
  /-- port 0 to 15, or 0x40 for the twin link -/
  port : Nat
  lane : Nat
deriving DecidableEq, Repr

/-- A register the stewards or Hokunuon write that has no row of its own (R7). -/
inductive RegId where
  | bind (n : Nat)
  | chstat (n : Nat)
  | mask (n : Nat)
  | db (n : Nat)
  | dbset (n : Nat)
  | block
  /-- a read-only feature word (R171) -/
  | feature (idx : Nat)
deriving DecidableEq, Repr

/-- One access through DBGACCESS (R405, Table 14.11). -/
inductive DbgOp where
  | stewardRead (k addr : Nat)
  | stewardWrite (k addr : Nat) (b : Byte)
  | stewardHalt (k : Nat)
  | stewardStep (k : Nat)
  | memRead (st : Store) (addr : Nat)
  | memWrite (st : Store) (addr : Nat) (b : Byte)
  | fuseRead (byte : Nat)
deriving DecidableEq, Repr

/-- The other frames a port meets (R260, R362). -/
inductive OtherFrame where
  /-- ARP, IPv6 neighbour discovery, ICMP or ICMPv6 echo request: answered -/
  | arp | nd | echo
  /-- a transport frame of the fabric whose TYPE or VER is reserved (R266) -/
  | transport (f : FabFrame)
  /-- a packet with options, extension headers or fragments, or any other frame: dropped -/
  | bad
deriving DecidableEq, Repr

/-- A glaze record of a third run: its 32 bytes, and the CHK of its combination (R248, R256). -/
structure ThirdRec where
  bytes : List Byte
  chk : Bool
deriving DecidableEq, Repr

/-- Outcome of a third computation (R256, Table 9.8): which party's tile product it agrees with, or the glaze records that it
found for the disputed seal. -/
inductive Third where
  | agreesProducer | agreesChecker | neither | none | failed
  | sealed (recs : List ThirdRec)
deriving DecidableEq, Repr

/-- A strand's instruction or block, and what bank arbitration made of its accesses. -/
structure BankedStrand where
  t : StrandId
  bank : BankEnv := {}
deriving DecidableEq, Repr

/-- A fabric frame received, and what bank arbitration made of the writes it leads to. -/
structure BankedFab where
  f : FabFrame
  bank : BankEnv := {}
deriving DecidableEq, Repr

/-- A twin-link frame received, and what bank arbitration made of the writes it leads to. -/
structure BankedTwin where
  f : TwinFrame
  bank : BankEnv := {}
deriving DecidableEq, Repr

/-- The commands: one constructor per row of spec/opcode_table.json. -/
inductive Instr where
  -- common instructions of the three engines (Table 6.2)
  | nop (i : StreamId)
  | end_ (i : StreamId)
  | sete (i : StreamId)
  | setlc (i : StreamId)
  | ldlc (i : StreamId)
  | loop (i : StreamId)
  | dadv (i : StreamId)
  | ldsc (i : StreamId)
  | ldd (i : StreamId)
  | call (i : StreamId) (bank : BankEnv)
  | bar (i : StreamId)
  -- matrix instructions (Table 6.3)
  | mm (t : StrandId)
  | mmt (t : StrandId)
  | mop (t : StrandId)
  -- vector instructions (Table 6.4); `bank` says what bank arbitration made of their accesses
  | vadd (t : StrandId) (bank : BankEnv)
  | vsub (t : StrandId) (bank : BankEnv)
  | vmul (t : StrandId) (bank : BankEnv)
  | vfma (t : StrandId) (bank : BankEnv)
  | vdiv (t : StrandId) (bank : BankEnv)
  | vrcp (t : StrandId) (bank : BankEnv)
  | vsqrt (t : StrandId) (bank : BankEnv)
  | vrsqrt (t : StrandId) (bank : BankEnv)
  | vmax (t : StrandId) (bank : BankEnv)
  | vmin (t : StrandId) (bank : BankEnv)
  | vabs (t : StrandId) (bank : BankEnv)
  | vneg (t : StrandId) (bank : BankEnv)
  | vsel (t : StrandId) (bank : BankEnv)
  | vcvt (t : StrandId) (bank : BankEnv)
  | vcurve (t : StrandId) (bank : BankEnv)
  | vrsum (t : StrandId) (bank : BankEnv)
  | vrmax (t : StrandId) (bank : BankEnv)
  | vrmin (t : StrandId) (bank : BankEnv)
  | vamax (t : StrandId) (bank : BankEnv)
  | vperm (t : StrandId) (bank : BankEnv)
  | vapply (t : StrandId) (bank : BankEnv)
  -- transfer instructions (Table 6.5)
  | xcopy (t : StrandId)
  | gatherRecord (t : StrandId)
  | gatherCheck (t : StrandId)
  | xacc (t : StrandId)
  | xcoll (x : BankedStrand)
  | xdispDispatch (x : BankedStrand)
  | xdispCombine (x : BankedStrand)
  | xrsig (t : StrandId)
  -- events of streams and semaphores
  | waitRelease (i : StreamId)
  | waitTimeout (i : StreamId)
  | localSignal (i : StreamId)
  | semaphoreDeferredIncrement (pc : Nat)
  | instructionFetch (i : StreamId)
  | contextQuiescent (c : Nat)
  | quiesceCutoff (c : Nat)
  -- events of the matrix engine and the sampler
  | mGrant (pc : Nat)
  | arrayConfigSwitch (pc : Nat)
  | blockLoad (x : BankedStrand)
  | groupClose (t : StrandId) (errs : List MemErr) (bank : BankEnv)
  | samplerReexecute (pc : Nat)
  | samplerCompare (pc : Nat) (differs : Option (Nat × Nat))
  -- events of transfers and memory
  | fragmentComplete (t : StrandId) (id frag : Nat) (env : FragEnv)
  | xaccApply (t : StrandId) (id frag : Nat) (errs : List MemErr)
  | xaccWaitRoom (t : StrandId) (id frag : Nat)
  | patrolScrub (errs : List MemErr)
  | libraryReload (pc : Nat)
  | datapathParityError (p : ParityAt)
  -- context switch and barriers
  | contextSwitch (c slice : Nat)
  | contextSwitchClearDone (slice : Nat)
  | barrierRelease (c b : Nat)
  | barrierArrive (f : FabFrame)
  | barrierReleaseMsg (f : FabFrame)
  | barrierTreeRelease (c b : Nat)
  | finalSealClose (c : Nat) (step : U64)
  | ptpMessage (m : PtpMsg) (time : U64)
  -- checkpoints
  | checkpointPageCopy (c : Nat)
  | copyBeforeWrite (c page : Nat)
  | heldWriteResume (c page : Nat)
  | checkpointCommit (c : Nat)
  | stepClosureWrite (c : Nat)
  | resizeHold (c : Nat)
  | autoRestore (c : Nat)
  -- silent errors
  | substitutionHold (pc : Nat)
  | substitutionCopyDone (pc : Nat)
  | arbitrationVerdict (case : Nat) (third : Third)
  | proofingEnd (pc : Nat) (passed : List ProofPass)
  | rowRepair (row : RowId) (repaired : Bool)
  -- fabric frames and timers
  | collContribution (x : BankedFab)
  | collResult (x : BankedFab)
  | collInstanceTimeout (c : Nat) (dispatch : Bool) (id : U32) (inst : Nat)
  | abandon (f : FabFrame)
  | dtok (x : BankedFab)
  | dcntCounts (x : BankedFab)
  | dcntAccepted (x : BankedFab)
  | dcmb (x : BankedFab)
  | rsig (f : FabFrame)
  | fabricAck (f : FabFrame)
  | fabricRetransmitTimer (c ep : Nat) (psn : U32)
  | fabricAckTimer (c ep : Nat)
  | fabricRateRaise (c ep : Nat)
  | fabricOtherFrame (port : Nat) (o : OtherFrame)
  | fabricLinkChange (port : Nat) (up : Bool)
  -- twin-link frames and timers
  | twinFailingFrame (f : TwinFrame)
  | twinCtrlFrame (f : TwinFrame)
  | twinTimeFrame (f : TwinFrame)
  | twinSealFrame (f : TwinFrame)
  | twinFabFrame (x : BankedTwin)
  | twinBreqFrame (f : TwinFrame)
  | twinBdataFrame (f : TwinFrame)
  | twinBuddyFrame (f : TwinFrame)
  | twinIdleFrame (f : TwinFrame)
  | twinRetransmitTimer
  | twinKeepaliveTimer
  | twinSilent
  | twinLinkRetrain (lanes : Nat)
  | twinResetPattern
  -- host frames and timers
  | open_ (f : HostFrame)
  | prove (f : HostFrame)
  | close (f : HostFrame)
  | keep (f : HostFrame)
  | hostAck (f : HostFrame)
  | msg (f : HostFrame)
  | db (f : HostFrame)
  | mask (f : HostFrame)
  | bulkw (f : HostFrame) (bank : BankEnv)
  | bulkr (f : HostFrame)
  | hostOtherFrame (port : Nat) (o : OtherFrame)
  | hostRetransmitTimer (sess : Nat) (seq : U32)
  | hostAckTimer (sess : Nat)
  | sessionTimeout (sess : Nat)
  -- mailboxes and stewards
  | mailboxPost (ch : Nat) (m : Msg)
  | mailboxTake (ch : Nat)
  | dbsetWrite (ch : Nat) (bits : U32)
  | dbClear (ch : Nat) (bits setNow : U32)
  | lockWrite (val : Bool)
  | registerWrite (r : RegId) (val : U32)
  | stewardWake (k : Nat)
  | watchdogExpiry (k : Nat) (finished : List Nat)
  | stewardReload (k : Nat) (ok : Bool)
  -- Hokunuon commands, executed from the request taken from channel ch (Table 13.14)
  | queryDevice (ch : Nat)
  | queryCores (ch : Nat)
  | queryBind (ch : Nat)
  | ctxCreate (ch : Nat)
  | ctxDestroy (ch : Nat)
  | ctxQuery (ch : Nat)
  | ctxTables (ch : Nat)
  | ctxTtab (ch : Nat)
  | ctxPlans (ch : Nat)
  | ctxSwap (ch : Nat)
  | ctxSetsem (ch : Nat)
  | ctxSignal (ch : Nat)
  | ctxResize (ch : Nat)
  | ctxLend (ch : Nat)
  | ctxSampler (ch : Nat)
  | ctxReset (ch : Nat)
  | memBport (ch : Nat)
  | memZero (ch : Nat)
  | progLoad (ch : Nat)
  | progUnload (ch : Nat)
  | strandStart (ch : Nat)
  | strandStop (ch : Nat)
  | strandStatus (ch : Nat)
  | strandStep (ch : Nat)
  | pairPair (ch : Nat)
  | pairMode (ch : Nat)
  | pairTakeover (ch : Nat)
  | pairTime (ch : Nat)
  | ckptArm (ch : Nat)
  | ckptDrained (ch : Nat)
  | ckptOpen (ch : Nat)
  | ckptRestore (ch : Nat)
  | ckptVerify (ch : Nat)
  | teleCounters (ch : Nat)
  | teleDevice (ch : Nat)
  | teleGlaze (ch : Nat)
  | teleSync (ch : Nat)
  | fwStage (ch : Nat)
  | fwCommit (ch : Nat)
  | fwActivate (ch : Nat)
  | attReport (ch : Nat)
  | attCerts (ch : Nat)
  | faultRecords (ch : Nat)
  | faultXlog (ch : Nat)
  | faultCper (ch : Nat)
  | faultCase (ch : Nat)
  | cfgFabric (ch : Nat)
  | cfgHostnet (ch : Nat)
  | cfgPower (ch : Nat)
  -- resets and release
  | por
  | sysrst (cause : Nat)
  | corerst (pc : Nat)
  | portrst (p : PortId)
  | portRetrainDone (p : PortId) (ok : Bool)
  | releaseStage
  | bootImageTimeout
  | memoryZeroing
  -- control lands, clocks, rails
  | pwrokFall
  | pwrokResetTimer
  | pwrokRise
  | clockFailure (p : PllId)
  | pllLock (p : PllId)
  | pllLockTimeout (p : PllId)
  | railFault (rail : Nat) (deviation : Nat)
  | railFaultResetTimer
  -- tamper, vault, test access port
  | tamperTrip (sensor : Nat)
  | tamperReset
  | vaultError
  | bypass
  | idcode
  | samplePreload
  | extest
  | dbgaccess (op : DbgOp)
  -- power
  | coreSleepTimer (pc : Nat)
  | coreOffTimer (pc : Nat)
  | coreWake (pc : Nat)
  | coreWakeDone (pc : Nat)
  | standbyTimer
  | standbyExit (f : HostFrame)
  | powerControlStep (watts : Nat) (temp : Int)
  | avsComplete (rail : Nat)
  | throttleFall
  | throttleRise
  | thermalImminent
  | thermalTrip (temp : Int)
  | thermtripRelease
  | linkLaneEvent (l : LaneId) (retrained : Bool)
  -- rows at the table's end
  | tileProductComplete (t : StrandId) (upsets : List Upset)
  -- of a context's † command, or of the device's with c = 16
  | commandComplete (c : Nat)
  | vddAonValid (bootsrc clkmode : Nat) (twinside : Bool)
  | sysrstNRelease
  | tamperSensorClear
  | railsGood
  | throttleLevelStep
  | hostLinkChange (port : Nat) (rate : Nat)
deriving DecidableEq, Repr

end Sys2Proof
end

