-- ==== Sys2Proof/Decode.lean ====
section
/-! DEFINITION. The reading of a table word. No row of spec/opcode_table.json has bits: the device is
commanded by events, frames and messages, and the 128-bit instruction words of chapter 06 are data in
memory that INSTRUCTION_FETCH reads (their fields stand in Machine/Ops.lean). -/

namespace Sys2Proof

/-- The command that `nbits` bits `w` spell by the table: none, since the table gives no row bits. -/
def decodeTableWord (_nbits _w : Nat) : Option Instr := none

end Sys2Proof
end

