-- ==== Sys2Proof/Machine/State.lean ====
section
/-! DEFINITION. The state of the device as plain data, and the state right after reset. Every field's
rule and reset value stands in INVENTORY.md '## State'. -/

namespace Sys2Proof.Machine

/-- A sparse map from numbers to values: keys strictly rising, no entry equal to the map's default. -/
abbrev SMap (α : Type) := List (Nat × α)

/-- Bytes by address, unlisted bytes 0 (log 5). The same canonical form as `SMap`. -/
abbrev Memory := List Host.Cell

/-- One poison bit per 64-byte granule, by granule number (07 "Poison"). -/
abbrev Poison := SMap Bool

/-- The exact value of an element or of an intermediate result (R93): (−1)^neg · mag · 2^exp, a zero
with its sign, an infinity, or NaN. -/
inductive Num where
  | fin (neg : Bool) (mag : Nat) (exp : Int)
  | inf (neg : Bool)
  | nan
deriving DecidableEq, Repr

/-- Stream states in the order of Table 2.2 (R29). -/
inductive StreamState where
  | idle | running | waiting | done | stopped | faulted
deriving DecidableEq, Repr

/-- How far a stream has come with the instruction it has reached (R32, R35, R453). -/
inductive Phase where
  /-- before the next instruction -/
  | boundary
  /-- reached, its wait released or absent; it has not issued -/
  | released
  /-- waiting for semaphore `sem` to reach `target` -/
  | waitSem (sem : Nat) (target : U32)
  /-- waiting in barrier `b` for generation `gen` (R161) -/
  | waitBar (b : Nat) (gen : U32)
  /-- its effect is under way -/
  | executing
  /-- its effects are complete; its signal has not been made -/
  | complete
deriving DecidableEq, Repr

/-- Where a byte lies. `buddy` is the twin's buddy region, reached over the twin link. -/
inductive Place where
  | scratch (core : Nat)
  | hbm
  | ddr
  | stage
  | buddy
deriving DecidableEq, Repr

/-- One element's bytes as translated: where they lie, the region of R204, and the nibble of a 4-bit element. -/
structure Pt where
  place : Place
  off : Nat
  region : Nat
  nib : Nat
deriving DecidableEq, Repr

/-- What a descriptor write does to its register (R157): DADV adds an element offset to the base, LDSC replaces SCALE,
LDD replaces the whole register. -/
inductive DescOp where
  | add (ofs : Int)
  | scale (v : Nat)
  | load (d : Desc)
deriving DecidableEq, Repr

/-- The writes one cycle has made to a descriptor register: its value before them, and each write with the stream's
place in the order M, V, X (R167). -/
structure DescWr where
  cycle : Nat
  k : Nat
  old : Desc
  ops : List (Nat × DescOp)
deriving DecidableEq, Repr

/-- One loop level (Table 2.1). -/
structure LoopLevel where
  bodyStart : U32
  bodyEnd : U32
  remaining : U32
  index : U32
deriving DecidableEq, Repr

/-- A tensor-table entry: key, id and glaze control word (R112, R244). -/
structure TensorEnt where
  key : U64 := 0
  tid : U32 := 0
  ctl : U32 := 0
deriving DecidableEq, Repr

/-- The copy an instruction takes of what it reads as it issues (R112, R166, R246). -/
structure Latch where
  word : Word := 0
  pc : U32 := 0
  descs : SMap Desc := []
  step : U64 := 0
  /-- tensor entries of the TAGs of D and A -/
  dEnt : TensorEnt := {}
  aEnt : TensorEnt := {}
  /-- seal entries the stream had made under the step (R246 rule 2) -/
  sealIdx : Nat := 0
  /-- active phase table (R280) -/
  phase1 : Bool := false
  /-- active loop levels (Table 2.4 loop_depth) -/
  depth : Nat := 0
  /-- group control with value 4 resolved (Table 3.4) -/
  gctl : Nat := 0
  /-- for R30: the increment to withdraw has been made -/
  counted : Bool := false
deriving DecidableEq, Repr

/-- The counters of Table 4.7. -/
structure NumCtrs where
  sat : U64 := 0
  ufl : U64 := 0
  infw : U64 := 0
  nanw : U64 := 0
  nfmap : U64 := 0
  accovf : U64 := 0
  crumbsat : U64 := 0
  amaxskip : U64 := 0
deriving DecidableEq, Repr

/-- The other counters of a stream (Tables 3.8, 5.6, 7.2, 8.6, R159). -/
structure StreamCtrs where
  mblkload : U64 := 0
  mblkreuse : U64 := 0
  mtile : U64 := 0
  mslotwait : U64 := 0
  mchkskip : U64 := 0
  velem : U64 := 0
  permoor : U64 := 0
  vintlk : U64 := 0
  xnull : U64 := 0
  lostw : U64 := 0
  waitcyc : U64 := 0
deriving DecidableEq, Repr

/-- The fragment that depends on a frame, and what of it the frame carries: elements of a contribution,
or bytes of a token or output stream. -/
structure Dep where
  t : StrandId
  id : Nat
  frag : Nat
  lo : Nat
  n : Nat
deriving DecidableEq, Repr

/-- One fragment of an X instruction: elements `lo` to `hi − 1` in ascending e (R204, R276). -/
structure Frag where
  lo : Nat
  hi : Nat
  /-- status code of Table 7.9 once complete -/
  status : Option Nat := none
  /-- causes met so far: status code, context address of the first granule concerned, and whether that
  is a destination address (R206, Table 7.10) -/
  causes : List (Nat × Nat × Bool) := []
  /-- XACC: its granules are pending in the stack; XCOPY to the buddy window: its data has been sent -/
  arrived : Bool := false
  /-- XACC: applied; waiting at the base die for room (R208) -/
  applied : Bool := false
  waiting : Bool := false
  /-- XACC: HBM granules that met another instruction's (R190) -/
  met : List Nat := []
deriving DecidableEq, Repr

/-- An X instruction in flight (R54, R56, R206). -/
structure Xfer where
  id : Nat
  latch : Latch
  frags : List Frag
  /-- cycle of its issue (R277) -/
  at_ : Nat := 0
  /-- gather glaze and elements counted so far (R310) -/
  gsum : U64 := 0
  gcnt : Nat := 0
  /-- XACC: HBM bytes it has changed, as they stood before the instruction (R189) -/
  orig : List (Nat × Byte) := []
  /-- collective or dispatch instance it belongs to -/
  inst : Nat := 0
  /-- the points of D's and A's elements, translated at issue (R185) -/
  dpts : List Pt := []
  apts : List Pt := []
  /-- it has faulted in execution; what it still writes lands poisoned (R61) -/
  faulted : Bool := false
  /-- poisoned granules it has written in part without poison: the nibbles written so far (R202) -/
  cover : List (Place × Nat × Nat) := []
deriving DecidableEq, Repr

/-- A stream (Table 2.1). -/
structure Stream where
  state : StreamState := .idle
  pc : U32 := 0
  codeBase : U64 := 0
  codeLen : U32 := 0
  entry : U32 := 0
  queue : List (U32 × Word) := []
  e : SMap U32 := []
  lc : SMap U32 := []
  loops : List LoopLevel := []
  phase : Phase := .boundary
  latch : Latch := {}
  xfers : List Xfer := []
  nextId : Nat := 0
  sealN : Nat := 0
  waitSince : Nat := 0
  /-- held before issuing from a poisoned granule or behind a routine-memory error -/
  held : Bool := false
  /-- cycle in which its latest wait released: it has seen what the signal's instruction wrote (R37, R167) -/
  syncAt : Option Nat := none
  /-- a strand stop waits for the instruction in execution (R30) -/
  stopReq : Bool := false
  /-- a stopped stream enters Waiting again once its core is awake (R214) -/
  resumeReq : Bool := false
  num : NumCtrs := {}
  ctrs : StreamCtrs := {}
deriving DecidableEq, Repr

/-- A gather record (R310). -/
structure GatherRec where
  tag : Nat
  glaze : U64
  count : Nat
deriving DecidableEq, Repr

/-- The running value and open chunk of one output element (R73, R77). -/
structure Acc where
  run : Num := .fin false 0 0
  /-- number of the open chunk -/
  chunk : Nat := 0
  /-- products of the open chunk -/
  prods : List Num := []
  /-- products entered since the group opened -/
  count : Nat := 0
deriving DecidableEq, Repr

/-- A group between open and the end of its close (R77 to R82). -/
structure Group where
  /-- opcode of the instruction kind -/
  opc : Nat
  split : Bool
  quad : Nat
  m : Nat
  p : Nat
  /-- first row and column of the group in D, and its extent -/
  row0 : Nat
  col0 : Nat
  rows : Nat
  cols : Nat
  accs : List Acc
  poisoned : Bool
  /-- a sampled tile product's comparison or arbitration is outstanding (R331) -/
  sampled : Nat
  /-- latch of the group's last instruction, whose D the close writes (R81) -/
  latch : Latch
  /-- it belongs to the strand's running instruction; false once it is closed for a later one (R81) -/
  own : Bool := true
  /-- number that names it to the sampler; 0 for a group of no products -/
  gid : Nat := 0
deriving DecidableEq, Repr

/-- A running M instruction and where its fold stands (R71). -/
structure MRun where
  latch : Latch
  granted : Bool := false
  quad : Nat := 255
  /-- strip or output block row, group within it, block within the group -/
  s : Nat := 0
  j : Nat := 0
  i : Nat := 0
  /-- hold loaded for the present visit, and that loaded ahead for the next one (R74) -/
  hold : Option Nat := none
  ahead : Option Nat := none
  group : Option Group := none
  /-- every group of the fold has been visited -/
  ended : Bool := false
  /-- poisoned granules it has written in part without poison: the nibbles written so far (R202) -/
  cover : List (Place × Nat × Nat) := []
  /-- numbers of the groups it has written, whose arbitrations its signal waits for (R331) -/
  closed : List Nat := []
deriving DecidableEq, Repr

/-- A weight hold with its tag (R74, R75). -/
structure Hold where
  valid : Bool := false
  bdesc : Desc := 0
  i : Nat := 0
  j : Nat := 0
  p : Nat := 0
  split : Bool := false
  quad : Nat := 0
  /-- lowest and highest byte address of the block's elements -/
  lo : Nat := 0
  hi : Nat := 0
  /-- held values, row by row -/
  vals : List Num := []
  /-- checksum column, one sum for each held row, and checksum row, one for each held column (R87) -/
  csum : List Num := []
  rsum : List Num := []
deriving DecidableEq, Repr

/-- A strand of a core. -/
structure Strand where
  descs : SMap Desc := []
  /-- descriptor writes of the present cycle (R167) -/
  dwr : List DescWr := []
  m : Stream := {}
  v : Stream := {}
  x : Stream := {}
  gather : List GatherRec := []
  gathEvict : U64 := 0
  openGroup : Option Group := none
  mrun : Option MRun := none
  /-- groups whose accumulation has ended, in order of close -/
  closing : List Group := []
  startedBy : Option Nat := none
deriving DecidableEq, Repr

/-- A semaphore increment: its cell and size, its place in the order of R218, and the cycle in which it reached the
synchronisation unit, or was last deferred there. -/
structure Inc where
  cell : Nat
  inc : Nat
  key : Nat := 0
  cycle : Nat := 0
deriving DecidableEq, Repr

/-- A sampler capture (R330). -/
structure Capture where
  /-- tile product number, producer strand, and the group it belongs to -/
  n : Nat
  t : StrandId
  gid : Nat
  latch : Latch
  /-- block coordinates and strip of the tile product -/
  bi : Nat
  bj : Nat
  strip : Nat
  /-- the operand values as they entered the cells -/
  ops : List Num
  /-- the check value, by output element and chunk -/
  check : List Num
  /-- re-executed on the neighbour -/
  done : Bool
  /-- compared and found to differ; the case of its arbitration -/
  case : Option Nat
deriving DecidableEq, Repr

/-- Core service states in the order of Table 12.4 (R333). -/
inductive SvcState where
  | serving | suspect | proofing | released | retired | absent
deriving DecidableEq, Repr

/-- Core power states (R427). Busy is Ready with an engine that executes. -/
inductive CorePower where
  | ready | asleep | off | waking
deriving DecidableEq, Repr

/-- Counters of a core (Tables 3.8, 7.2, 8.6, 12.3, 15.12). -/
structure CoreCtrs where
  mchkfail : U64 := 0
  semdefer : U64 := 0
  smplrun : U64 := 0
  smplskip : U64 := 0
  smplfail : U64 := 0
  smplhost : U64 := 0
  wakes : U64 := 0
  /-- BKWAIT[m][b] at key m·6 + b -/
  bkwait : SMap U64 := []
deriving DecidableEq, Repr

/-- A physical core. -/
structure Core where
  sp : Memory := []
  poison : Poison := []
  cells : SMap U32 := []
  deferred : List Inc := []
  /-- cycle of the latest increments and those applied in it, at most four (R218) -/
  incCycle : Nat := 0
  incs : List Inc := []
  lastM : Nat := 7
  lastV : Nat := 7
  lastX : Nat := 7
  split : Bool := false
  /-- drain towards the other configuration (R78) -/
  draining : Bool := false
  holds : SMap Hold := []
  /-- hold that served the latest visit, at the quadrant's key, 255 for the whole array; default 1 (R74) -/
  lastHold : SMap Nat := []
  strands : SMap Strand := []
  tileN : Nat := 0
  captures : List Capture := []
  svc : SvcState := .serving
  suspectAt : Nat := 0
  /-- cycles of the corrected errors counted towards suspicion (R328) -/
  corrected : List Nat := []
  /-- arbitration cases that made it suspect (R335) -/
  cases : List Nat := []
  /-- passes of the retest so far (R335) -/
  proofs : List ProofPass := []
  voff : Nat := 0
  foff : Nat := 0
  power : CorePower := .off
  powerAt : Nat := 0
  routineErr : Bool := false
  ctrs : CoreCtrs := {}
deriving DecidableEq, Repr

/-- The settings of CTX.CREATE (Tables 13.15 and 11.4). -/
structure Settings where
  arrival : Bool := false
  seed : U64 := 0
  job : U64 := 0
  wlim : U16 := 900
  smpl : Nat := 1
  sealbar : Option Nat := none
  swapbar : Option Nat := none
  snapbar : Option Nat := none
  prio : Nat := 8
  target : Nat := 0
  localu : Nat := 0
  gens : Nat := 1
  ckperiod : Nat := 0
  autorestore : Bool := false
  adopt : Bool := false
  partner : Option Nat := none
  bscratch : Nat := 0
  signers : List (List Byte) := []
deriving DecidableEq, Repr

/-- One strand's part of the loaded programs (Table 13.17): entry points, code segments and the
1 KiB descriptor image. -/
structure ProgStrand where
  codeBase : List U64 := []
  codeLen : List U32 := []
  entry : List U32 := []
  descs : SMap Desc := []
deriving DecidableEq, Repr

/-- What the configuration shard holds (R305): the tables and settings of a context. -/
structure CtxCfg where
  set : Settings := {}
  /-- format tables T0 to T3, entry at key table·256 + code (R99) -/
  fmt : SMap U32 := []
  /-- margin table (R117), by format code; default of an unlisted code is 0 -/
  margin : SMap Nat := []
  /-- curve tables, byte at key curve·4,160 + offset (R142) -/
  curves : Memory := []
  ttab : SMap TensorEnt := []
  endpoints : SMap (BitVec 256) := []
  /-- default 0xFFFF (R263) -/
  rankmap : SMap U16 := []
  collPlans : SMap (BitVec 512) := []
  dispPlans : SMap (BitVec 512) := []
  /-- P1 is active (R280) -/
  active1 : Bool := false
  bars : SMap (BitVec 128) := []
  loaded : Bool := false
  lkey : U64 := 0
  /-- per strand at key vcore·8 + strand -/
  progs : SMap ProgStrand := []
  /-- bytes of the images of the last PROG.LOAD, its load list and code base (R305, R313) -/
  images : List Byte := []
  /-- SHA-384 of the images as the replay record takes it (R252, R379) -/
  progHash : List Byte := []
  loadList : List Byte := []
  loadBase : U64 := 0
deriving DecidableEq, Repr

/-- A child's arrival at a tree barrier (R227). -/
structure ChildArr where
  ep : Nat
  bar : Nat
  t : U64
deriving DecidableEq, Repr

/-- A barrier unit (R220 to R229). -/
structure BarUnit where
  gen : U32 := 0
  arr : List StreamId := []
  next : List StreamId := []
  /-- cycle and time base at which the count of GEN closed -/
  closedAt : Option Nat := none
  tloc : U64 := 0
  child : List ChildArr := []
  childNext : List ChildArr := []
  sent : Bool := false
  trel : Option U64 := none
  barrel : U64 := 0
  barlate : U32 := 0
deriving DecidableEq, Repr

/-- A fault record (Table 2.4). -/
structure FaultRec where
  code : Byte
  flags : Byte
  ctx : Byte
  strand : Byte
  stream : Byte
  depth : Byte
  vcore : U16
  pcore : U16
  routine : U16
  pc : U32
  routineOfs : U32
  operand : Byte
  count : U16
  detail : U64
  time : U64
  step : U64
  instr : Word
deriving DecidableEq, Repr

/-- A transfer log record (Table 7.10). -/
structure XlogRec where
  status : Byte
  frag : Byte
  strand : Byte
  ctx : Byte
  vcore : U16
  pcore : U16
  pc : U32
  mask : U64
  addr : U64
deriving DecidableEq, Repr

/-- A partial glaze sum of one contributor (R245, R246). -/
structure Partial where
  vc : Nat
  st : Nat
  step : U64
  sealIdx : Nat
  tag : Nat
  tid : U32
  layer : Nat
  chk : Bool
  sum : U64
  writes : Nat
  poison : Bool
  /-- what wrote the elements, for Table 12.2: [0] XCOPY, [1] XCOLL, [2] XDISP -/
  writers : BitVec 3 := 1
deriving DecidableEq, Repr

/-- A glaze record (Table 9.6), with CHK kept beside it for R251. -/
structure GlazeRec where
  step : U64
  glaze : U64
  writes : Nat
  sealNo : Nat
  tid : U32
  tag : Nat
  layer : Nat
  flags : BitVec 4
  poison : Bool
  chk : Bool
  writers : BitVec 3 := 1
deriving DecidableEq, Repr

/-- An element on its way to the rank that owns it, or its result: encoded bits and their format, with
poison (R265, R275, R276). -/
structure CollVal where
  elem : Nat
  rank : Nat
  bits : Nat
  fmt : Nat
  poison : Bool
deriving DecidableEq, Repr

/-- A vector element that an XCOLL of this device names: as a contribution that its owner has or has not
acknowledged, or as a landing (with the ordinal of its D element) that is or is not written (R273). -/
structure Named where
  elem : Nat
  t : StrandId
  xfer : Nat
  frag : Nat
  ord : Nat
  done : Bool
deriving DecidableEq, Repr

/-- An instance of a collective plan entry (R273 to R277). -/
structure CollInst where
  collid : U32
  plan : Nat
  num : Nat
  /-- cycle of the first local XCOLL -/
  since : Option Nat := none
  contribs : List Named := []
  landings : List Named := []
  /-- latched copies of the XCOLLs of the instance -/
  latches : List (StrandId × Nat × Latch) := []
  /-- as owner: contributions of this device's ranks that wait for room, and those held, in arrival order -/
  waiting : List CollVal := []
  vals : List CollVal := []
  /-- as owner: elements whose result has been formed -/
  formed : List Nat := []
  /-- results that have come for elements not yet landed -/
  results : List CollVal := []
  /-- XCOLLs of the next instance, in order of issue -/
  defer : List (StrandId × Nat) := []
deriving DecidableEq, Repr

/-- A routing record accepted for a list: token, choice, home, local expert and gate (R283). -/
structure DispRec where
  t : Nat
  j : Nat
  home : Nat
  x : Nat
  gate : U16
deriving DecidableEq, Repr

/-- Bytes of a token or output stream, each with its poison: of source rank `r` and home rank `h`, local
expert `x`, from byte `off` on (R283, R284). -/
structure Strip where
  r : Nat
  h : Nat
  x : Nat
  off : Nat
  data : List (Byte × Bool)
deriving DecidableEq, Repr

/-- An instance of a dispatch plan entry (R282 to R285). -/
structure DispInst where
  dispid : U32
  plan : Nat
  num : Nat
  /-- cycle of the first local XDISP -/
  since : Option Nat := none
  /-- the dispatch XDISP, once issued, and the combine XDISP -/
  disp : Option (StrandId × Nat) := none
  comb : Option (StrandId × Nat) := none
  /-- the dispatch has read its records; the combine has asked the twin for what it reads in the buddy window, and
  has written its tokens -/
  begun : Bool := false
  asked : Bool := false
  written : Bool := false
  /-- this rank's accepted routing records in the order read; tokens below Z1 of the dispatch's A, and
  those with a record in a poisoned granule -/
  recs : List DispRec := []
  tokens : Nat := 0
  badTokens : List Nat := []
  /-- as home: counts by (rank, local expert); ranks whose DCNT has ended, with the PSN of its last frame
  where it came by a connection -/
  counts : List (Nat × Nat × Nat) := []
  ends : List (Nat × Option (Nat × U32)) := []
  placed : Bool := false
  /-- as home: token bytes of this device's ranks waiting for placement -/
  waiting : List Strip := []
  /-- runs of token bytes received: rank, local expert, first byte, length -/
  tokRuns : List (Nat × Nat × Nat × Nat) := []
  /-- as source: accepted counts by (home, local expert); homes whose answer has ended -/
  acc : List (Nat × Nat × Nat) := []
  accEnds : List (Nat × Option (Nat × U32)) := []
  /-- DTOK and DCMB bytes sent to peers, and those acknowledged -/
  sent : Nat := 0
  acked : Nat := 0
  dispDone : Bool := false
  /-- outputs sent back as home; outputs received as source -/
  returned : Bool := false
  outs : List Strip := []
  /-- ended early -/
  ended : Bool := false
deriving DecidableEq, Repr

/-- An unacknowledged frame of a connection (R267). -/
structure Unacked where
  psn : U32
  frame : FabFrame
  retx : Nat
  sentAt : Nat
  lastPort : Nat
  busy : Bool
  /-- it has left the device at least once -/
  left : Bool
  /-- the X fragment that depends on it -/
  dep : Option Dep
deriving DecidableEq, Repr

/-- One connection of a context, by its endpoint number (R267, R268). -/
structure Conn where
  psn : U32 := 0
  unacked : List Unacked := []
  /-- receive side: every PSN below `apsn` received, and those received above it -/
  apsn : U32 := 0
  got : List U32 := []
  owed : Nat := 0
  owedSince : Nat := 0
  owedStatus : Byte := 0
  ceEcho : Bool := false
  failed : Bool := false
  /-- rate in parts per million of port rate -/
  rate : Nat := 1000000
  echoAt : Nat := 0
deriving DecidableEq, Repr

/-- One stream's record in the state shard (R304). -/
structure StreamRec where
  pc : U32
  state : StreamState
  e : SMap U32
  lc : SMap U32
  loops : List LoopLevel
deriving DecidableEq, Repr

/-- The state shard (R304). -/
structure StateShard where
  vcores : Nat := 0
  /-- semaphore vcore·256 + cell -/
  cells : SMap U32 := []
  /-- descriptor (vcore·8 + strand)·32 + d -/
  descs : SMap Desc := []
  /-- stream (vcore·8 + strand)·3 + engine -/
  streams : List (Nat × StreamRec) := []
  gens : SMap U32 := []
deriving DecidableEq, Repr

/-- What a fence captured and the copy of it so far (R299, R300). -/
structure Capt where
  step : U64
  fence : U64
  cfg : CtxCfg
  state : StateShard
  hbm : Memory := []
  hbmPoison : Poison := []
  ddr : Memory := []
  ddrPoison : Poison := []
  hbmBytes : Nat := 0
  ddrUnits : Nat := 0
  /-- both directory phase tables over the context's range, by expert -/
  dir0 : SMap U64 := []
  dir1 : SMap U64 := []
  dirSize : Nat := 0
  /-- bytes of the configuration shard, and the replay record -/
  cfgBytes : List Byte := []
  replay : List Byte := []
deriving DecidableEq, Repr

/-- A checkpoint in copy (R300, R306). -/
structure Copying where
  capt : Capt
  /-- the copier's place: pages below it in copy order are no longer pending -/
  next : Nat := 0
  /-- pages ahead of the copier copied before a write, and those of them still in the fence buffer -/
  early : List Nat := []
  fenced : List Nat := []
  /-- pages whose writes are held because the fence buffer is full -/
  heldPages : List Nat := []
  /-- poisoned granule addresses found in copied pages -/
  bad : List U64 := []
  slotB : Bool
  /-- pair mode in which it started -/
  mode : Nat
  buddy : Bool
  /-- a seal of the step that ended at the fence was not compared, or disagreed (R306 condition 3) -/
  uncompared : Bool := false
  /-- how far the commit has come: 0 not begun, 1 location table and manifest written, 2 asked for again (R307) -/
  back : Nat := 0
deriving DecidableEq, Repr

/-- A manifest slot (R307): commit and location words, and what the slot's data hold. -/
structure Slot where
  commit : U64 := 0
  location : U64 := 0
  manifest : List Byte := []
  closure : List Byte := []
  capt : Option Capt := none
  drained : Bool := false
  buddy : Bool := false
deriving DecidableEq, Repr

/-- One step's host data in the order supplied, its glaze records in log order, and whether a
snapshot-barrier release has ended it (R253). -/
structure StepData where
  step : U64
  input : List Byte := []
  glog : List Byte := []
  ended : Bool := false
  /-- the context faulted or was reset in it: no closure covers it -/
  void : Bool := false
deriving DecidableEq, Repr

/-- Checkpoint state of a context. -/
structure CkptState where
  armed : Bool := false
  /-- snapshot-barrier releases since the last arming (CKPERIOD) -/
  count : Nat := 0
  copying : Option Copying := none
  slotA : Slot := {}
  slotB : Slot := {}
  /-- pages written since the newest fence (R314) -/
  written : SMap Bool := []
  fenceStep : Option U64 := none
  /-- 64 KiB pieces of the twin's buddy region awaited for a restore, by their offsets there (R318) -/
  awaiting : List Nat := []
  /-- what the step closure records of the latest steps cover (R253) -/
  steps : List StepData := []
deriving DecidableEq, Repr

/-- Counters of a context (Tables 7.2, 8.6, 10.10, R207, R249). -/
structure CtxCtrs where
  bulklost : U64 := 0
  rsigdrop : U64 := 0
  xlogdrop : U64 := 0
  glzdrop : U64 := 0
  fabretx : U64 := 0
  fabce : U64 := 0
  xcollskip : U64 := 0
  dispinv : U64 := 0
  dispdrop : U64 := 0
  abandons : U64 := 0
deriving DecidableEq, Repr

/-- A requested or held change of slices and units (R315, R317). -/
structure Resize where
  mask : Nat
  nslice : Nat
  hbmu : Nat
  ddru : Nat
  /-- the other context of a lend, and whether this one receives -/
  other : Option Nat
  receiver : Bool
  held : Bool
  /-- slices before the change, once it has begun -/
  was : Option (List Nat)
deriving DecidableEq, Repr

/-- A dagger command under way on a context or on the device (R375). -/
structure Dagger where
  ch : Nat
  tag : U32
  cmd : U16
  status : Byte
  detail : U32
  /-- its long operation has reached its end -/
  ready : Bool
deriving DecidableEq, Repr

/-- How far a context's stop has come (R62). -/
inductive CtxState where
  /-- no such context -/
  | absent
  /-- accepting work -/
  | ready
  /-- stopping on a fault or a control error since a cycle -/
  | stopping (since : Nat)
  /-- quiescent and marked Faulted -/
  | faulted
deriving DecidableEq, Repr

/-- A context. -/
structure Ctx where
  state : CtxState := .absent
  cfg : CtxCfg := {}
  /-- physical slices held, ascending (R58) -/
  slices : List Nat := []
  /-- translation table: physical core of each virtual core (R58) -/
  grid : List Nat := []
  hbmUnits : List Nat := []
  stackLocal : Bool := false
  stackMask : Nat := 0
  ddrUnits : List Nat := []
  /-- DDR5 units of the LOCAL snapshot area (R295) -/
  localUnits : List Nat := []
  /-- place in the twin's buddy region: first unit, units of the snapshot area, which the BSCRATCH units precede (R296) -/
  areaBase : Nat := 0
  areaLen : Nat := 0
  stageHub : Nat := 0
  stageUnits : List Nat := []
  /-- directory range in the hub die of the staging allocation (R279) -/
  dirBase : Nat := 0
  dirSize : Nat := 0
  step : U64 := 0
  flags : SMap (BitVec 4) := []
  pastFlags : List (U64 × SMap (BitVec 4)) := []
  swapReq : Bool := false
  units : SMap BarUnit := []
  /-- the stop was made by a control error (R327) -/
  stopCtl : Bool := false
  records : List FaultRec := []
  nfaults : Nat := 0
  xlog : List XlogRec := []
  partials : List Partial := []
  glog : List GlazeRec := []
  /-- steps to which the open and the next generation of the seal barrier belong, once entered (R246) -/
  sealStep : Option U64 := none
  sealStepNext : Option U64 := none
  /-- step and number within it of the latest generation of the seal barrier to release -/
  sealPrev : Option (U64 × Nat) := none
  /-- steps whose final seal has not closed -/
  openSteps : List U64 := []
  /-- seals sent to the twin and awaiting its own, and the reverse (R251) -/
  sealsMine : List (U64 × Nat × List Byte) := []
  sealsPeer : List (Nat × List Byte) := []
  sealAgreed : List (U64 × Nat) := []
  noCompare : Bool := false
  /-- the partner of this check couple has faulted and awaits this context's next capture (R319) -/
  partnerDown : Bool := false
  /-- a verdict has Hokunuon restore the context from the last agreed state (R257) -/
  arbRestore : Bool := false
  colls : List CollInst := []
  disps : List DispInst := []
  collCount : SMap Nat := []
  dispCount : SMap Nat := []
  combCount : SMap Nat := []
  conns : SMap Conn := []
  /-- endpoint grants withdrawn by a switch or reset (R217, R230) -/
  withdrawn : List Nat := []
  /-- virtual cores whose endpoint grants are withdrawn (R230 step 1) -/
  withdrawnCores : List Nat := []
  ckpt : CkptState := {}
  resize : Option Resize := none
  dagger : Option Dagger := none
  /-- BARs of the snapshot barrier kept from completing (R315, R334) -/
  held : List StreamId := []
  /-- remote increments held for a core under substitution: (core, cell, increment) (R232) -/
  heldIncs : List (Nat × Inc) := []
  /-- physical cores whose state is being copied to a spare, with the cycle the copy began (R232, R334) -/
  subst : List (Nat × Nat) := []
  /-- a substitution hold stops the streams for this core; streams to start again after it (R334) -/
  holdFor : Option Nat := none
  resume : List StreamId := []
  ctrs : CtxCtrs := {}
deriving DecidableEq, Repr

/-- The memory tiers outside the cores (07). -/
structure Mem where
  hbm : Memory := []
  hbmPoison : Poison := []
  ddr : Memory := []
  ddrPoison : Poison := []
  stage : Memory := []
  stagePoison : Poison := []
  /-- errors held in code words and not yet found (R455) -/
  latent : List MemErr := []
  /-- bands that are stack-local (R186) -/
  bandLocal : List Nat := []
  /-- granules with XACC fragments pending: stack, granule, instruction (R190) -/
  xaccPend : List (Nat × Nat × StrandId × Nat) := []
  /-- pages in the fence buffer, of 16,384 (R301) -/
  fenceUsed : Nat := 0
  dir0 : SMap U64 := []
  dir1 : SMap U64 := []
  /-- corrected errors by store: 0 scratchpad, 1 staging, 2 slots, 3 routine, 4 vault, 5 HBM4, 6 DDR5 -/
  corrected : SMap U64 := []
  /-- corrected errors in memory rows: whether HBM4, row, cycle (R328) -/
  rowErrs : List (Bool × Nat × Nat) := []
  /-- suspect rows: whether HBM4, row (R328, R340) -/
  suspectRows : List (Bool × Nat) := []
  /-- DDRGIB, and the half that runs: 0 all 16 channels, 1 channels 0 to 7, 2 channels 8 to 15 (R193, R194) -/
  ddrGib : Nat := 0
  ddrHalf : Nat := 0
  /-- interfaces in reset, and interfaces that failed to retrain (R424, R425) -/
  inReset : List PortId := []
  isolated : List PortId := []
  /-- granules marked for poison at release of an interface (R421): store is HBM, granule -/
  pendPoison : List (Bool × Nat) := []
deriving DecidableEq, Repr

/-- A DDR5 module: RDIMM or MRDIMM, capacity in GiB, rank organisation (Table 7.5). -/
structure Dimm where
  mr : Bool
  gib : Nat
  org : Nat
deriving DecidableEq, Repr

/-- A DDR5 channel: its two slots, and whether it trains (R193). -/
structure DimmChan where
  slot0 : Option Dimm := none
  slot1 : Option Dimm := none
  trains : Bool := true
deriving DecidableEq, Repr

/-- Identity and fuses of the part (Tables 6.10, 6.11, 14.1). -/
structure Part where
  part : U16 := 0x9420
  stepping : Byte := 0xA1
  dieA : List U32 := [0xFF84210, 0xFF84210, 0xFF84210, 0xFF84210]
  dieB : List U32 := [0, 0, 0, 0]
  /-- retirement fuses: die, quadrant spare or 4 for none, local index of the retired core (R339) -/
  retired : List (Nat × Nat × Nat) := []
  uds : BitVec 384 := 0
  rk : List (BitVec 384) := [0, 0, 0, 0]
  revoke : BitVec 4 := 0
  lcpos : BitVec 4 := 0
  svn : U64 := 0
  tampcnt : U32 := 0
  trim : List Nat := [0, 0, 0, 0, 0, 0, 0, 0]
  mac : BitVec 48 := 0
  /-- hash of the manufacturing key in the boot ROM (Table 14.2) -/
  mfgKey : BitVec 384 := 0
  /-- the population of the sixteen DDR5 channels (R193) -/
  dimms : List DimmChan := List.replicate 16 {}
deriving DecidableEq, Repr

/-- The boot flash (Table 14.5). -/
structure Flash where
  sel0 : List Byte := []
  sel1 : List Byte := []
  binding : List Byte := []
  unit : List Byte := []
  cert : List Byte := []
  copyA : List Byte := []
  copyB : List Byte := []
  /-- cores released from proofing, each with the cycle of its latest release; it stands beside the unit record, since
  R337 counts over the reset that returns the core to service (DEDUCED, log 126) -/
  released : SMap (Option Nat) := []
deriving DecidableEq, Repr

/-- Events of Table 12.7 as exported (R343, R344): the fields that differ from record to record. -/
structure Cper where
  id : U64
  event : Byte
  verdict : Byte
  unit : Byte
  ustate : Byte
  die : Byte
  pcore : U16
  vcore : U16
  ctx : Byte
  strand : Byte
  stream : Byte
  aquad : Byte
  /-- PC of the instruction of a checksum event, which the event carries (R90); its record has no field for it -/
  pc : U32
  step : U64
  time : U64
  loc : U64
  vofs : Byte
  fofs : Byte
  presult : Byte
  count24 : U32
  fsig : U64
  case : U64
  record : List Byte
  opdigest : List Byte
  detail : List Byte
deriving DecidableEq, Repr

/-- The always-on domain (14, 15, 16). -/
structure Aon where
  bootsrc : BitVec 2 := 0
  clkmode : BitVec 2 := 0
  twinside : Bool := false
  /-- time base in units of 2^-10 ns, and the fraction of a unit in 1/47 (R226) -/
  tbase : U64 := 0
  tfrac : Nat := 0
  /-- 0 twin, 1 PTP, 2 free-running -/
  tsource : Nat := 2
  /-- the PTP grandmaster selected, with its data set; a two-step sync of it awaits its follow-up (R226) -/
  ptpMaster : Option (U64 × BitVec 128) := none
  ptpTwoStep : Bool := false
  faultLog : List Cper := []
  recCounter : U64 := 0
  caseCounter : Nat := 0
  /-- reset history: cause codes, oldest first -/
  resetLog : List Nat := []
  railLog : List (Nat × Nat) := []
  tamperLog : List Nat := []
  tamperSincePor : Bool := false
  tripped : List Nat := []
  /-- cycle of the trip that a tamper reset follows; the reset is held -/
  tamperAt : Option Nat := none
  tamperHeld : Bool := false
  twinRstEnable : Bool := false
  debugToken : Option U32 := none
  debugScope : Option U32 := none
  /-- reset sources asserted: 0 POR, 1 SYSRST_N land, 2 PWROK, 3 tamper, 4 rail, 5 thermal, 6 EXTEST,
  7 FW.ACTIVATE, 8 clock, 9 TWINRST -/
  sources : List Nat := [0]
  /-- release stage begun, 0 to 8 (Table 15.5) -/
  stage : Nat := 0
  stageAt : Nat := 0
  releaseAt : Nat := 0
  pwrok : Bool := false
  pwrokFellAt : Option Nat := none
  railFaultAt : Option Nat := none
  railsBad : Bool := false
  throttleLow : Bool := false
  throttleAt : Nat := 0
  thermtrip : Bool := false
  recovery : Bool := false
  imageWait : Option Nat := none
  image : List Byte := []
  imageKey : Byte := 0xFF
  /-- life-cycle burn not yet followed by activation (R391) -/
  lcBurned : Bool := false
  keysLost : Bool := false
  zeroing : Bool := false
deriving DecidableEq, Repr

/-- The vault (R197, R398). -/
structure Vault where
  alias_ : BitVec 384 := 0
  ckpt : BitVec 384 := 0
  key : BitVec 384 := 0
  csr : List Byte := []
  certs : List (List Byte) := []
  devidHash : List Byte := []
  ckptHash : List Byte := []
  valid : Bool := false
deriving DecidableEq, Repr

/-- A mailbox channel (R356, R357, R381). -/
structure Chan where
  slots : List Msg := []
  head : BitVec 3 := 0
  db : U32 := 0
  mask : U32 := 0
  mseq : U16 := 0
  /-- request taken and not answered (R375) -/
  req : Option Msg := none
  mbabort : U64 := 0
  mbfull : U64 := 0
deriving DecidableEq, Repr

/-- A bulk port (Table 13.11). -/
structure BulkPort where
  space : BitVec 3 := 0
  ctx : BitVec 4 := 0
  handle : U16 := 0
  addr : U64 := 0
  stride : U32 := 0
  rowlen : BitVec 14 := 0
  wbase : U64 := 0
  wlim : U64 := 0
deriving DecidableEq, Repr

/-- A checkpoint handle (R370). -/
structure Handle where
  sess : Nat
  kind : Nat
  ctx : Nat
  slotB : Bool
  /-- buddy area: position of its first unit in the region -/
  unit : Nat := 0
  /-- bytes of the restore target written so far, and the ranges they cover -/
  data : Memory := []
  landed : List (Nat × Nat) := []
  /-- poisoned granules of its shards, numbered from the first whole granule that the shards' offsets leave (R372) -/
  poison : Poison := []
deriving DecidableEq, Repr

/-- A frame Yaril sent that the host has not acknowledged (R366). -/
structure HostUnacked where
  seq : U32
  typ : Byte
  chan : Byte
  status : Byte
  word : U32
  payload : List Byte
  retx : Nat
  sentAt : Nat
deriving DecidableEq, Repr

/-- A host session (R363 to R369). -/
structure Session where
  opened : Bool := false
  hkey : BitVec 384 := 0
  admin : Bool := false
  timeout : Nat := 5
  /-- the challenge of an OPEN not yet proven, and the host port it left by -/
  nonce : Option (BitVec 384) := none
  cookie : U32 := 0
  addr : BitVec 128 := 0
  udp : U16 := 0
  port : Nat := 0
  /-- next SEQ to send, next SEQ to apply, frames received ahead of it with the
  words their writes will lose -/
  txSeq : U32 := 0
  rxSeq : U32 := 0
  ahead : List (HostFrame × List LostWord) := []
  owed : Nat := 0
  owedSince : Nat := 0
  unacked : List HostUnacked := []
  lastRx : Nat := 0
  staging : Memory := []
  stgPoison : Poison := []
  ports : SMap BulkPort := []
  hostretx : U64 := 0
deriving DecidableEq, Repr

/-- A host port (R361, R362). -/
structure HostPort where
  rate : Nat := 0
  addr : BitVec 128 := 0
  gateway : BitVec 128 := 0
  prefixLen : Nat := 0
  vlan : Nat := 0
  hostother : U64 := 0
  hostcrc : U64 := 0
deriving DecidableEq, Repr

/-- A steward (R349, R350, R419). -/
inductive StewState where
  | working | standby | inReset (since : Nat) | failed | asleep | waking
deriving DecidableEq, Repr

/-- A journal entry: a command in progress by its channel (R351). -/
structure Journal where
  ch : Nat
  steward : Nat
deriving DecidableEq, Repr

/-- An arbitration case (R255, R256). -/
structure Arb where
  case : Nat
  /-- 0 sampler, 1 Check mode, 2 replay -/
  checker : Nat
  ctx : Nat
  /-- producer and checker cores, for the sampler -/
  producer : Nat
  checkerCore : Nat
  third : Option Nat
  t : StrandId
  /-- the sampler's group, and the scratchpad granules its close poisoned -/
  gid : Nat := 0
  granules : List Nat
  sealNo : Nat
  step : U64
  verdict : Option Nat
  /-- captured operands, and once there is a verdict the replay record of the last agreed state (R258) -/
  captured : List Byte
  record : List Byte := []
  /-- for Check mode: this device's context is the producer; the cores it ran on, or the hub engines (false collective, true
  dispatch) where only their landings disagree -/
  produces : Bool := false
  cores : List Nat := []
  engines : List Bool := []
  /-- what the producer, the checker and the third found, as far as it is known -/
  outs : List (List Byte) := []
  /-- the third's cores on this device -/
  thirdCores : List Nat := []
  /-- once the emulator's result has come: the cores it confirms -/
  emulator : Option (List Nat)
deriving DecidableEq, Repr

/-- Mailboxes, stewards and host ports (13). -/
structure Hub where
  bind : SMap U16 := []
  lock : Bool := false
  chans : SMap Chan := []
  stew0 : StewState := .inReset 0
  stew1 : StewState := .inReset 0
  stew2 : StewState := .inReset 0
  stew3 : StewState := .inReset 0
  /-- stewards halted through DBGACCESS (Table 14.11) -/
  halted : List Nat := []
  /-- steward that serves identity set k -/
  serves : List Nat := [0, 1, 2, 3]
  journal : List Journal := []
  staged : Option (List Byte) := none
  sessions : SMap Session := []
  port0 : HostPort := {}
  port1 : HostPort := {}
  udp : U16 := 48213
  bindRecord : List Byte := []
  handles : SMap Handle := []
  /-- slices granted to no context while a core of theirs is out of service (R334, R339) -/
  withheld : List Nat := []
  /-- slices being cleared at a context switch: slice, context, cycle (R230) -/
  clearing : List (Nat × Nat × Nat) := []
  /-- messages of Hokunuon whose post met a full channel and is tried again (R356) -/
  outbox : List (Nat × Msg) := []
  cper : List Cper := []
  cperLost : Nat := 0
  arbs : List Arb := []
  dagger : Option Dagger := none
deriving DecidableEq, Repr

/-- A fabric port (R259 to R261, R287). -/
structure FabPort where
  up : Bool := false
  iface : Nat := 0
  addr : BitVec 128 := 0
  nexthop : BitVec 128 := 0
  fabother : U64 := 0
  fabmisdir : U64 := 0
  fabcrc : U64 := 0
deriving DecidableEq, Repr

/-- Service state of a hub engine (R341). -/
inductive EngState where
  | serving | suspect | withheld
deriving DecidableEq, Repr

/-- The fabric side of the device (10). -/
structure Fab where
  fabdev : U32 := 0
  fabpay : Nat := 8192
  udp : U16 := 48214
  dscp : Nat := 0
  pfc : Option Nat := none
  ports : SMap FabPort := []
  coll0 : EngState := .serving
  coll1 : EngState := .serving
  disp0 : EngState := .serving
  disp1 : EngState := .serving
  sseed : U32 := 0
deriving DecidableEq, Repr

/-- An unacknowledged twin-link frame (R291). -/
structure TwinUnacked where
  seq : U32
  chan : Byte
  aux : U64
  payload : List Byte
  mask : U64
  dep : Option Dep
deriving DecidableEq, Repr

/-- A frame that waits for room in the window or for the link; it takes its SEQ, and a TIME frame its AUX, when it leaves
(R290, R291). -/
structure TwinWaiting where
  chan : Byte
  aux : U64
  payload : List Byte
  mask : U64
  dep : Option Dep
deriving DecidableEq, Repr

/-- What the twin has told of one of its contexts (R294). -/
structure PeerCtx where
  /-- 0xFF none, 0xFE excluded from comparison, else the partner it names -/
  partner : Nat
  arrival : Bool
  seed : U64
  vcores : Nat
  prio : Nat := 8
deriving DecidableEq, Repr

/-- The twin link and the pair (11). -/
structure Twin where
  up : Bool := false
  lanes : Nat := 0
  txSeq : U32 := 0
  rxSeq : U32 := 0
  unacked : List TwinUnacked := []
  waiting : List TwinWaiting := []
  progressAt : Nat := 0
  rounds : Nat := 0
  lastRx : Nat := 0
  lastTx : Nat := 0
  silent : Bool := false
  lost : Bool := false
  twldrop : U64 := 0
  paired : Bool := false
  /-- 0 Solo, 1 Guard, 2 Check, 3 Spare -/
  mode : Nat := 0
  isSpare : Bool := false
  /-- DDR5 units reserved as the buddy region (R296) -/
  region : List Nat := []
  /-- size of the twin's buddy region for this device, in units -/
  peerUnits : Nat := 0
  peerPart : U16 := 0
  peerSig : BitVec 128 := 0
  peerDev : U32 := 0
  /-- public key of the twin's checkpoint key, from the pairing exchange -/
  peerCkpt : List Byte := []
  /-- the twin's contexts by number, and how many of them have a checkpoint in copy (R294) -/
  peerMap : List PeerCtx := []
  /-- its free slices, as it last told (R256) -/
  peerFree : Nat := 0
  peerCopy : Nat := 0
  /-- checkpoints in the own buddy region that the twin's host has drained: context, STEP (R296) -/
  peerDrained : List (Nat × Nat) := []
  peerSide : Bool := true
  /-- what the peer has said of its own contexts and DDR5 (R294): contexts, DDR5 tier present -/
  peerCtxs : Nat := 0
  peerDdr : Bool := false
  /-- FAB segments and SEAL segments being assembled -/
  fabSeg : List Byte := []
  fabMask : Nat := 0
  sealSeg : List (Nat × List Byte) := []
  /-- bytes of the twin's buddy region received in BDATA frames, their poison, and the ranges held -/
  inMem : Memory := []
  inPoison : Poison := []
  inHave : List (Nat × Nat) := []
  /-- ranges asked for and not yet answered, and the bytes of them that this device has written since -/
  inAsked : List (Nat × Nat) := []
  inOwn : List Nat := []
  /-- boot image being received (R390) -/
  imageBuf : Memory := []
  imageTop : Nat := 0
  suspectLanes : List LaneId := []
deriving DecidableEq, Repr

/-- Device power states (R429). -/
inductive DevPower where
  | run | idle | standby
deriving DecidableEq, Repr

/-- The power controller and clocks (15). -/
structure Pwr where
  /-- 0 Performance, 1 Balanced, 2 Efficiency -/
  mode : Nat := 1
  cap : Nat := 0
  level : Nat := 7
  /-- level whose rails are being raised (R432) -/
  raising : Option Nat := none
  /-- rails whose regulator has yet to report the raise complete -/
  avsWait : List Nat := []
  /-- the level is being lowered for power (R432) -/
  lowering : Bool := false
  gate : Nat := 0
  overSince : Option Nat := none
  underSince : Option Nat := none
  stepAt : Nat := 0
  throttleStepAt : Nat := 0
  /-- end of the hold after THROTTLE_N rose (R433) -/
  holdUntil : Nat := 0
  hot : Bool := false
  dev : DevPower := .idle
  idleSince : Nat := 0
  /-- LVLTIME[l] of half die h at key h·8 + l -/
  lvltime : SMap U64 := []
  limstep : U64 := 0
  grantgate : U64 := 0
  thrtime : U64 := 0
  /-- PLLs that failed and await lock, with the cycle of the failure -/
  failed : List (PllId × Nat) := []
  /-- blocks kept in reset because their PLL did not lock -/
  dead : List PllId := []
deriving DecidableEq, Repr

/-- The resident library (R168, R169). -/
structure Lib where
  patch : Byte := 0
  minor : Byte := 0
  major : Byte := 1
  /-- entries of Table 6.9 in ascending RNUM -/
  table : List U64 := [0x0000000000070001]
deriving DecidableEq, Repr

/-- The test access port (R404, R405). -/
structure Tap where
  /-- 0 BYPASS, 1 IDCODE, 2 SAMPLE/PRELOAD, 3 EXTEST, 4 DBGACCESS -/
  ir : Nat := 1
  data : U64 := 0
deriving DecidableEq, Repr

/-- What leaves the device. -/
inductive Emission where
  /-- a fabric frame on a port -/
  | fab (f : FabFrame)
  /-- an answer to ARP, neighbour discovery or echo on a fabric or host port -/
  | answer (host : Bool) (port : Nat) (o : OtherFrame)
  /-- a twin-link frame -/
  | twin (f : TwinFrame)
  /-- the twin-reset pattern (R417) -/
  | twinReset
  /-- a host frame of a session -/
  | host (f : HostFrame)
  /-- an interrupt to a steward: empty channel or doorbell bits -/
  | stewardIrq (k ch : Nat) (bits : U32)
  /-- a notice to Hokunuon that a channel of a Cn sender is empty, or messages were aborted -/
  | hokNotice (ch : Nat) (reason : Nat) (count : Nat)
  /-- an event to Hokunuon or the host that has no code in Table 12.7: a name and numbers -/
  | event (kind : Nat) (args : List Nat)
  /-- a pin driven: 0 THERMTRIP_N, 1 TDO -/
  | pin (n : Nat) (val : Nat)
  /-- a VDD_CORE setpoint in mV over AVSBus (R437) -/
  | avs (rail mv : Nat)
deriving DecidableEq, Repr

/-- The state of the device. -/
structure State where
  /-- commands waiting, first in first out (log 1) -/
  pending : List Instr := []
  /-- counter of free values (log 6) -/
  freeCtr : Nat := 0
  /-- arithmetic-clock cycles (log 2) -/
  now : Nat := 0
  /-- what left the device, oldest first (log 10) -/
  sent : List Emission := []
  /-- what bank arbitration makes of the accesses of the command under way; nothing between commands (log 9) -/
  bank : BankEnv := {}
  cores : SMap Core := []
  ctxs : SMap Ctx := []
  mem : Mem := {}
  fab : Fab := {}
  twin : Twin := {}
  hub : Hub := {}
  aon : Aon := {}
  vault : Vault := {}
  part : Part := {}
  flash : Flash := {}
  lib : Lib := {}
  pwr : Pwr := {}
  tap : Tap := {}
deriving DecidableEq, Repr

/-- The model's stops by fault: none of its meanings needs one (NOTES.md '## Stops'). -/
inductive Fault where
  /-- never raised: every command of the table has an effect the spec gives; safe -/
  | none_
deriving DecidableEq, Repr

/-- The model's refusals. -/
inductive Refusal where
  /-- raised by an arm of `exec` whose command has no meaning yet; safe -/
  | notModelled (mnemonic : String)
deriving DecidableEq, Repr

/-- The outcome of a meaning. -/
abbrev Out := Host.Outcome State Fault Refusal

/-- The device right after power-on reset: POR asserted, release stage 0, nothing listed in memory. -/
def State.reset : State := {}

end Sys2Proof.Machine
end

