-- ==== Sys2Proof/Machine/Ops.lean ====
section
/-! DEFINITION. Named operations over sparse maps, bytes, registers and the parts of the state. -/

namespace Sys2Proof

/-- The strand of a stream. -/
def StreamId.strandId (i : StreamId) : StrandId := ⟨i.ctx, i.vc, i.st⟩
/-- A strand's stream on an engine. -/
def StrandId.stream (t : StrandId) (e : Eng) : StreamId := ⟨t.ctx, t.vc, t.st, e⟩

/-- The engines in the order M, V, X. -/
def Eng.num : Eng → Nat
  | .m => 0
  | .v => 1
  | .x => 2

end Sys2Proof

namespace Sys2Proof.Machine

/-! ### Sparse maps -/

/-- The value at key `k`, `d` where none is listed. -/
def SMap.get {α : Type} (d : α) : SMap α → Nat → α
  | [], _ => d
  | (k', v) :: r, k => if k = k' then v else SMap.get d r k

/-- Puts `v` at key `k`, in order. -/
def SMap.put {α : Type} : SMap α → Nat → α → SMap α
  | [], k, v => [(k, v)]
  | (k', v') :: r, k, v =>
    if k < k' then (k, v) :: (k', v') :: r
    else if k = k' then (k, v) :: r
    else (k', v') :: SMap.put r k v

/-- Writes `v` at key `k`, keeping the canonical form: writing the default removes the entry. -/
def SMap.set {α : Type} [DecidableEq α] (d : α) (m : SMap α) (k : Nat) (v : α) : SMap α :=
  if v = d then m.filter fun e => e.1 != k else SMap.put m k v

/-- Changes the value at key `k`. -/
def SMap.upd {α : Type} [DecidableEq α] (d : α) (m : SMap α) (k : Nat) (f : α → α) : SMap α :=
  SMap.set d m k (f (SMap.get d m k))

/-- A function of every value of a sparse map. -/
def SMap.mapv {α : Type} [DecidableEq α] (d : α) (m : SMap α) (f : α → α) : SMap α :=
  m.foldl (fun a e => SMap.set d a e.1 (f e.2)) []

/-- Drops every entry with a key from `lo` up to, but not including, `hi`. -/
def SMap.clear {α : Type} (m : SMap α) (lo hi : Nat) : SMap α :=
  m.filter fun e => e.1 < lo || hi ≤ e.1

/-- The canonical form: keys strictly rising, no default entry. -/
def SMap.wf {α : Type} [DecidableEq α] (d : α) : SMap α → Bool
  | [] => true
  | [(_, v)] => v != d
  | (k, v) :: (k', v') :: r => v != d && k < k' && SMap.wf d ((k', v') :: r)

/-- The canonical form of a memory (log 5: an unlisted byte reads 0). -/
def Memory.wf (m : Memory) : Bool := SMap.wf (0 : Byte) m

/-- One byte of a memory. -/
def Memory.read (m : Memory) (a : Nat) : Byte := SMap.get 0 m a

/-- Writes one byte of a memory. -/
def Memory.write (m : Memory) (a : Nat) (b : Byte) : Memory := SMap.set 0 m a b

/-- `n` bytes from address `a`, lowest address first. -/
def Memory.readN (m : Memory) (a : Nat) : Nat → List Byte
  | 0 => []
  | n + 1 => Memory.read m a :: Memory.readN m (a + 1) n

/-- Writes bytes from address `a` upward. -/
def Memory.writeN (m : Memory) (a : Nat) : List Byte → Memory
  | [] => m
  | b :: r => Memory.writeN (Memory.write m a b) (a + 1) r

/-! ### Bytes and fields (R6) -/

/-- The number that little-endian bytes hold (R6). -/
def leNat : List Byte → Nat
  | [] => 0
  | b :: r => b.toNat + 256 * leNat r

/-- `n` bytes of a number, little-endian (R6). -/
def leBytes : Nat → Nat → List Byte
  | 0, _ => []
  | n + 1, v => BitVec.ofNat 8 v :: leBytes n (v / 256)

/-- The number that big-endian bytes hold (standards other than Milide's). -/
def beNat (l : List Byte) : Nat := l.foldl (fun a b => a * 256 + b.toNat) 0

/-- `n` bytes of a number, big-endian. -/
def beBytes (n v : Nat) : List Byte := (leBytes n v).reverse

/-- Bits [lo + w − 1 : lo] of a number. -/
def bits (v lo w : Nat) : Nat := (v >>> lo) % 2 ^ w

/-- A number of `w` bits read as two's complement. -/
def signed (w v : Nat) : Int := if v < 2 ^ (w - 1) then (v : Int) else (v : Int) - 2 ^ w

/-- The low `w` bits of an integer, as a number. -/
def wrap (w : Nat) (i : Int) : Nat := (i % (2 ^ w : Nat)).toNat

/-- a / b, rounded up. -/
def ceilDiv (a b : Nat) : Nat := (a + b - 1) / b

/-- A field of `n` bytes at offset `o` of a byte list, little-endian; bytes beyond the end read 0. -/
def fld (l : List Byte) (o n : Nat) : Nat := leNat ((l.drop o).take n)

/-- Bytes `o` to `o + n − 1`, zero-filled beyond the end. -/
def slice (l : List Byte) (o n : Nat) : List Byte :=
  let t := (l.drop o).take n
  t ++ List.replicate (n - t.length) 0

/-- `n` zero bytes. -/
def zeros (n : Nat) : List Byte := List.replicate n 0

/-! ### Instruction word (R151, Table 6.1) -/

def Word.opc (w : Word) : Nat := bits w.toNat 120 8
def Word.mod (w : Word) : Nat := bits w.toNat 112 8
def Word.wsem (w : Word) : Nat := bits w.toNat 96 16
def Word.wreg (w : Word) : Nat := bits w.toNat 92 4
def Word.winc (w : Word) : Nat := bits w.toNat 80 12
def Word.ssem (w : Word) : Nat := bits w.toNat 64 16
def Word.sincRaw (w : Word) : Nat := bits w.toNat 60 4
def Word.d (w : Word) : Nat := bits w.toNat 55 5
def Word.a (w : Word) : Nat := bits w.toNat 50 5
def Word.b (w : Word) : Nat := bits w.toNat 45 5
def Word.c (w : Word) : Nat := bits w.toNat 40 5
def Word.imm (w : Word) : Nat := bits w.toNat 0 40

/-- The signal increment: 0 means 16 (R36). -/
def Word.sinc (w : Word) : Nat := if Word.sincRaw w = 0 then 16 else Word.sincRaw w

/-- The rounding-mode field of classes M, V and X (Table 6.6). -/
def Word.rnd (w : Word) : Nat := bits (Word.mod w) 0 2

/-! ### Descriptors (R162, Table 6.8) -/

def Desc.base (d : Desc) : Nat := bits d.toNat 0 23
def Desc.dev (d : Desc) : Nat := bits d.toNat 0 64
def Desc.z (d : Desc) (k : Nat) : Nat := bits d.toNat (64 + 16 * k) 16
def Desc.s (d : Desc) (k : Nat) : Int := signed 20 (bits d.toNat (128 + 20 * k) 20)
def Desc.fmt (d : Desc) : Nat := bits d.toNat 208 4
def Desc.scale (d : Desc) : Int := signed 8 (bits d.toNat 212 8)
def Desc.tag (d : Desc) : Nat := bits d.toNat 220 12
def Desc.ndim (d : Desc) : Nat := bits d.toNat 232 2
def Desc.nib (d : Desc) : Nat := bits d.toNat 234 1
def Desc.space (d : Desc) : Nat := bits d.toNat 235 1
def Desc.valid (d : Desc) : Bool := d.getLsbD 236

/-- A descriptor with bits [lo + w − 1 : lo] replaced. -/
def Desc.put (d : Desc) (lo w v : Nat) : Desc :=
  BitVec.ofNat 256 (d.toNat - (bits d.toNat lo w) * 2 ^ lo + (v % 2 ^ w) * 2 ^ lo)

/-- A descriptor as a register holds it: reserved bits read 0 (R10, Table 6.8). -/
def Desc.clean (d : Desc) : Desc :=
  let d := d &&& BitVec.ofNat 256 (2 ^ 237 - 1)
  if Desc.space d = 0 then Desc.put d 23 41 0 else d

/-- Size of dimension k as R163 reads it: 1 beyond NDIM. -/
def Desc.size (d : Desc) (k : Nat) : Nat := if k ≤ Desc.ndim d then Desc.z d k else 1

/-- Stride of dimension k as R163 reads it: 0 beyond NDIM. -/
def Desc.stride (d : Desc) (k : Nat) : Int := if k ≤ Desc.ndim d then Desc.s d k else 0

/-! ### Parts of the state -/

def State.core (s : State) (p : Nat) : Core := SMap.get {} s.cores p
def State.updCore (s : State) (p : Nat) (f : Core → Core) : State :=
  { s with cores := SMap.upd {} s.cores p f }

def State.ctx (s : State) (c : Nat) : Ctx := SMap.get {} s.ctxs c
def State.updCtx (s : State) (c : Nat) (f : Ctx → Ctx) : State :=
  { s with ctxs := SMap.upd {} s.ctxs c f }

def Core.strand (k : Core) (t : Nat) : Strand := SMap.get {} k.strands t
def Core.updStrand (k : Core) (t : Nat) (f : Strand → Strand) : Core :=
  { k with strands := SMap.upd {} k.strands t f }

def Strand.stream (t : Strand) : Eng → Stream
  | .m => t.m
  | .v => t.v
  | .x => t.x

def Strand.updStream (t : Strand) (e : Eng) (f : Stream → Stream) : Strand :=
  match e with
  | .m => { t with m := f t.m }
  | .v => { t with v := f t.v }
  | .x => { t with x := f t.x }

/-- A context exists (Table 13.13 STATE 0, 1). -/
def State.exists_ (s : State) (c : Nat) : Bool := (s.ctx c).state != .absent

/-- Physical core of virtual core `vc` of context `c`, by its translation table (R58). -/
def State.pcore (s : State) (c vc : Nat) : Option Nat := (s.ctx c).grid[vc]?

/-- VCORES: 16 × the number of slices (R57; log 14). -/
def Ctx.vcores (x : Ctx) : Nat := 16 * x.slices.length

def State.strand (s : State) (t : StrandId) : Strand :=
  match s.pcore t.ctx t.vc with
  | some p => (s.core p).strand t.st
  | none => {}

def State.updStrand (s : State) (t : StrandId) (f : Strand → Strand) : State :=
  match s.pcore t.ctx t.vc with
  | some p => s.updCore p fun k => k.updStrand t.st f
  | none => s

def State.stream (s : State) (i : StreamId) : Stream := (s.strand i.strandId).stream i.eng

def State.updStream (s : State) (i : StreamId) (f : Stream → Stream) : State :=
  s.updStrand i.strandId fun t => t.updStream i.eng f

/-- The eight strands of a core, the three engines, in the order M, V, X. -/
def allStrands : List Nat := [0, 1, 2, 3, 4, 5, 6, 7]
def allEngs : List Eng := [.m, .v, .x]

/-- Every stream of a context, in the order virtual core, strand, M, V, X. -/
def State.streamsOf (s : State) (c : Nat) : List StreamId :=
  (List.range (s.ctx c).grid.length).flatMap fun v =>
    allStrands.flatMap fun t => allEngs.map fun e => ⟨c, v, t, e⟩

/-- Every strand of a context. -/
def State.strandsOf (s : State) (c : Nat) : List StrandId :=
  (List.range (s.ctx c).grid.length).flatMap fun v => allStrands.map fun t => ⟨c, v, t⟩

/-- The context that holds physical core `p`, with the virtual core it serves. -/
def State.ownerOf (s : State) (p : Nat) : Option (Nat × Nat) :=
  (List.range 16).findSome? fun c =>
    if s.exists_ c then
      let g := (s.ctx c).grid
      let v := g.findIdx (· = p)
      if v < g.length then some (c, v) else none
    else none

/-- Appends to what left the device (log 10). -/
def State.emit (s : State) (e : Emission) : State := { s with sent := s.sent ++ [e] }

/-- Takes the next free value's number (log 6). -/
def State.takeFree (s : State) : State := { s with freeCtr := s.freeCtr + 1 }

/-- Changes applied one after another. -/
def State.each {α : Type} (s : State) (l : List α) (f : State → α → State) : State := l.foldl f s

/-- A condition that does not hold leaves the state unchanged (log 1). -/
def State.when (s : State) (b : Bool) (f : State → State) : State := if b then f s else s

/-- A change made only where a part of the state is found (log 1). -/
def State.with_ {α : Type} (s : State) (o : Option α) (f : α → State) : State :=
  match o with
  | some a => f a
  | none => s

/-- The outcome of a command: the state it leaves. -/
def done (s : State) : Out := .next s

/-! ### Slices (R58, R173) -/

/-- Position 0–16 of the excluded core of quadrant `q` of die `n`. -/
def Part.excluded (p : Part) (n q : Nat) : Nat := bits (p.dieA.getD n 0).toNat (5 * q) 5

def Part.slotOn (p : Part) (n q : Nat) : Bool := (p.dieA.getD n 0).getLsbD (20 + q)
def Part.spareOk (p : Part) (n q : Nat) : Bool := (p.dieA.getD n 0).getLsbD (24 + q)

/-- Local index of the core that the spare of quadrant `q` has replaced, if it is in use. -/
def Part.replaced (p : Part) (n q : Nat) : Option Nat :=
  let w := (p.dieB.getD n 0).toNat
  if bits w (8 * q + 7) 1 = 1 then some (bits w (8 * q) 7) else none

/-- Physical core of the excluded core of quadrant `q` of die `n`. -/
def Part.spareCore (p : Part) (n q : Nat) : Nat := 68 * n + 17 * q + p.excluded n q

/-- Physical slice `k` is enabled: bit die × 4 + slot. -/
def Part.sliceOn (p : Part) (k : Nat) : Bool := k < 16 && p.slotOn (k / 4) (k % 4)

/-- Physical cores of slice `k` in ascending order, a spare in the place of the core it replaced. -/
def Part.sliceCores (p : Part) (k : Nat) : List Nat :=
  let n := k / 4
  let q := k % 4
  ((List.range 17).filter (· != p.excluded n q)).map fun i =>
    let loc := 17 * q + i
    match [0, 1, 2, 3].find? fun r => p.replaced n r = some loc with
    | some r => p.spareCore n r
    | none => 68 * n + loc

/-- The translation table of a list of slices (R58). -/
def Part.gridOf (p : Part) (slices : List Nat) : List Nat := slices.flatMap p.sliceCores

/-- Slices of a part in ascending physical number. -/
def Part.slices (p : Part) : List Nat := (List.range 16).filter p.sliceOn

end Sys2Proof.Machine
end

