-- ==== Sys2Proof/Machine/Numbers.lean ====
section
/-! DEFINITION. Exact values and the arithmetic of chunk sums (04_numerics R93, R103 to R106, R111,
R114, R121). -/

namespace Sys2Proof.Machine

/-- Events of Table 4.7; a conversion of a non-finite value says which (R123). -/
inductive NumEv where
  | sat | ufl | infw | nanw | nfInf | nfNan | accovf | crumbsat | amaxskip
deriving DecidableEq, Repr

/-- An exact result before its one rounding (R139): a number of R93, or a quotient or root that no
number of the form mag · 2^exp equals. `real neg num den root exp` is ± r · 2^exp with r = num / den,
or its square root when `root`. -/
inductive Exact where
  | real (neg : Bool) (num den : Nat) (root : Bool) (exp : Int)
  | inf (neg : Bool)
  | nan
deriving DecidableEq, Repr

/-! ### Numbers -/

def Num.zero : Num := .fin false 0 0

def Num.isZero : Num → Bool
  | .fin _ m _ => m = 0
  | _ => false

def Num.finite : Num → Bool
  | .fin _ _ _ => true
  | _ => false

/-- The sign as read, also of a zero (Table 5.3). -/
def Num.sign : Num → Bool
  | .fin n _ _ => n
  | .inf n => n
  | .nan => false

/-- e(x) = floor(log2|x|) of a nonzero finite value (R104). -/
def Num.e : Num → Int
  | .fin _ m x => x + (Nat.log2 m : Int)
  | _ => 0

def Num.neg : Num → Num
  | .fin n m x => .fin (!n) m x
  | .inf n => .inf (!n)
  | .nan => .nan

def Num.abs : Num → Num
  | .fin _ m x => .fin false m x
  | .inf _ => .inf false
  | .nan => .nan

/-- x · 2^k, exact. -/
def Num.shift (k : Int) : Num → Num
  | .fin n m x => .fin n m (x + k)
  | v => v

/-- The signed significand of a finite value as a multiple of 2^lo, for lo at most its exponent. -/
def Num.at_ (lo : Int) : Num → Int
  | .fin n m x =>
    let v : Int := (m : Int) * 2 ^ (x - lo).toNat
    if n then -v else v
  | _ => 0

/-- The number i · 2^x. -/
def Num.ofInt (i : Int) (x : Int) : Num := .fin (i < 0) i.natAbs x

/-- The exponent both finite values are multiples of. -/
def Num.lo2 : Num → Num → Int
  | .fin _ _ x, .fin _ _ y => min x y
  | _, _ => 0

/-- An exact sum; infinities and NaN as in Table 5.3. The sum of two zeros is +0. -/
def Num.add (a b : Num) : Num :=
  match a, b with
  | .nan, _ => .nan
  | _, .nan => .nan
  | .inf p, .inf q => if p = q then .inf p else .nan
  | .inf p, _ => .inf p
  | _, .inf q => .inf q
  | a, b => let lo := Num.lo2 a b; Num.ofInt (a.at_ lo + b.at_ lo) lo

def Num.sub (a b : Num) : Num := a.add b.neg

/-- An exact product (R103). -/
def Num.mul (a b : Num) : Num :=
  match a, b with
  | .nan, _ => .nan
  | _, .nan => .nan
  | .inf p, .inf q => .inf (p != q)
  | .inf p, .fin n m _ => if m = 0 then .nan else .inf (p != n)
  | .fin n m _, .inf q => if m = 0 then .nan else .inf (n != q)
  | .fin n m x, .fin n' m' x' => .fin (n != n') (m * m') (x + x')

/-- a < b for values that are not NaN, in the order of the reals with infinities. -/
def Num.lt (a b : Num) : Bool :=
  match a, b with
  | .nan, _ => false
  | _, .nan => false
  | .inf p, .inf q => p && !q
  | .inf p, _ => p
  | _, .inf q => !q
  | a, b => let lo := Num.lo2 a b; a.at_ lo < b.at_ lo

/-- Equal values of the reals. -/
def Num.eqv (a b : Num) : Bool :=
  match a, b with
  | .fin _ _ _, .fin _ _ _ => !(a.lt b) && !(b.lt a)
  | .inf p, .inf q => p = q
  | _, _ => false

/-- trunc(x / 2^u), toward zero (R104). -/
def Num.trunc (u : Int) : Num → Int
  | .fin n m x =>
    let v : Int := if u ≤ x then (m : Int) * 2 ^ (x - u).toNat else ((m / 2 ^ (u - x).toNat : Nat) : Int)
    if n then -v else v
  | _ => 0

/-! ### Chunk sums (R104 to R106) -/

/-- The largest e over a list of finite values, leaving zeros out. -/
def Num.emax (l : List Num) : Option Int :=
  l.foldl (fun a p => if p.isZero then a else match a with
    | none => some p.e
    | some x => some (max x p.e)) none

/-- The value of a chunk (R104, R105). -/
def chunkValue (l : List Num) : Num :=
  if l.any (· = .nan) then .nan
  else if l.any (· = .inf false) && l.any (· = .inf true) then .nan
  else if l.any (· = .inf false) then .inf false
  else if l.any (· = .inf true) then .inf true
  else match Num.emax l with
    | none => Num.zero
    | some x => let u := x - 54; Num.ofInt (l.foldl (fun s p => s + p.trunc u) 0) u

/-- A chunk enters the running value (R106); whether ACCOVF counts. -/
def combine (a c : Num) : Num × Bool :=
  match a, c with
  | .nan, _ => (.nan, false)
  | _, .nan => (.nan, false)
  | .inf p, .inf q => (if p = q then .inf p else .nan, false)
  | .inf p, _ => (.inf p, false)
  | _, .inf q => (.inf q, false)
  | a, c =>
    let r := if c.isZero then a else if a.isZero then c else
      let u := max a.e c.e - 54
      Num.ofInt (a.trunc u + c.trunc u) u
    if !r.isZero && 1536 ≤ r.e then (.inf r.sign, true) else (r, false)

/-- Chunks combined in ascending order onto a running value, with the number of ACCOVF events. -/
def combineAll (a : Num) (l : List Num) : Num × Nat :=
  l.foldl (fun p c => let q := combine p.1 c; (q.1, p.2 + (if q.2 then 1 else 0))) (a, 0)

/-- Lists of at most `n` consecutive entries, with `fuel` pieces at most. -/
def chunksOf {α : Type} (n : Nat) : Nat → List α → List (List α)
  | 0, _ => []
  | _, [] => []
  | f + 1, l => l.take n :: chunksOf n f (l.drop n)

/-! ### Roots -/

/-- The integer square root, from bit `b` downward. -/
def isqrtFrom (n : Nat) : Nat → Nat → Nat
  | 0, r => r
  | b + 1, r => let t := r + 2 ^ b; isqrtFrom n b (if t * t ≤ n then t else r)

/-- floor(√n). -/
def isqrt (n : Nat) : Nat := isqrtFrom n (Nat.log2 n / 2 + 1) 0

/-! ### Exact results -/

def Exact.ofNum : Num → Exact
  | .fin n m x => .real n m 1 false x
  | .inf n => .inf n
  | .nan => .nan

def Exact.shift (k : Int) : Exact → Exact
  | .real n a b r x => .real n a b r (x + k)
  | v => v

def Exact.isZero : Exact → Bool
  | .real _ a _ _ _ => a = 0
  | _ => false

/-- floor(|x| · 2^k). -/
def Exact.floorAt (k : Int) : Exact → Nat
  | .real _ a b r x =>
    let t := x + k
    if r then
      if 0 ≤ t then isqrt (a * 4 ^ t.toNat / b) else isqrt (a / (b * 4 ^ (-t).toNat))
    else
      if 0 ≤ t then a * 2 ^ t.toNat / b else a / (b * 2 ^ (-t).toNat)
  | _ => 0

/-- |x| compared with q · 2^(−k): whether it is greater, and whether it is equal. -/
def Exact.cmpAt (q : Nat) (k : Int) : Exact → Ordering
  | .real _ a b r x =>
    let t := x + k
    let (l, h) :=
      if r then
        if 0 ≤ t then (a * 4 ^ t.toNat, q * q * b) else (a, q * q * b * 4 ^ (-t).toNat)
      else
        if 0 ≤ t then (a * 2 ^ t.toNat, q * b) else (a, q * b * 2 ^ (-t).toNat)
    compare l h
  | _ => .eq

/-- floor(log2|x|) of a nonzero real. -/
def Exact.e (v : Exact) : Int :=
  match v with
  | .real _ a b r x =>
    let g : Int := (Nat.log2 a : Int) - (Nat.log2 b : Int)
    let g0 : Int := x + (if r then g.fdiv 2 else g) - 1
    -- the guess is at most 2 below
    if 1 ≤ v.floorAt (-(g0 + 2)) then g0 + 2 else if 1 ≤ v.floorAt (-(g0 + 1)) then g0 + 1 else g0
  | _ => 0

/-- x compared with a number, for a real x and a finite number. -/
def Exact.cmpNum (v : Exact) (y : Num) : Ordering :=
  match v, y with
  | .real n a _ _ _, .fin n' m x' =>
    if a = 0 then (if m = 0 then .eq else if n' then .gt else .lt)
    else if m = 0 then (if n then .lt else .gt)
    else match n, n' with
      | false, true => .gt
      | true, false => .lt
      | false, false => v.cmpAt m (-x')
      | true, true => (v.cmpAt m (-x')).swap
  | _, _ => .eq

/-- A / B (Table 5.3). -/
def Num.div (a b : Num) : Exact :=
  match a, b with
  | .nan, _ => .nan
  | _, .nan => .nan
  | .inf _, .inf _ => .nan
  | .inf p, .fin n _ _ => .inf (p != n)
  | .fin _ _ _, .inf _ => .real false 0 1 false 0
  | .fin n m x, .fin n' m' x' =>
    if m' = 0 then (if m = 0 then .nan else .inf (n != n'))
    else .real (n != n') m m' false (x - x')

/-- 1 / A (Table 5.3). -/
def Num.rcp (a : Num) : Exact := (Num.fin false 1 0).div a

/-- √A (Table 5.3). -/
def Num.sqrt (a : Num) : Exact :=
  match a with
  | .nan => .nan
  | .inf n => if n then .nan else .inf false
  | .fin n m x =>
    if m = 0 then .real false 0 1 false 0
    else if n then .nan
    else if x % 2 = 0 then .real false m 1 true (x / 2) else .real false (2 * m) 1 true ((x - 1) / 2)

/-- 1 / √A (Table 5.3). -/
def Num.rsqrt (a : Num) : Exact :=
  match a with
  | .nan => .nan
  | .inf n => if n then .nan else .real false 0 1 false 0
  | .fin n m x =>
    if m = 0 then .inf false
    else if n then .nan
    else if x % 2 = 0 then .real false 1 m true (-(x / 2)) else .real false 1 (2 * m) true (-((x - 1) / 2))

/-! ### Random bits (R111) -/

/-- One round of Philox-4×32-10. -/
def philoxRound (k0 k1 : U32) (c : U32 × U32 × U32 × U32) : U32 × U32 × U32 × U32 :=
  let p0 := 0xD2511F53 * c.1.toNat
  let p1 := 0xCD9E8D57 * c.2.2.1.toNat
  (BitVec.ofNat 32 (p1 >>> 32) ^^^ c.2.1 ^^^ k0, BitVec.ofNat 32 p1,
   BitVec.ofNat 32 (p0 >>> 32) ^^^ c.2.2.2 ^^^ k1, BitVec.ofNat 32 p0)

/-- `n` rounds, the key advancing before every round but the first. -/
def philoxRounds : Nat → U32 → U32 → U32 × U32 × U32 × U32 → U32 × U32 × U32 × U32
  | 0, _, _, c => c
  | n + 1, k0, k1, c => philoxRounds n (k0 + 0x9E3779B9) (k1 + 0xBB67AE85) (philoxRound k0 k1 c)

/-- Philox-4×32-10 (R111). -/
def philox (k0 k1 : U32) (c : U32 × U32 × U32 × U32) : U32 × U32 × U32 × U32 :=
  philoxRounds 10 k0 k1 c

/-- The 16 random bits of element `e` (R110 to R113). -/
def randomBits (seed key : U64) (step : U64) (tid : U32) (e : Nat) : Nat :=
  let k := (seed ^^^ key).toNat
  let r := philox (BitVec.ofNat 32 k) (BitVec.ofNat 32 (k >>> 32))
    (BitVec.ofNat 32 step.toNat, tid, BitVec.ofNat 32 (e >>> 3), 0)
  let x := match (e % 8) / 2 with
    | 0 => r.1
    | 1 => r.2.1
    | 2 => r.2.2.1
    | _ => r.2.2.2
  bits x.toNat (16 * (e % 2)) 16

/-! ### Wire values (R120, R121) -/

/-- Significand and exponent after rounding |x| to nearest-even at `n` significant bits. -/
def roundSig (n : Nat) (m : Nat) (x : Int) : Nat × Int :=
  let l := Nat.log2 m + 1
  if l ≤ n then (m, x)
  else
    let k := l - n
    let q := m / 2 ^ k
    let r := m % 2 ^ k
    let h := 2 ^ (k - 1)
    let q := if r > h || (r = h && q % 2 = 1) then q + 1 else q
    (q, x + k)

/-- The 40-bit wire value of a number that has one, after rounding at 31 significant bits; with the
UFL or ACCOVF event (R121). -/
def toWire (v : Num) : BitVec 40 × List NumEv :=
  match v with
  | .nan => (BitVec.ofNat 40 (511 * 2 ^ 30 + 0x20000000), [])
  | .inf n => (BitVec.ofNat 40 ((if n then 2 ^ 39 else 0) + 511 * 2 ^ 30), [])
  | .fin n m x =>
    if m = 0 then (0, [])
    else
      let (q, y) := roundSig 31 m x
      let e : Int := y + (Nat.log2 q : Int)
      let s := if n then 2 ^ 39 else 0
      if e < -254 then (0, [.ufl])
      else if 256 ≤ e then (BitVec.ofNat 40 (s + 511 * 2 ^ 30), [.accovf])
      else
        let f := if y - e + 30 ≥ 0 then q * 2 ^ (y - e + 30).toNat else q / 2 ^ (-(y - e + 30)).toNat
        (BitVec.ofNat 40 (s + (e + 255).toNat * 2 ^ 30 + (f - 2 ^ 30)), [])

/-- The number of a wire value (Table 4.6). -/
def ofWire (w : BitVec 40) : Num :=
  let f := bits w.toNat 0 30
  let x := bits w.toNat 30 9
  let n := w.getLsbD 39
  if x = 0 then Num.zero
  else if x = 511 then (if f = 0 then .inf n else .nan)
  else .fin n (2 ^ 30 + f) ((x : Int) - 255 - 30)

/-- One combining step of a collective sum (R121). -/
def wireSum (a b : BitVec 40) : BitVec 40 × List NumEv := toWire ((ofWire a).add (ofWire b))

end Sys2Proof.Machine
end

