-- ==== Sys2Proof/Machine/Formats.lean ====
section
/-! DEFINITION. Element formats, rounding to a stored format, crumbs, scale choice and curves
(04_numerics R93 to R118, 05_vector_engine R142 to R144). -/

namespace Sys2Proof.Machine

/-- Element width in bits (Tables 3.1 and 4.1). -/
def fmtWidth (f : Nat) : Nat :=
  if f = 0 || f = 1 then 16 else if f = 4 || f = 7 then 4 else 8

/-- Packing factor P (Table 3.1). -/
def fmtPack (f : Nat) : Nat := 16 / fmtWidth f

/-- A code that Table 4.1 defines (R94). -/
def fmtOk (f : Nat) : Bool := f < 13
def fmtMx (f : Nat) : Bool := f = 4 || f = 5
def fmtTable (f : Nat) : Bool := 8 ≤ f && f ≤ 11

/-- Fraction bits, exponent bits and bias of a binary floating format (Table 4.1). -/
def fmtFrac : Nat → Nat
  | 0 => 10
  | 1 => 7
  | 2 => 3
  | 3 => 2
  | 4 => 1
  | 5 => 3
  | _ => 0
def fmtExpBits : Nat → Nat
  | 0 => 5
  | 1 => 8
  | 2 => 4
  | 3 => 5
  | 4 => 2
  | 5 => 4
  | _ => 0
def fmtBias (f : Nat) : Nat := 2 ^ (fmtExpBits f - 1) - 1

/-- A format-table entry's value (Table 4.2). -/
def entryNum (w : Nat) : Num :=
  let sig := signed 16 (bits w 0 16)
  match bits w 24 2 with
  | 0 => Num.ofInt sig (signed 8 (bits w 16 8))
  | 1 => .inf (sig < 0)
  | _ => .nan

/-- The value of code `c` of format table `f` (codes 0x8 to 0xB, R99). -/
def tableNum (tab : SMap U32) (f c : Nat) : Num :=
  entryNum (SMap.get 0 tab ((f - 8) * 256 + c)).toNat

/-- The value an element's bits denote, without scales (Table 4.1, R102). -/
def decodeElem (tab : SMap U32) (f v : Nat) : Num :=
  if f = 6 || f = 7 then Num.ofInt (signed (fmtWidth f) v) 0
  else if f = 12 then Num.ofInt (signed 8 v) (-8)
  else if fmtTable f then tableNum tab f v
  else
    let fb := fmtFrac f
    let eb := fmtExpBits f
    let m := bits v 0 fb
    let x := bits v fb eb
    let s := bits v (fb + eb) 1 = 1
    let top := 2 ^ eb - 1
    if (f = 0 || f = 1 || f = 3) && x = top then (if m = 0 then .inf s else .nan)
    else if (f = 2 || f = 5) && x = top && m = 7 then .nan
    else if x = 0 then .fin s m (1 - fmtBias f - fb)
    else .fin s (2 ^ fb + m) ((x : Int) - fmtBias f - fb)

/-- The exponent of an E8M0 scale byte; none for 0xFF (R98). -/
def mxExp (b : Nat) : Option Int := if b = 255 then none else some ((b : Int) - 127)

/-- An element as an instruction reads it: with SCALE and the block scale (R97, R98). -/
def readElem (tab : SMap U32) (f : Nat) (scale : Int) (mx : Option Nat) (v : Nat) : Num :=
  let x := decodeElem tab f v
  if f = 12 then x
  else
    let x := x.shift scale
    if fmtMx f then
      match mx with
      | none => x
      | some b => match mxExp b with
        | none => .nan
        | some e => x.shift e
    else x

/-! ### Rounding (R107 to R110) -/

/-- The largest finite magnitude of a format that is not a table: significand and exponent. -/
def fmtMax (f : Nat) (neg : Bool) : Nat × Int :=
  match f with
  | 0 => (2047, 5)
  | 1 => (255, 120)
  | 2 => (14, 5)
  | 3 => (7, 13)
  | 4 => (3, 1)
  | 5 => (14, 5)
  | 6 => (if neg then 128 else 127, 0)
  | 7 => (if neg then 8 else 7, 0)
  | _ => (if neg then 128 else 127, -8)

/-- The bits of magnitude q · 2^x in a binary floating or integer format. -/
def encodeMag (f : Nat) (neg : Bool) (q : Nat) (x : Int) : Nat :=
  if f = 6 || f = 7 then
    let v : Int := (q : Int) * 2 ^ x.toNat
    wrap (fmtWidth f) (if neg then -v else v)
  else
    let fb := fmtFrac f
    let eb := fmtExpBits f
    let s := if neg then 2 ^ (fb + eb) else 0
    let xmin : Int := 1 - fmtBias f - fb
    -- the significand as a multiple of its own unit
    let l : Int := Nat.log2 q
    let u := max xmin (x + l - fb)
    let m := if u ≤ x then q * 2 ^ (x - u).toNat else q / 2 ^ (u - x).toNat
    if m < 2 ^ fb then s + m else s + ((u - xmin).toNat + 1) * 2 ^ fb + (m - 2 ^ fb)

/-- Chooses hi over lo = q · 2^u for |x| between them: nearest-even, or stochastic by the top 16
discarded bits and `rnd` (R108, R110). -/
def roundUp (v : Exact) (mode rnd q : Nat) (u : Int) : Bool :=
  if v.cmpAt q (-u) = .eq then false
  else if mode = 2 then rnd < v.floorAt (-u + 16) - q * 65536
  else match v.cmpAt (2 * q + 1) (-u + 1) with
    | .gt => true
    | .eq => q % 2 = 1
    | .lt => false

/-- Bits written for an exact value in a format that is not a table (Table 4.4, R110). -/
def roundPlain (f : Nat) (v : Exact) (mode rnd : Nat) : Nat × List NumEv :=
  let maxBits (n : Bool) := let m := fmtMax f n; encodeMag f n m.1 m.2
  match v with
  | .nan =>
    match f with
    | 0 => (0x7E00, [.nanw])
    | 1 => (0x7FC0, [.nanw])
    | 3 => (0x7E, [.nanw])
    | 2 => (0x7F, [.nanw])
    | 5 => (0x7F, [.nanw])
    | _ => (0, [.nfNan])
  | .inf n =>
    if f = 0 || f = 1 || f = 3 then
      let fb := fmtFrac f
      let eb := fmtExpBits f
      ((if n then 2 ^ (fb + eb) else 0) + (2 ^ eb - 1) * 2 ^ fb, [.infw])
    else (maxBits n, [.nfInf])
  | .real n a b r x =>
    if a = 0 then (0, [])
    else
      let u : Int :=
        if f = 6 || f = 7 then 0
        else max (v.e - fmtFrac f) (1 - fmtBias f - fmtFrac f)
      let q := v.floorAt (-u)
      let q := if roundUp v mode rnd q u then q + 1 else q
      let m := fmtMax f n
      if q = 0 then (0, [.ufl])
      else if (Num.fin false m.1 m.2).lt (.fin false q u) then (maxBits n, [.sat])
      else (let _ := (b, r, x); (encodeMag f n q u, []))

/-- Least code of a table that meets a condition. -/
def tableFind (tab : SMap U32) (f : Nat) (p : Num → Bool) : Option Nat :=
  (List.range 256).find? fun c => p (tableNum tab f c)

/-- Largest finite table value not above x, or smallest not below, as the least such code. -/
def tableBest (tab : SMap U32) (f : Nat) (ok : Num → Bool) (better : Num → Num → Bool) :
    Option (Nat × Num) :=
  (List.range 256).foldl (fun b c =>
    let y := tableNum tab f c
    if y.finite && ok y then
      match b with
      | none => some (c, y)
      | some (_, z) => if better y z then some (c, y) else b
    else b) none

/-- floor(f · 65536) of R110 for lo ≤ x ≤ hi, bit by bit from bit `n` downward. -/
def tableFrac (v : Exact) (lo d : Num) : Nat → Nat → Nat
  | 0, t => t
  | n + 1, t =>
    let t' := t + 2 ^ n
    let y := lo.add ((Num.fin false t' (-16)).mul d)
    tableFrac v lo d n (if v.cmpNum y = .lt then t else t')

/-- Bits written for an exact value in a table format (R101). -/
def roundTable (tab : SMap U32) (f : Nat) (v : Exact) (mode rnd : Nat) : Nat × List NumEv :=
  let lowest := tableBest tab f (fun _ => true) (fun y z => y.lt z)
  let highest := tableBest tab f (fun _ => true) (fun y z => z.lt y)
  match v with
  | .nan =>
    match tableFind tab f (· = .nan) with
    | some c => (c, [.nanw])
    | none => ((tableFind tab f Num.isZero).getD 0, [.nfNan])
  | .inf n =>
    match tableFind tab f (· = .inf n) with
    | some c => (c, [.infw])
    | none => (((if n then lowest else highest).map Prod.fst).getD 0, [.nfInf])
  | .real n a b r x =>
    let _ := (n, b, r, x)
    let zero := a = 0
    let wrote (c : Nat) (y : Num) : Nat × List NumEv := (c, if y.isZero && !zero then [.ufl] else [])
    match lowest, highest with
    | some (cl, yl), some (ch, yh) =>
      if v.cmpNum yl = .lt then (cl, [.sat])
      else if v.cmpNum yh = .gt then (ch, [.sat])
      else
        let lo := tableBest tab f (fun y => v.cmpNum y != .lt) (fun y z => z.lt y)
        let hi := tableBest tab f (fun y => v.cmpNum y != .gt) (fun y z => y.lt z)
        match lo, hi with
        | some (c0, y0), some (c1, y1) =>
          if y0.eqv y1 then wrote c0 y0
          else if mode = 2 then
            if rnd < tableFrac v y0 (y1.sub y0) 16 0 then wrote c1 y1 else wrote c0 y0
          else match v.cmpNum ((y0.add y1).shift (-1)) with
            | .lt => wrote c0 y0
            | .gt => wrote c1 y1
            | .eq => if c0 < c1 then wrote c0 y0 else wrote c1 y1
        | _, _ => (0, [.sat])
    | _, _ => (0, [.sat])

/-- Bits written for an exact value already divided by the destination's scales (R107). -/
def roundTo (tab : SMap U32) (f : Nat) (v : Exact) (mode rnd : Nat) : Nat × List NumEv :=
  if fmtTable f then roundTable tab f v mode rnd else roundPlain f v mode rnd

/-! ### Crumbs (R114, R115) -/

/-- The exponent of ulp(w) for the bits of a binary16 or bfloat16 weight (R114). -/
def ulpExp (f w : Nat) : Int :=
  let x := bits w (fmtFrac f) (fmtExpBits f)
  (if x = 0 then 1 else (x : Int)) - fmtBias f - fmtFrac f

/-- Nearest-even integer of i · 2^x. -/
def roundInt (i x : Int) : Int :=
  if 0 ≤ x then i * 2 ^ x.toNat
  else
    let d : Int := 2 ^ (-x).toNat
    let q := i.fdiv d
    let r := i - q * d
    if 2 * r > d || (2 * r = d && q % 2 = 1) then q + 1 else q

/-- Apply-with-crumb on weight bits `w`, an update and a crumb byte: w', c' and the events (R115).
The update is already divided by D's scale (R147). -/
def applyCrumb (f w : Nat) (delta : Num) (c : Nat) : Nat × Nat × List NumEv :=
  let wv := decodeElem [] f w
  let x := (wv.add delta).add
    (if wv.finite then Num.ofInt (signed 8 c) (ulpExp f w - 8) else Num.zero)
  let (w', ev) := roundTo [] f (Exact.ofNum x) 0 0
  if x.finite then
    let r := x.sub (decodeElem [] f w')
    let u := ulpExp f w' - 8
    let k := match r with
      | .fin n m y => roundInt (if n then -(m : Int) else m) (y - u)
      | _ => 0
    if k < -128 then (w', 0x80, ev ++ [.crumbsat])
    else if 127 < k then (w', 0x7F, ev ++ [.crumbsat])
    else (w', wrap 8 k, ev)
  else (w', 0, ev)

/-! ### Choosing scales (R116, R117) -/

/-- The largest finite magnitude of a list; none where it is zero or nothing is finite (R116). -/
def amax (l : List Num) : Option Num :=
  l.foldl (fun b y => if y.finite && !y.isZero then
      match b with
      | none => some y.abs
      | some z => if z.lt y.abs then some y.abs else b
    else b) none

/-- Emf of a format (Table 4.5, R117). -/
def fmtEmf (tab : SMap U32) (f : Nat) : Int :=
  if fmtTable f then
    match amax ((List.range 256).map (tableNum tab f)) with
    | some y => y.e
    | none => 0
  else match f with
    | 0 => 15
    | 1 => 127
    | 2 => 8
    | 3 => 15
    | 4 => 2
    | 5 => 8
    | 6 => 6
    | 7 => 2
    | _ => 0

/-- The exponent s of R116 for the values considered. -/
def chooseScale (tab : SMap U32) (margin : SMap Nat) (f : Nat) (l : List Num) : Int :=
  match amax l with
  | none => 0
  | some y => y.e - fmtEmf tab f + ((SMap.get 0 margin f : Nat) : Int)

/-- The scale field of R116. -/
def clampI8 (s : Int) : Int := max (-128) (min 127 s)

/-- The MX scale byte of R116. -/
def mxByte (s : Int) : Nat := (max 0 (min 254 (s + 127))).toNat

/-! ### Curves (R142, R144) -/

/-- A coefficient word's value (Table 5.5). -/
def coefNum (w : Nat) : Num := Num.ofInt (signed 24 (bits w 0 24)) (signed 8 (bits w 24 8))

/-- Byte offset of curve `c` in the curve tables (R142). -/
def curveBase (c : Nat) : Nat := c * 4160

def curveWord (m : Memory) (c o : Nat) : Nat := leNat (Memory.readN m (curveBase c + o) 4)

/-- floor(v) of a nonnegative finite value. -/
def Num.floorNat : Num → Nat
  | .fin _ m x => if 0 ≤ x then m * 2 ^ x.toNat else m / 2 ^ (-x).toNat
  | _ => 0

/-- Curve `c` at x (R144). -/
def curveEval (m : Memory) (c : Nat) (x : Num) : Num :=
  match x with
  | .inf n => entryNum (curveWord m c (if n then 0x20 else 0x24))
  | .nan => entryNum (curveWord m c 0x28)
  | x =>
    let step := signed 8 (Memory.read m (curveBase c + 4)).toNat
    let v := (x.sub (coefNum (curveWord m c 0))).shift (-step)
    if v.lt Num.zero then
      ((coefNum (curveWord m c 0x10)).mul x).add (coefNum (curveWord m c 0x14))
    else if !(v.lt (.fin false 256 0)) then
      ((coefNum (curveWord m c 0x18)).mul x).add (coefNum (curveWord m c 0x1C))
    else
      let s := v.floorNat
      let t := v.sub (.fin false s 0)
      let o := 0x40 + 16 * s
      let c0 := coefNum (curveWord m c o)
      let c1 := coefNum (curveWord m c (o + 4))
      let c2 := coefNum (curveWord m c (o + 8))
      (c0.add (c1.mul t)).add ((c2.mul t).mul t)

end Sys2Proof.Machine
end

