-- ==== Sys2Proof/Config.lean ====
section
/-! DEFINITION. What the spec leaves open: free values, as constants without a body. Nothing in Lean
can evaluate them or prove a value of them (notes/assumptions/6.md). -/

namespace Sys2Proof.Config

/-- UNVERIFIED (log 6): the n-th free 64-bit value. -/
opaque freeWord : Nat → U64
/-- UNVERIFIED (log 6): the n-th free 384-bit value (a nonce of R365, a key drawn by hardware). -/
opaque freeKey : Nat → BitVec 384
/-- UNVERIFIED (log 15): the number of the memory row that holds a byte of HBM4 (true) or DDR5, as its
controller numbers rows (R187, R344). -/
opaque rowOf : Bool → Nat → Nat
/-- UNVERIFIED (log 11): what a routine other than FEATREAD leaves in the k-th byte its descriptors cover, given the
routine number and the bytes they cover; which of those bytes it reads as operands, and which it writes (R49, R169). -/
opaque routineByte : Nat → List Byte → Nat → Byte
opaque routineReads : Nat → List Byte → Nat → Bool
opaque routineWrites : Nat → List Byte → Nat → Bool
/-- UNVERIFIED (log 12): bytes of the configuration shard, whose layout R305 says is published with
the firmware, from a plain image of what it holds. -/
opaque cfgShardBytes : List Byte → List Byte
/-- UNVERIFIED (log 12): the DER bytes of a certificate or request (R386, R396) for a kind, a public
key and a signature. -/
opaque certBytes : Nat → List Byte → List Byte → List Byte
/-- UNVERIFIED (log 12): the cause byte of a FAILING frame (Table 11.2), for a condition of R320: 0 a
thermal trip, 1 a rail fault, 2 the last steward, 3 a reset of the whole device, 4 a tamper trip. -/
opaque failCause : Nat → Byte
/-- UNVERIFIED (log 12): the 8 timestamp bytes of a CPER header (R343) from the time base; the UTC offset is
the PTP source's. -/
opaque cperTime : U64 → List Byte
/-- UNVERIFIED (log 12): the FRU text of a CPER section (R343) for a part number and die. -/
opaque fruText : Nat → Nat → List Byte
/-- UNVERIFIED (log 12): the recovery loader's bytes in the boot ROM, and its security version (R352, R397). -/
opaque recoveryLoader : List Byte
opaque recoverySvn : Nat
/-- UNVERIFIED (log 12): the SHA-384 of the DeviceID public key that a DeviceID certificate certifies (R388 check 3
where no key is derived). -/
opaque certDevid : List Byte → List Byte
/-- UNVERIFIED (log 12): the SHA-384 of Milide's root public key k, which the manufacturing image burns (R386). -/
opaque rootKey : Nat → BitVec 384
/-- UNVERIFIED (log 12): the byte form of captured operands in capture order (R344 OPDIGEST). -/
opaque captureBytes : List Int → List Byte

end Sys2Proof.Config
end

