-- ==== Sys2Proof/Machine/Crypto.lean ====
section
/-! DEFINITION. The published functions the spec names: SHA-384, HMAC-SHA-384, ECDSA on brainpoolP384r1
with the deterministic nonce of RFC 6979 (R387), and CRC-32C (R264, R289, R363). -/

namespace Sys2Proof.Machine

/-! ### SHA-384 -/

def m64 : Nat := 2 ^ 64

/-- Rotation right of a 64-bit number. -/
def ror64 (x n : Nat) : Nat := (x >>> n ||| x <<< (64 - n)) % m64

/-- Round constants 0 to 19 of SHA-384. -/
def shaK0 : List Nat :=
  [0x428A2F98D728AE22, 0x7137449123EF65CD, 0xB5C0FBCFEC4D3B2F, 0xE9B5DBA58189DBBC,
   0x3956C25BF348B538, 0x59F111F1B605D019, 0x923F82A4AF194F9B, 0xAB1C5ED5DA6D8118,
   0xD807AA98A3030242, 0x12835B0145706FBE, 0x243185BE4EE4B28C, 0x550C7DC3D5FFB4E2,
   0x72BE5D74F27B896F, 0x80DEB1FE3B1696B1, 0x9BDC06A725C71235, 0xC19BF174CF692694,
   0xE49B69C19EF14AD2, 0xEFBE4786384F25E3, 0x0FC19DC68B8CD5B5, 0x240CA1CC77AC9C65]

/-- Round constants 20 to 39 of SHA-384. -/
def shaK1 : List Nat :=
  [0x2DE92C6F592B0275, 0x4A7484AA6EA6E483, 0x5CB0A9DCBD41FBD4, 0x76F988DA831153B5,
   0x983E5152EE66DFAB, 0xA831C66D2DB43210, 0xB00327C898FB213F, 0xBF597FC7BEEF0EE4,
   0xC6E00BF33DA88FC2, 0xD5A79147930AA725, 0x06CA6351E003826F, 0x142929670A0E6E70,
   0x27B70A8546D22FFC, 0x2E1B21385C26C926, 0x4D2C6DFC5AC42AED, 0x53380D139D95B3DF,
   0x650A73548BAF63DE, 0x766A0ABB3C77B2A8, 0x81C2C92E47EDAEE6, 0x92722C851482353B]

/-- Round constants 40 to 59 of SHA-384. -/
def shaK2 : List Nat :=
  [0xA2BFE8A14CF10364, 0xA81A664BBC423001, 0xC24B8B70D0F89791, 0xC76C51A30654BE30,
   0xD192E819D6EF5218, 0xD69906245565A910, 0xF40E35855771202A, 0x106AA07032BBD1B8,
   0x19A4C116B8D2D0C8, 0x1E376C085141AB53, 0x2748774CDF8EEB99, 0x34B0BCB5E19B48A8,
   0x391C0CB3C5C95A63, 0x4ED8AA4AE3418ACB, 0x5B9CCA4F7763E373, 0x682E6FF3D6B2B8A3,
   0x748F82EE5DEFB2FC, 0x78A5636F43172F60, 0x84C87814A1F0AB72, 0x8CC702081A6439EC]

/-- Round constants 60 to 79 of SHA-384. -/
def shaK3 : List Nat :=
  [0x90BEFFFA23631E28, 0xA4506CEBDE82BDE9, 0xBEF9A3F7B2C67915, 0xC67178F2E372532B,
   0xCA273ECEEA26619C, 0xD186B8C721C0C207, 0xEADA7DD6CDE0EB1E, 0xF57D4F7FEE6ED178,
   0x06F067AA72176FBA, 0x0A637DC5A2C898A6, 0x113F9804BEF90DAE, 0x1B710B35131C471B,
   0x28DB77F523047D84, 0x32CAAB7B40C72493, 0x3C9EBE0A15C9BEBC, 0x431D67C49C100D4C,
   0x4CC5D4BECB3E42B6, 0x597F299CFC657E2A, 0x5FCB6FAB3AD6FAEC, 0x6C44198C4A475817]

def shaK : List Nat := shaK0 ++ shaK1 ++ shaK2 ++ shaK3

/-- Initial hash value of SHA-384. -/
def shaH : List Nat := [0xCBBB9D5DC1059ED8, 0x629A292A367CD507, 0x9159015A3070DD17, 0x152FECD8F70E5939,
   0x67332667FFC00B31, 0x8EB44A8768581511, 0xDB0C2E0D64F98FA7, 0x47B5481DBEFA4FA4]

/-- The message schedule, latest word first. -/
def shaSchedule : Nat → List Nat → List Nat
  | 0, w => w
  | n + 1, w =>
    let w2 := w.getD 1 0
    let w15 := w.getD 14 0
    let s0 := ror64 w15 1 ^^^ ror64 w15 8 ^^^ (w15 >>> 7)
    let s1 := ror64 w2 19 ^^^ ror64 w2 61 ^^^ (w2 >>> 6)
    shaSchedule n ((w.getD 15 0 + s0 + w.getD 6 0 + s1) % m64 :: w)

/-- One round over the eight working variables. -/
def shaRound (v : List Nat) (kw : Nat) : List Nat :=
  match v with
  | [a, b, c, d, e, f, g, h] =>
    let s1 := ror64 e 14 ^^^ ror64 e 18 ^^^ ror64 e 41
    let ch := (e &&& f) ^^^ ((m64 - 1 - e) &&& g)
    let t1 := h + s1 + ch + kw
    let s0 := ror64 a 28 ^^^ ror64 a 34 ^^^ ror64 a 39
    let mj := (a &&& b) ^^^ (a &&& c) ^^^ (b &&& c)
    [(t1 + s0 + mj) % m64, a, b, c, (d + t1) % m64, e, f, g]
  | v => v

/-- Compression of one 128-byte block. -/
def shaBlock (h : List Nat) (b : List Byte) : List Nat :=
  let w0 := ((List.range 16).map fun i => beNat ((b.drop (8 * i)).take 8)).reverse
  let w := (shaSchedule 64 w0).reverse
  let v := (List.zip shaK w).foldl (fun v p => shaRound v (p.1 + p.2)) h
  (List.zip h v).map fun p => (p.1 + p.2) % m64

/-- Blocks one after another, at most `n`. -/
def shaBlocks : Nat → List Nat → List Byte → List Nat
  | 0, h, _ => h
  | n + 1, h, l => if l.isEmpty then h else shaBlocks n (shaBlock h (l.take 128)) (l.drop 128)

/-- SHA-384 of a byte string, 48 bytes. -/
def sha384 (l : List Byte) : List Byte :=
  let z := (239 - l.length % 128) % 128
  let p := l ++ [0x80] ++ zeros z ++ beBytes 16 (8 * l.length)
  ((shaBlocks (p.length / 128) shaH p).flatMap (beBytes 8)).take 48

/-- HMAC with SHA-384. -/
def hmac384 (key msg : List Byte) : List Byte :=
  let k := if 128 < key.length then sha384 key else key
  let k := k ++ zeros (128 - k.length)
  sha384 (k.map (· ^^^ 0x5C) ++ sha384 (k.map (· ^^^ 0x36) ++ msg))

/-! ### CRC-32C -/

/-- Eight shifts of the reflected polynomial 0x82F63B78. -/
def crcShift : Nat → Nat → Nat
  | 0, c => c
  | n + 1, c => crcShift n (if c % 2 = 1 then (c / 2) ^^^ 0x82F63B78 else c / 2)

/-- CRC-32C of a byte string. -/
def crc32c (l : List Byte) : U32 :=
  BitVec.ofNat 32 ((l.foldl (fun c b => crcShift 8 (c ^^^ b.toNat)) 0xFFFFFFFF) ^^^ 0xFFFFFFFF)

/-! ### ECDSA on brainpoolP384r1 -/

def ecP : Nat :=
  0x8cb91e82a3386d280f5d6f7e50e641df152f7109ed5456b412b1da197fb71123acd3a729901d1a71874700133107ec53
def ecA : Nat :=
  0x7bc382c63d8c150c3c72080ace05afa0c2bea28e4fb22787139165efba91f90f8aa5814a503ad4eb04a8c7dd22ce2826
def ecB : Nat :=
  0x04a8c7dd22ce28268b39b55416f0447c2fb77de107dcd2a62e880ea53eeb62d57cb4390295dbc9943ab78696fa504c11
def ecG : Nat × Nat :=
  (0x1d1c64f068cf45ffa2a63a81b7c13f6b8847a3e77ef14fe3db7fcafe0cbd10e8e826e03436d646aaef87b2e247d4af1e,
   0x8abe1d7520f9c2a45cb1eb8e95cfd55262b70b29feec5864e19c054ff99129280e4646217791811142820341263c5315)
def ecN : Nat :=
  0x8cb91e82a3386d280f5d6f7e50e641df152f7109ed5456b31f166e6cac0425a7cf3ab6af6b7fc3103b883202e9046565

/-- b^e mod m over the low `n` bits of e. -/
def powMod (m : Nat) : Nat → Nat → Nat → Nat → Nat
  | 0, _, _, r => r
  | n + 1, b, e, r => powMod m n (b * b % m) (e / 2) (if e % 2 = 1 then r * b % m else r)

/-- The inverse modulo a prime. -/
def invMod (m x : Nat) : Nat := powMod m 384 (x % m) (m - 2) 1

/-- A point in projective form: x/z², y/z³; z is 0 for the point at infinity. -/
structure EcPt where
  x : Nat
  y : Nat
  z : Nat
deriving DecidableEq, Repr

/-- The point at infinity, and a point by its coordinates. -/
def ecInf : EcPt := ⟨1, 1, 0⟩
def ecLift (p : Nat × Nat) : EcPt := ⟨p.1, p.2, 1⟩

/-- Twice a point. -/
def ecDbl (p : EcPt) : EcPt :=
  let y2 := p.y * p.y % ecP
  let s := 4 * p.x * y2 % ecP
  let z2 := p.z * p.z % ecP
  let m := (3 * p.x * p.x + ecA * (z2 * z2 % ecP)) % ecP
  let x3 := (m * m + 2 * ecP - 2 * s) % ecP
  ⟨x3, (m * (s + ecP - x3) + 8 * ecP - 8 * (y2 * y2 % ecP)) % ecP, 2 * p.y * p.z % ecP⟩

/-- Sum of two points. -/
def ecAdd (p q : EcPt) : EcPt :=
  if p.z = 0 then q
  else if q.z = 0 then p
  else
    let zp := p.z * p.z % ecP
    let zq := q.z * q.z % ecP
    let u1 := p.x * zq % ecP
    let u2 := q.x * zp % ecP
    let s1 := p.y * (q.z * zq % ecP) % ecP
    let s2 := q.y * (p.z * zp % ecP) % ecP
    if u1 = u2 then (if s1 = s2 then ecDbl p else ecInf)
    else
      let h := u2 + ecP - u1
      let r := s2 + ecP - s1
      let h2 := h * h % ecP
      let h3 := h * h2 % ecP
      let v := u1 * h2 % ecP
      let x3 := (r * r + 3 * ecP - h3 - 2 * v) % ecP
      ⟨x3, (r * (v + ecP - x3) + ecP - s1 * h3 % ecP) % ecP, h * (p.z * q.z % ecP) % ecP⟩

/-- `r` plus k times a point, over the low `n` bits of k. -/
def ecMul : Nat → Nat → EcPt → EcPt → EcPt
  | 0, _, _, r => r
  | n + 1, k, p, r => ecMul n (k / 2) (ecDbl p) (if k % 2 = 1 then ecAdd r p else r)

/-- k times a point. -/
def ecTimes (k : Nat) (p : Nat × Nat) : EcPt := ecMul 384 k (ecLift p) ecInf

/-- The coordinates of a point that is not at infinity. -/
def ecCoords (p : EcPt) : Option (Nat × Nat) :=
  if p.z = 0 then none
  else
    let i := invMod ecP p.z
    let i2 := i * i % ecP
    some (p.x * i2 % ecP, p.y * (i * i2 % ecP) % ecP)

/-- A point of the curve with coordinates below p. -/
def ecOn (p : Nat × Nat) : Bool :=
  p.1 < ecP && p.2 < ecP && (p.2 * p.2) % ecP = (p.1 * p.1 * p.1 + ecA * p.1 + ecB) % ecP

/-- The public key of a private key. -/
def ecPub (d : Nat) : Nat × Nat := (ecCoords (ecTimes (d % ecN) ecG)).getD (0, 0)

/-- The 97-byte uncompressed form of a public key (Table 13.9), coordinates as its standard has them. -/
def ecPoint (p : Nat × Nat) : List Byte := 0x04 :: (beBytes 48 p.1 ++ beBytes 48 p.2)

/-- A 97-byte key read back, if it is a point of the curve. -/
def ecParse (l : List Byte) : Option (Nat × Nat) :=
  let p := (beNat ((l.drop 1).take 48), beNat ((l.drop 49).take 48))
  if l.length = 97 && l.head? = some 0x04 && ecOn p then some p else none

/-- ECDSA verification of r and s over a message. -/
def ecVerify (pub : Nat × Nat) (msg : List Byte) (r s : Nat) : Bool :=
  if r = 0 || s = 0 || ecN ≤ r || ecN ≤ s || !ecOn pub then false
  else
    let z := beNat (sha384 msg)
    let w := invMod ecN s
    match ecCoords (ecAdd (ecTimes (z * w % ecN) ecG) (ecTimes (r * w % ecN) pub)) with
    | none => false
    | some (x, _) => x % ecN = r

/-- The nonce candidates of RFC 6979, at most `n` of them. -/
def rfc6979 : Nat → List Byte → List Byte → Nat
  | 0, _, _ => 1
  | n + 1, k, v =>
    let v := hmac384 k v
    let t := beNat v
    if 0 < t && t < ecN then t
    else
      let k := hmac384 k (v ++ [0x00])
      rfc6979 n k (hmac384 k v)

/-- The deterministic signature of a message: r, then s (R387). -/
def ecSign (d : Nat) (msg : List Byte) : Nat × Nat :=
  let h := sha384 msg
  let z := beNat h
  let x := beBytes 48 d ++ beBytes 48 (z % ecN)
  let v := List.replicate 48 (0x01 : Byte)
  let k := hmac384 (zeros 48) (v ++ [0x00] ++ x)
  let v := hmac384 k v
  let k := hmac384 k (v ++ [0x01] ++ x)
  let v := hmac384 k v
  let n := rfc6979 64 k v
  let r := ((ecCoords (ecTimes n ecG)).getD (0, 0)).1 % ecN
  (r, invMod ecN n * (z + r * d) % ecN)

/-- The 96 signature bytes: r and then s, 48 bytes each, little-endian (R387). -/
def ecSigBytes (d : Nat) (msg : List Byte) : List Byte :=
  let s := ecSign d msg
  leBytes 48 s.1 ++ leBytes 48 s.2

/-- Whether 96 signature bytes at the end of an object verify over the bytes before them (R387). -/
def ecVerifyObj (pub : Nat × Nat) (obj : List Byte) : Bool :=
  let n := obj.length - 96
  96 ≤ obj.length && ecVerify pub (obj.take n) (fld obj n 48) (fld obj (n + 48) 48)

end Sys2Proof.Machine
end

