-- ==== Sys2Proof/Machine/Mail.lean ====
section
/-! DEFINITION. Messages, mailbox channels, host frames out, notices and the event log (13_mailboxes
R353 to R367, R374, R380; 12_silent_errors R343 to R346). -/

namespace Sys2Proof

open Sys2Proof.Machine

/-! ### Byte forms -/

/-- A message as it lies in a slot: header and payload (R374). -/
def Msg.bytes (m : Msg) : List Byte :=
  leBytes 2 m.cmd.toNat ++ [m.kind, m.status] ++ leBytes 4 m.tag.toNat ++ leBytes 2 m.mseq.toNat
    ++ leBytes 2 m.payload.length ++ leBytes 4 m.detail.toNat ++ m.payload

/-- The message whose bytes a frame carries. -/
def Msg.parse (l : List Byte) : Msg :=
  { cmd := BitVec.ofNat 16 (fld l 0 2)
    kind := BitVec.ofNat 8 (fld l 2 1)
    status := BitVec.ofNat 8 (fld l 3 1)
    tag := BitVec.ofNat 32 (fld l 4 4)
    mseq := BitVec.ofNat 16 (fld l 8 2)
    detail := BitVec.ofNat 32 (fld l 12 4)
    payload := (l.drop 16).take (min 240 (fld l 10 2)) }

/-- Header and payload of a host transport frame (Table 13.8). -/
def HostFrame.bytes (f : HostFrame) : List Byte :=
  [f.ver, f.typ, f.sess, f.flags] ++ leBytes 4 f.cookie.toNat ++ leBytes 4 f.seq.toNat
    ++ leBytes 4 f.aseq.toNat ++ leBytes 8 f.sack.toNat ++ leBytes 2 f.payload.length
    ++ [f.chan, f.status] ++ leBytes 4 f.word.toNat ++ f.payload

/-- A host frame whose CRC does not fail (R363). -/
def HostFrame.crcOk (f : HostFrame) : Bool := f.crc = crc32c f.bytes

/-- A host frame with its CRC set. -/
def HostFrame.sealed (f : HostFrame) : HostFrame := { f with crc := crc32c f.bytes }

/-- Everything before the CRC of a twin-link frame (Table 11.1). -/
def TwinFrame.bytes (f : TwinFrame) : List Byte :=
  [f.ver, f.chan] ++ leBytes 2 f.payload.length ++ leBytes 4 f.seq.toNat ++ leBytes 4 f.aseq.toNat
    ++ leBytes 8 f.aux.toNat ++ f.payload ++ leBytes 8 f.mask.toNat

def TwinFrame.crcOk (f : TwinFrame) : Bool := f.crc = crc32c f.bytes
def TwinFrame.sealed (f : TwinFrame) : TwinFrame := { f with crc := crc32c f.bytes }

end Sys2Proof

namespace Sys2Proof.Machine

/-! ### Twin-link frames out (R289, R291) -/

/-- Frames that may be unacknowledged at once. -/
def twinWindow : Nat := 1024

/-- One frame leaves: it takes the next SEQ, and a TIME frame the time base of now (Table 11.2, R291). -/
def State.twinEmit (s : State) (x : TwinWaiting) : State :=
  let w := s.twin
  let aux := if x.chan = 6 then s.aon.tbase else x.aux
  let u : TwinUnacked := ⟨w.txSeq, x.chan, aux, x.payload, x.mask, x.dep⟩
  let s' := { s with twin :=
    { w with txSeq := w.txSeq + 1, unacked := w.unacked ++ [u], lastTx := s.now
             progressAt := if w.unacked.isEmpty then s.now else w.progressAt } }
  s'.emit (.twin (TwinFrame.sealed ⟨1, x.chan, w.txSeq, w.rxSeq, aux, x.payload, x.mask, 0⟩))

/-- Sends one frame on a channel of the twin link; beyond the window, or with the link down, it waits (R290, R291). -/
def State.twinSend (s : State) (chan : Byte) (aux : U64) (payload : List Byte) (mask : U64)
    (dep : Option Dep) : State :=
  let x : TwinWaiting := ⟨chan, aux, payload, mask, dep⟩
  if s.twin.up && s.twin.unacked.length < twinWindow && s.twin.waiting.isEmpty then s.twinEmit x
  else { s with twin := { s.twin with waiting := s.twin.waiting ++ [x] } }

/-- The channels in their priority, FAILING to BUDDY (Table 11.2). -/
def twinOrder : List Byte := [8, 7, 6, 4, 5, 2, 3, 1]

/-- The frame that leaves next: the first of the channel of highest priority (R290). -/
def Twin.nextWaiting (w : Twin) : Option TwinWaiting :=
  twinOrder.findSome? fun c => w.waiting.find? fun x => x.chan = c

/-- Frames that wait leave while the window has room, at most `n` of them. -/
def State.twinGo (s : State) : Nat → State
  | 0 => s
  | n + 1 =>
    if s.twin.up && s.twin.unacked.length < twinWindow then
      match s.twin.nextWaiting with
      | none => s
      | some x =>
        let w : Twin := { s.twin with waiting := s.twin.waiting.erase x }
        State.twinGo (State.twinEmit { s with twin := w } x) n
    else s

/-- A frame that has not been acknowledged, or not even sent, for which `f` holds. -/
def Twin.unsent (w : Twin) (f : Byte → U64 → Option Dep → Bool) : Bool :=
  w.unacked.any (fun u => f u.chan u.aux u.dep) || w.waiting.any fun u => f u.chan u.aux u.dep

/-- A message between the Hokunuons of a pair: the pairing exchange, the image service and the loss of a
partner; their form is not the spec's (log 12). -/
def State.hokSend (s : State) (cmd : Nat) (kind : Byte) (payload : List Byte) : State :=
  s.twinSend 0x07 0 (Msg.bytes ⟨BitVec.ofNat 16 cmd, kind, 0, 0, 0, 0, payload⟩) 0 none

/-! ### Sessions: frames out (R366, R367) -/

def Hub.session (h : Hub) (k : Nat) : Session := SMap.get {} h.sessions k
def State.session (s : State) (k : Nat) : Session := s.hub.session k
def State.updSession (s : State) (k : Nat) (f : Session → Session) : State :=
  { s with hub := { s.hub with sessions := SMap.upd {} s.hub.sessions k f } }

/-- SACK: bit i is 1 when SEQ ASEQ + 1 + i has been received (Table 13.8). -/
def Session.sack (x : Session) : U64 :=
  x.ahead.foldl (fun a f =>
    let i := (f.1.seq - x.rxSeq - 1).toNat
    if i < 64 then a ||| BitVec.ofNat 64 (2 ^ i) else a) 0

/-- An address is IPv6, and not an IPv4 one as ::ffff:a.b.c.d. -/
def isV6 (a : BitVec 128) : Bool := a.toNat / 2 ^ 32 != 0xFFFF

def Hub.hport (h : Hub) (k : Nat) : HostPort := if k = 0 then h.port0 else h.port1

/-- The IPv6 link-local address of a MAC address, by modified EUI-64 (R362). -/
def linkLocal (mac : BitVec 48) : BitVec 128 :=
  let m := mac.toNat
  BitVec.ofNat 128 (0xFE80 * 2 ^ 112 + (m / 2 ^ 24 ^^^ 0x020000) * 2 ^ 40 + 0xFFFE * 2 ^ 24 + m % 2 ^ 24)

/-- The address of a host port: as configured or recorded, else the link-local one of its MAC address, which for port 1 is
port 0's plus 1 (R362). -/
def State.hostAddr (s : State) (k : Nat) : BitVec 128 :=
  let a := (s.hub.hport k).addr
  if a = 0 then linkLocal (s.part.mac + BitVec.ofNat 48 k) else a

/-- The headers of a frame to a host: by the port's gateway, with hop limit 64, DF and ECT(0) as R261 has them, from the host
UDP port (R362; that source port and DSCP 0 are a DESIGN CHOICE, log 157). -/
def State.hostIp (s : State) (port : Nat) (addr : BitVec 128) (udp : U16) : IpHdr :=
  let src := s.hostAddr port
  { nextHop := (s.hub.hport port).gateway, src := src, dst := addr, hops := 64, df := !isV6 src, dscp := 0, ecn := 2
    sport := s.hub.udp, dport := udp }

/-- A frame of session `k` as it leaves. -/
def State.hostFrame (s : State) (k : Nat) (typ : Byte) (seq : U32) (chan status : Byte) (word : U32)
    (payload : List Byte) : HostFrame :=
  let x := s.session k
  HostFrame.sealed
    { ver := 1, typ := typ, sess := BitVec.ofNat 8 k, flags := 0, cookie := x.cookie, seq := seq
      aseq := x.rxSeq, sack := x.sack, chan := chan, status := status, word := word
      payload := payload, crc := 0, addr := x.addr, udp := x.udp, port := x.port
      ip := s.hostIp x.port x.addr x.udp }

/-- Frames a side may hold unacknowledged (R366 rule 1). -/
def hostWindow : Nat := 512

/-- Sends a frame that takes a SEQ; it carries every acknowledgement owed. A frame beyond the window
waits for room. -/
def State.hostSend (s : State) (k : Nat) (typ chan status : Byte) (word : U32) (payload : List Byte) :
    State :=
  let x := s.session k
  let f := s.hostFrame k typ x.txSeq chan status word payload
  let s' := s.updSession k fun x =>
    { x with txSeq := x.txSeq + 1, owed := 0
             unacked := x.unacked ++ [⟨x.txSeq, typ, chan, status, word, payload, 0, s.now⟩] }
  if x.unacked.length < hostWindow then s'.emit (.host f) else s'

/-- Sends an ACK, which takes no SEQ (R366). -/
def State.hostAckOut (s : State) (k : Nat) (seq : U32) (status : Byte) : State :=
  let f := s.hostFrame k 0x07 0 0 status seq []
  (s.updSession k fun x => { x with owed := 0 }).emit (.host f)

/-! ### Channels (R353 to R360) -/

def State.chan (s : State) (n : Nat) : Chan := SMap.get {} s.hub.chans n
def State.updChan (s : State) (n : Nat) (f : Chan → Chan) : State :=
  { s with hub := { s.hub with chans := SMap.upd {} s.hub.chans n f } }

def State.bind (s : State) (n : Nat) : U16 := SMap.get 0 s.hub.bind n
def bindSrc (b : U16) : Nat := bits b.toNat 0 5
def bindDst (b : U16) : Nat := bits b.toNat 5 5
def bindValid (b : U16) : Bool := b.getLsbD 10

/-- The channel, if any, with a binding from `src` to `dst`. -/
def State.findChan (s : State) (src dst : Nat) : Option Nat :=
  (List.range 64).find? fun n =>
    let b := s.bind n
    bindValid b && bindSrc b = src && bindDst b = dst

def stewGet (h : Hub) : Nat → StewState
  | 0 => h.stew0
  | 1 => h.stew1
  | 2 => h.stew2
  | _ => h.stew3

def stewSet (h : Hub) (k : Nat) (x : StewState) : Hub :=
  match k with
  | 0 => { h with stew0 := x }
  | 1 => { h with stew1 := x }
  | 2 => { h with stew2 := x }
  | _ => { h with stew3 := x }

/-- The steward that serves identity Sk (R349, R350). -/
def Hub.server (h : Hub) (k : Nat) : Nat := h.serves.getD k k

/-- A steward that executes. -/
def StewState.works : StewState → Bool
  | .working => true
  | _ => false

/-- Some steward works. -/
def Hub.alive (h : Hub) : Bool := [0, 1, 2, 3].any fun k => (stewGet h k).works

/-- Receiver state of an identity: 0 ready, 1 asleep, 2 in reset, 3 dead (Table 13.5). -/
def State.recvState (s : State) (d : Nat) : Nat :=
  if d < 8 then (if (s.session d).opened then 0 else 3)
  else if d < 12 then
    match stewGet s.hub (s.hub.server (d - 8)) with
    | .working => 0
    | .standby => 1
    | .asleep => 1
    | .waking => 1
    | .inReset _ => 2
    | .failed => if s.hub.alive then 2 else 3
  else if d < 16 then
    (if s.twin.silent || s.twin.lost then 3 else if s.twin.up then 0 else 2)
  else 0

/-- CHSTAT of a channel (Table 13.4). -/
def State.chstat (s : State) (n : Nat) : U32 :=
  let c := s.chan n
  let b := s.bind n
  BitVec.ofNat 32 (c.slots.length + 16 * c.head.toNat
    + (if bindValid b then 2 ^ 16 * s.recvState (bindDst b) else 0))

/-- Kind, reason, count, first and last MSEQ, and the last word of an EVENT frame (Table 13.9). -/
def eventBytes (kind reason count : Nat) (first last : U16) (w : Nat) : List Byte :=
  leBytes 1 kind ++ leBytes 1 reason ++ leBytes 1 count ++ [0] ++ leBytes 2 first.toNat
    ++ leBytes 2 last.toNat ++ leBytes 4 w

/-- Tells the sender `src` of channel `n` of an empty channel or discarded messages (R358, R359). -/
def State.notifySender (s : State) (n src kind reason count : Nat) (first last : U16) (w : Nat) : State :=
  if src < 8 then
    s.when (s.session src).opened fun s =>
      s.hostSend src 0x0B (BitVec.ofNat 8 n) 0 0 (eventBytes kind reason count first last w)
  else if src < 12 then s.emit (.stewardIrq (s.hub.server (src - 8)) n 0)
  else if src < 16 then
    s.when s.twin.up fun s =>
      s.twinSend 0x07 0 (eventBytes kind reason count first last w) 0 none
  else s.emit (.hokNotice n reason count)

/-- The answer to a post. -/
inductive PostAns where
  | stored | full | aborted | denied
deriving DecidableEq, Repr

/-- Time a steward takes to wake, in µs (R359). -/
def stewWakeUs : Nat := 200

/-- A post on channel `n` (R356, R359); `seq` is the MSEQ a host frame gives. -/
def State.post (s : State) (n : Nat) (m : Msg) (seq : Option U16) : State × PostAns :=
  let b := s.bind n
  if !bindValid b then (s, .denied)
  else
    let c := s.chan n
    let r := s.recvState (bindDst b)
    let q := seq.getD c.mseq
    if r != 0 then
      let s := s.updChan n fun c => { c with mbabort := c.mbabort + 1 }
      let s := s.when (r = 1) fun s =>
        let k := s.hub.server (bindDst b - 8)
        { s with hub := stewSet s.hub k .waking }
      let reason := if r = 1 then 3 else if r = 2 then 1 else 2
      (s.notifySender n (bindSrc b) 2 reason 1 q q (if r = 1 then stewWakeUs else 0), .aborted)
    else if 8 ≤ c.slots.length then
      (s.updChan n fun c => { c with mbfull := c.mbfull + 1 }, .full)
    else
      let m := { m with mseq := q }
      let s := s.updChan n fun c =>
        { c with slots := c.slots ++ [m], mseq := if seq.isNone then c.mseq + 1 else c.mseq }
      let d := bindDst b
      let s := s.when (d < 8) fun s => s.hostSend d 0x08 (BitVec.ofNat 8 n) 0 0 m.bytes
      let s := s.when (12 ≤ d && d < 16) fun s => s.twinSend 0x07 0 m.bytes 0 none
      (s, .stored)

/-- A message of Hokunuon: posted, or kept for another try while the channel is full (R356). -/
def State.sendMsg (s : State) (n : Nat) (m : Msg) : State :=
  if s.hub.outbox.any (·.1 = n) then { s with hub := { s.hub with outbox := s.hub.outbox ++ [(n, m)] } }
  else
    let r := s.post n m none
    if r.2 = .full then { r.1 with hub := { r.1.hub with outbox := r.1.hub.outbox ++ [(n, m)] } } else r.1

/-- Tries the oldest kept message of channel `n` again. -/
def State.retry (s : State) (n : Nat) : State :=
  match s.hub.outbox.find? (·.1 = n) with
  | none => s
  | some e =>
    let r := s.post n e.2 none
    if r.2 = .full then s
    else { r.1 with hub := { r.1.hub with outbox := r.1.hub.outbox.erase e } }

/-- The receiver takes the oldest message (R356); a take that leaves the channel empty tells the
sender (R358). -/
def State.take (s : State) (n : Nat) : State × Option Msg :=
  match (s.chan n).slots with
  | [] => (s, none)
  | m :: r =>
    let s := (s.updChan n fun c => { c with slots := r, head := c.head + 1 }).retry n
    (s.when (s.chan n).slots.isEmpty fun s => s.notifySender n (bindSrc (s.bind n)) 1 0 0 0 0 0, some m)

/-- The receiver of channel `n` enters reset (reason 1) or dead (reason 2): messages are discarded,
registers reset, the sender told (R359). -/
def State.abortChan (s : State) (n reason : Nat) : State :=
  let c := s.chan n
  let k := c.slots.length
  let first := (c.slots.head?.map Msg.mseq).getD 0
  let last := (c.slots.getLast?.map Msg.mseq).getD 0
  let s := s.updChan n fun c =>
    { c with slots := [], head := 0, db := 0, mask := 0, mbabort := c.mbabort + BitVec.ofNat 64 k }
  s.notifySender n (bindSrc (s.bind n)) 2 reason k first last 0

/-- Identity `d` enters reset or dead (R359). -/
def State.receiverDown (s : State) (d reason : Nat) : State :=
  s.each ((List.range 64).filter fun n => bindValid (s.bind n) && bindDst (s.bind n) = d)
    fun s n => s.abortChan n reason

/-- Session `k` becomes dead (R367). -/
def State.sessionDead (s : State) (k : Nat) : State :=
  let s := s.updSession k fun x =>
    { x with opened := false, unacked := [], ahead := [], owed := 0, nonce := none, cookie := 0 }
  s.receiverDown k 2

/-! ### Notices (R380) -/

/-- A notice on channel `n`. -/
def State.noticeOn (s : State) (n : Nat) (code : Nat) (tag : U32) (status : Byte) (detail : U32)
    (payload : List Byte) : State :=
  s.sendMsg n ⟨BitVec.ofNat 16 (0x0F00 + code), 2, status, tag, 0, detail, payload⟩

/-- A notice about context `c` goes on its Cn to H channel. -/
def State.noticeCtx (s : State) (c code : Nat) (tag : U32) (status : Byte) (detail : U32)
    (payload : List Byte) : State :=
  match (List.range 64).find? fun n =>
      let b := s.bind n
      bindValid b && bindSrc b = 16 + c && bindDst b < 8 with
  | some n => s.noticeOn n code tag status detail payload
  | none => s

/-- A device notice goes on every bound S to H channel of every open session. -/
def State.noticeDev (s : State) (code : Nat) (tag : U32) (status : Byte) (detail : U32)
    (payload : List Byte) : State :=
  s.each ((List.range 64).filter fun n =>
      let b := s.bind n
      bindValid b && 8 ≤ bindSrc b && bindSrc b < 12 && bindDst b < 8 && (s.session (bindDst b)).opened)
    fun s n => s.noticeOn n code tag status detail payload

/-! ### Events (R343 to R346) -/

/-- The fields of an event that apply to it; the rest hold all ones if they are locations and 0
otherwise (R344). -/
structure Ev where
  event : Nat
  verdict : Nat := 0xFF
  unit : Nat := 0
  ustate : Nat := 0
  die : Nat := 0xFF
  pcore : Nat := 0xFFFF
  vcore : Nat := 0xFFFF
  ctx : Nat := 0xFF
  strand : Nat := 0xFF
  stream : Nat := 0xFF
  aquad : Nat := 0xFF
  /-- PC of the instruction, for a checksum event (R90) -/
  pc : Nat := 0xFFFFFFFF
  loc : U64 := 0xFFFFFFFFFFFFFFFF
  vofs : Nat := 0
  fofs : Nat := 0
  presult : Nat := 0
  case : U64 := 0
  opc : Nat := 0
  fmtA : Nat := 0
  fmtB : Nat := 0
  record : List Byte := []
  opdigest : List Byte := []
  detail : List Byte := []
deriving DecidableEq, Repr

/-- The failure signature (R345). -/
def Ev.fsig (e : Ev) : U64 :=
  BitVec.ofNat 64 (e.event + 2 ^ 8 * e.unit + 2 ^ 16 * e.opc + 2 ^ 24 * e.fmtA + 2 ^ 28 * e.fmtB
    + 2 ^ 32 * fld e.opdigest 0 4)

/-- The unit an event concerns, for COUNT24: kind and location. -/
def Cper.sameUnit (a b : Cper) : Bool :=
  a.event = b.event && a.unit = b.unit && a.pcore = b.pcore && a.loc = b.loc && a.die = b.die

/-- 24 hours of the time base, in units of 2^−10 ns (R226, R344). -/
def day24 : Nat := 24 * 3600 * 1000000000 * 1024

/-- Raises an event: a record in the device log and the always-on log, and a notice (R343, R346,
R380). -/
def State.raise (s : State) (e : Ev) : State :=
  let t := s.aon.tbase
  let r : Cper :=
    { id := s.aon.recCounter, event := BitVec.ofNat 8 e.event, verdict := BitVec.ofNat 8 e.verdict
      unit := BitVec.ofNat 8 e.unit, ustate := BitVec.ofNat 8 e.ustate, die := BitVec.ofNat 8 e.die
      pcore := BitVec.ofNat 16 e.pcore, vcore := BitVec.ofNat 16 e.vcore, ctx := BitVec.ofNat 8 e.ctx
      strand := BitVec.ofNat 8 e.strand, stream := BitVec.ofNat 8 e.stream
      aquad := BitVec.ofNat 8 e.aquad, pc := BitVec.ofNat 32 e.pc
      step := if e.ctx < 16 then (s.ctx e.ctx).step else 0
      time := t, loc := e.loc, vofs := BitVec.ofNat 8 e.vofs, fofs := BitVec.ofNat 8 e.fofs
      presult := BitVec.ofNat 8 e.presult, count24 := 0, fsig := e.fsig, case := e.case
      record := slice e.record 0 64, opdigest := slice e.opdigest 0 48, detail := slice e.detail 0 64 }
  let n := (s.hub.cper.filter fun x => x.sameUnit r && (t - x.time).toNat ≤ day24).length + 1
  let r := { r with count24 := BitVec.ofNat 32 n }
  let full := 1024 ≤ s.hub.cper.length
  let s := { s with
    hub := { s.hub with
      cper := (if full then s.hub.cper.drop 1 else s.hub.cper) ++ [r]
      cperLost := s.hub.cperLost + (if full then 1 else 0) }
    aon := { s.aon with
      recCounter := s.aon.recCounter + 1
      faultLog := (if 64 ≤ s.aon.faultLog.length then s.aon.faultLog.drop 1 else s.aon.faultLog) ++ [r] } }
  let p := leBytes 8 r.id.toNat ++ leBytes 8 r.fsig.toNat ++ leBytes 8 r.case.toNat
  if e.ctx < 16 then s.noticeCtx e.ctx e.event 0 0 0 p else s.noticeDev e.event 0 0 0 p

/-- An event to Hokunuon or the host that has no code in Table 12.7. -/
def State.tell (s : State) (kind : Nat) (args : List Nat) : State := s.emit (.event kind args)

/-- The die of a physical core, and its quadrant (R12). -/
def coreDie (p : Nat) : Nat := p / 68
def coreQuad (p : Nat) : Nat := p % 68 / 17

/-- The Milide section's fields that name a core (Table 12.8). -/
def State.evCore (s : State) (p : Nat) (e : Ev) : Ev :=
  { e with
    unit := 1, pcore := p, die := coreDie p
    ustate := match (s.core p).svc with
      | .serving => 0
      | .suspect => 1
      | .proofing => 2
      | .released => 3
      | .retired => 4
      | .absent => 5
    ctx := match s.ownerOf p with
      | some (c, _) => c
      | none => e.ctx
    vcore := match s.ownerOf p with
      | some (_, v) => v
      | none => e.vcore }

end Sys2Proof.Machine
end

