-- ==== Sys2Proof/Machine/Store.lean ====
section
/-! DEFINITION. The stores: address translation, reads, writes, poison and held errors
(07_memory_tiers). -/

namespace Sys2Proof.Machine

/-- A byte's place, its offset there, and the region of R204 it lies in: 0 own scratchpad, 1 HBM,
2 DDR5, 3 and 4 staging halves, 5 buddy window, 6 + v virtual window of v. -/
structure Spot where
  place : Place
  off : Nat
  region : Nat
deriving DecidableEq, Repr

/-- Bytes of a scratchpad (R177). -/
def spBytes : Nat := 0x600000

/-- Bytes of an HBM unit: 16 GiB, or 8 GiB for unit 71 (R186). -/
def hbmUnitBytes (u : Nat) : Nat := if u = 71 then 2 ^ 33 else 2 ^ 34

def hbmBytes (l : List Nat) : Nat := (l.map hbmUnitBytes).sum

/-- The stack of a device HBM address (R187). -/
def hbmStack (bandLocal : List Nat) (d : Nat) : Nat :=
  let band := d / (192 * 2 ^ 30)
  let b := d % (192 * 2 ^ 30)
  if bandLocal.contains band then b >>> 34 else (b >>> 12) % 12

/-- The byte within its stack of a device HBM address (R187). -/
def hbmByte (bandLocal : List Nat) (d : Nat) : Nat :=
  let band := d / (192 * 2 ^ 30)
  let b := d % (192 * 2 ^ 30)
  band * 2 ^ 34 + if bandLocal.contains band then b % 2 ^ 34 else (b >>> 12) / 12 * 2 ^ 12 + b % 2 ^ 12

/-- Place `a` of a list of units of `2^sh` bytes. -/
def inUnits (l : List Nat) (sh : Nat) (a : Nat) : Option Nat :=
  match l[a >>> sh]? with
  | some u => some (u * 2 ^ sh + a % 2 ^ sh)
  | none => none

/-- A context address as the context's view gives it (R185); `grant` lists its buddy-window units. -/
def Ctx.spot (x : Ctx) (guard : Bool) (grant : List Nat) (a : Nat) : Option Spot :=
  if a < 0x100000000000 then
    match x.hbmUnits[a >>> 34]? with
    | some u =>
      let o := a % 2 ^ 34
      if o < hbmUnitBytes u then some ⟨.hbm, u * 2 ^ 34 + o, 1⟩ else none
    | none => none
  else if a < 0x180000000000 then
    (inUnits x.ddrUnits 36 (a - 0x100000000000)).map fun o => ⟨.ddr, o, 2⟩
  else if 0x280000000000 ≤ a && a < 0x280000000000 + x.grid.length * 2 ^ 24 then
    let v := (a - 0x280000000000) >>> 24
    let o := a % 2 ^ 24
    if o < spBytes then (x.grid[v]?).map fun p => ⟨.scratch p, o, 6 + v⟩ else none
  else if 0x300000000000 ≤ a && a < 0x300020000000 then
    (inUnits x.stageUnits 20 (a - 0x300000000000)).map fun o => ⟨.stage, o, 3 + x.stageHub⟩
  else if guard && 0x400000000000 ≤ a && a < 0x480000000000 then
    let o := a - 0x400000000000
    if grant.contains (o >>> 36) then some ⟨.buddy, o, 5⟩ else none
  else none

/-- Snapshot-area units of a context for its generations (R297). -/
def Settings.genUnits (x : Settings) (ddr : Nat) (hbm : Nat) (vcores : Nat) : Nat :=
  -- configuration and state shards take less than 1 GiB; R297's ceiling over whole units
  let state := 0x40 + vcores * 15360 + 256
  x.gens * (ddr + (hbm + state + 2 ^ 20 + (2 ^ 36 - 1)) / 2 ^ 36)

/-- Units of the twin's buddy region that hold context `x`'s snapshot area (R296, R297). -/
def Ctx.areaUnits (x : Ctx) : Nat :=
  if x.cfg.set.target = 2 then
    x.cfg.set.genUnits x.ddrUnits.length (hbmBytes x.hbmUnits) x.vcores
  else 0

/-- The buddy-window units granted to a context: its BSCRATCH units, the first of its place in the region (R296; DESIGN
CHOICE, log 16). -/
def Ctx.buddyGrant (x : Ctx) : List Nat := (List.range x.cfg.set.bscratch).map (x.areaBase + ·)

/-- The spot of a context address (R185). -/
def State.spot (s : State) (c : Nat) (a : Int) : Option Spot :=
  match a with
  | .ofNat a => (s.ctx c).spot (s.twin.mode = 1) (s.ctx c).buddyGrant a
  | .negSucc _ => none

/-- The spot of an offset in the own scratchpad of physical core `p`. -/
def spSpot (p : Nat) (a : Int) : Option Spot :=
  match a with
  | .ofNat a => if a < spBytes then some ⟨.scratch p, a, 0⟩ else none
  | .negSucc _ => none

/-! ### Reverse translation -/

/-- The context that holds a spot, and its context address (R185). -/
def State.holder (s : State) (pl : Place) (o : Nat) : Option (Nat × Nat) :=
  match pl with
  | .scratch p => (s.ownerOf p).map fun (c, v) => (c, 0x280000000000 + v * 2 ^ 24 + o)
  | .hbm => (List.range 16).findSome? fun c =>
      let l := (s.ctx c).hbmUnits
      let i := l.findIdx (· = o >>> 34)
      if i < l.length then some (c, i * 2 ^ 34 + o % 2 ^ 34) else none
  | .ddr => (List.range 16).findSome? fun c =>
      let l := (s.ctx c).ddrUnits
      let i := l.findIdx (· = o >>> 36)
      if i < l.length then some (c, 0x100000000000 + i * 2 ^ 36 + o % 2 ^ 36) else none
  | .stage => (List.range 16).findSome? fun c =>
      let l := (s.ctx c).stageUnits
      let i := l.findIdx (· = o >>> 20)
      if i < l.length then some (c, 0x300000000000 + i * 2 ^ 20 + o % 2 ^ 20) else none
  | .buddy => none

/-- The device address of a spot (Table 7.3). -/
def devAddr : Place → Nat → Nat
  | .scratch p, o => 0x200000000000 + p * 2 ^ 24 + o
  | .hbm, o => o
  | .ddr, o => 0x100000000000 + o
  | .stage, o => 0x300000000000 + o
  | .buddy, o => 0x400000000000 + o

/-- Pages of 64 KiB of an HBM partition (R300, R302). -/
def hbmPages (l : List Nat) : Nat := hbmBytes l / 2 ^ 16

/-- The page of a spot in its context's copy order: HBM units in list order, then DDR5 units (R300). -/
def State.pageOf (s : State) (pl : Place) (o : Nat) : Option (Nat × Nat) :=
  match s.holder pl o with
  | none => none
  | some (c, a) =>
    match pl with
    | .hbm => some (c, a / 2 ^ 16)
    | .ddr => some (c, hbmPages (s.ctx c).hbmUnits + (a - 0x100000000000) / 2 ^ 16)
    | _ => none

/-- Place and device offset of the first byte of a page of context `x`. -/
def Ctx.pageSpot (x : Ctx) (pg : Nat) : Option (Place × Nat) :=
  let h := hbmPages x.hbmUnits
  if pg < h then
    (x.hbmUnits[pg / 2 ^ 18]?).map fun u => (.hbm, u * 2 ^ 34 + pg % 2 ^ 18 * 2 ^ 16)
  else
    (x.ddrUnits[(pg - h) / 2 ^ 20]?).map fun u => (.ddr, u * 2 ^ 36 + (pg - h) % 2 ^ 20 * 2 ^ 16)

/-! ### Bytes and poison -/

def State.memAt (s : State) : Place → Memory
  | .scratch p => (s.core p).sp
  | .hbm => s.mem.hbm
  | .ddr => s.mem.ddr
  | .stage => s.mem.stage
  | .buddy => s.twin.inMem

def State.poisonAt (s : State) : Place → Poison
  | .scratch p => (s.core p).poison
  | .hbm => s.mem.hbmPoison
  | .ddr => s.mem.ddrPoison
  | .stage => s.mem.stagePoison
  | .buddy => s.twin.inPoison

def State.setMem (s : State) (pl : Place) (m : Memory) : State :=
  match pl with
  | .scratch p => s.updCore p fun k => { k with sp := m }
  | .hbm => { s with mem := { s.mem with hbm := m } }
  | .ddr => { s with mem := { s.mem with ddr := m } }
  | .stage => { s with mem := { s.mem with stage := m } }
  | .buddy => { s with twin := { s.twin with inMem := m } }

def State.setPoison (s : State) (pl : Place) (q : Poison) : State :=
  match pl with
  | .scratch p => s.updCore p fun k => { k with poison := q }
  | .hbm => { s with mem := { s.mem with hbmPoison := q } }
  | .ddr => { s with mem := { s.mem with ddrPoison := q } }
  | .stage => { s with mem := { s.mem with stagePoison := q } }
  | .buddy => { s with twin := { s.twin with inPoison := q } }

def State.byteAt (s : State) (pl : Place) (o : Nat) : Byte := Memory.read (s.memAt pl) o

/-- The poison bit of the granule that holds a byte. -/
def State.bad (s : State) (pl : Place) (o : Nat) : Bool := SMap.get false (s.poisonAt pl) (o / 64)

/-- Marks or clears the poison of granule `g`. -/
def State.markGranule (s : State) (pl : Place) (g : Nat) (b : Bool) : State :=
  s.setPoison pl (SMap.set false (s.poisonAt pl) g b)

/-- Poisons granules. -/
def State.poisonAll (s : State) (l : List (Place × Nat)) : State :=
  s.each l fun s q => s.markGranule q.1 q.2 true

/-- The DDR5 channel of a device DDR5 offset (R194). -/
def State.ddrChan (s : State) (o : Nat) : Nat :=
  let n := s.mem.ddrHalf
  if n = 1 then (o >>> 8) % 8 else if n = 2 then 8 + (o >>> 8) % 8 else (o >>> 8) % 16

/-- The memory interface behind a byte (R187, R194). -/
def State.iface (s : State) (pl : Place) (o : Nat) : Option PortId :=
  match pl with
  | .hbm => some (.hbm (hbmStack s.mem.bandLocal o))
  | .ddr => some (.ddr (s.ddrChan o))
  | _ => none

/-- The state of a core is being copied to a spare (R334). -/
def State.coreMoves (s : State) (p : Nat) : Bool :=
  (List.range 16).any fun c => (s.ctx c).subst.any fun e => e.1 = p

/-- Some access may have to wait. -/
def State.anyHeld (s : State) : Bool :=
  !s.mem.inReset.isEmpty || (List.range 16).any fun c => !(s.ctx c).subst.isEmpty

/-- The interface behind a byte is in a reset of its own, or the core it lies in moves to a spare: new accesses wait
(R334 step 2, R421 rule 3). -/
def State.heldAt (s : State) (pl : Place) (o : Nat) : Bool :=
  (!s.mem.inReset.isEmpty && (s.iface pl o).any s.mem.inReset.contains)
    || match pl with
      | .scratch p => s.coreMoves p
      | _ => false

/-- The interface behind a byte failed to retrain: accesses complete with ISOLATED (R425). -/
def State.isolatedAt (s : State) (pl : Place) (o : Nat) : Bool :=
  !s.mem.isolated.isEmpty && (s.iface pl o).any s.mem.isolated.contains

/-! ### Suspect units (R328, R334) -/

/-- A day in arithmetic-clock cycles. -/
def dayCycles : Nat := 86400 * 940000000

/-- A core becomes suspect; one that is out of service keeps its state. -/
def State.suspectCore (s : State) (p : Nat) : State :=
  if p < 272 then
    match (s.core p).svc with
    | .serving => s.updCore p fun k => { k with svc := .suspect, suspectAt := s.now }
    | _ => s
  else s

/-- The store of a place. -/
def Place.store : Place → Option Store
  | .scratch p => some (.scratch p)
  | .hbm => some .hbm
  | .ddr => some .ddr
  | .stage => some .staging
  | .buddy => none

def Place.ofStore : Store → Option Place
  | .scratch p => some (.scratch p)
  | .hbm => some .hbm
  | .ddr => some .ddr
  | .staging => some .stage
  | _ => none

/-- Index of a store's corrected-error counter (R199). -/
def storeIdx : Store → Nat
  | .scratch _ => 0
  | .staging => 1
  | .slots _ => 2
  | .routine _ => 3
  | .vault => 4
  | .hbm => 5
  | .ddr => 6

/-- Bytes of a code word (Table 7.6). -/
def codeBytes : Store → Nat
  | .hbm => 64
  | .ddr => 64
  | _ => 8

/-- The core a store belongs to. -/
def storeCore : Store → Option Nat
  | .scratch p => some p
  | .slots p => some p
  | .routine p => some p
  | _ => none

/-- The row of a memory that holds a device offset: stack or channel, and its row there, as LOC gives them (Table 12.8). How
a stack or channel maps its bytes onto rows is not the spec's (R187, R194; log 15). -/
def State.rowAt (s : State) (hbm : Bool) (o : Nat) : Nat :=
  if hbm then hbmStack s.mem.bandLocal o + 256 * Config.rowOf true (hbmByte s.mem.bandLocal o)
  else s.ddrChan o + 256 * Config.rowOf false o

def State.rowLoc (s : State) (hbm : Bool) (o : Nat) : U64 := BitVec.ofNat 64 (s.rowAt hbm o)

/-- The event fields of a memory error (Table 12.8). -/
def State.memEv (s : State) (event : Nat) (st : Store) (o : Nat) : Ev :=
  let pl := Place.ofStore st
  let h := pl.bind fun pl => s.holder pl o
  let d := (pl.map fun pl => devAddr pl o).getD 0
  let e : Ev := { event := event, detail := leBytes 8 ((h.map Prod.snd).getD (2 ^ 64 - 1)) ++ leBytes 8 d }
  let e := match storeCore st with
    | some p => s.evCore p e
    | none => match st with
      | .hbm => { e with unit := 4, loc := s.rowLoc true o, die := hbmStack s.mem.bandLocal o / 3 }
      | .ddr => { e with unit := 5, loc := s.rowLoc false o, die := 4 + s.ddrChan o / 8 }
      | _ => { e with unit := 7, die := 4 + (if o < 2 ^ 28 then 0 else 1) }
  match h with
  | some (c, _) => { e with ctx := c }
  | none => e

/-- A row of HBM4 or DDR5 becomes suspect; one that is already stays so (R328). -/
def State.suspectRow (s : State) (hbm : Bool) (r : Nat) : State :=
  if s.mem.suspectRows.contains (hbm, r) then s
  else { s with mem := { s.mem with suspectRows := s.mem.suspectRows ++ [(hbm, r)] } }

/-- A correctable error is written back corrected, counted, and may make a unit suspect (R199,
R328). -/
def State.corrected (s : State) (e : MemErr) : State :=
  let s := { s with mem := { s.mem with
    corrected := SMap.upd 0 s.mem.corrected (storeIdx e.store) (· + 1) } }
  match storeCore e.store with
  | some p =>
    let l := ((s.core p).corrected.filter fun t => s.now - t < dayCycles) ++ [s.now]
    let s := s.updCore p fun k => { k with corrected := l }
    if l.length = 16 then (s.suspectCore p).raise (s.memEv 7 e.store e.addr) else s
  | none =>
    if e.store = .hbm || e.store = .ddr then
      let hb : Bool := decide (e.store = .hbm)
      let r := s.rowAt hb e.addr
      let l := (s.mem.rowErrs.filter fun t => s.now - t.2.2 < dayCycles) ++ [(hb, r, s.now)]
      let s := { s with mem := { s.mem with rowErrs := l } }
      if (l.filter fun t => t.1 = hb && t.2.1 = r).length = 4 then (s.suspectRow hb r).raise (s.memEv 7 e.store e.addr) else s
    else s

/-- An uncorrectable error poisons its granule in place and raises a memory event (R198, R199). -/
def State.uncorrected (s : State) (e : MemErr) : State :=
  let s := match Place.ofStore e.store with
    | some pl => s.markGranule pl (e.addr / 64) true
    | none => s
  let s := match storeCore e.store with
    | some p => s.suspectCore p
    | none =>
      if e.store = Store.hbm || e.store = Store.ddr then
        let hb : Bool := decide (e.store = Store.hbm)
        s.suspectRow hb (s.rowAt hb e.addr)
      else s
  s.raise (s.memEv 6 e.store e.addr)

/-- An error is found: it leaves the list of errors held. -/
def State.foundErr (s : State) (e : MemErr) : State :=
  let s := { s with mem := { s.mem with latent := s.mem.latent.erase e } }
  if e.correctable then s.corrected e else s.uncorrected e

/-- Adds errors that stores now hold (R455). -/
def State.addErrs (s : State) (l : List MemErr) : State :=
  { s with mem := { s.mem with latent := s.mem.latent ++ l } }

/-- A read of bytes finds every error of the code words it reads (R199). -/
def State.readFinds (s : State) (pl : Place) (addrs : List Nat) : State :=
  if s.mem.latent.isEmpty then s
  else match pl.store with
    | none => s
    | some st =>
      let w := codeBytes st
      s.each (s.mem.latent.filter fun e => e.store = st && addrs.any fun a => a / w = e.addr / w)
        State.foundErr

/-- A read of every byte for which `p` holds finds the errors there (R199). -/
def State.findErrs (s : State) (pl : Place) (p : Nat → Bool) : State :=
  if s.mem.latent.isEmpty then s
  else match pl.store with
    | none => s
    | some st => s.each (s.mem.latent.filter fun e => e.store = st && p e.addr) State.foundErr

/-! ### Writes -/

/-- One byte of a write: bits under `msk` take those of `val`; `bad` where it carries poison. -/
structure W where
  addr : Nat
  val : Byte
  msk : Byte := 0xFF
  bad : Bool := false
deriving DecidableEq, Repr

/-- Distinct numbers, in order of first appearance. -/
def distinct (l : List Nat) : List Nat :=
  l.foldl (fun a x => if a.contains x then a else a ++ [x]) []

/-- Every bit of `n` bytes from `a` is written. -/
def coversAll (ws : List W) (a n : Nat) : Bool :=
  (List.range n).all fun i =>
    (ws.foldl (fun m w => if w.addr = a + i then m ||| w.msk else m) (0 : Byte)) = 0xFF

/-- The copier reads a page of a context's partition: errors held there are found, and those that cannot be corrected go
with the page as poison (R199, R300). -/
def State.pageReads (s : State) (c pg : Nat) : State :=
  if s.mem.latent.isEmpty then s
  else match (s.ctx c).pageSpot pg with
    | none => s
    | some (pl, o) =>
      let mine (e : MemErr) : Bool := pl.store = some e.store && o ≤ e.addr && e.addr < o + 65536
      let bad := (s.mem.latent.filter fun e => mine e && !e.correctable).map fun e => (e.addr - o) / 64
      let s := s.findErrs pl fun a => o ≤ a && a < o + 65536
      let h := hbmPages (s.ctx c).hbmUnits
      let mark (q : Poison) (p : Nat) : Poison := bad.foldl (fun q g => SMap.set false q (1024 * p + g) true) q
      s.updCtx c fun x => { x with ckpt := { x.ckpt with copying := x.ckpt.copying.map fun k =>
        { k with capt :=
          if pg < h then { k.capt with hbmPoison := mark k.capt.hbmPoison pg }
          else { k.capt with ddrPoison := mark k.capt.ddrPoison (pg - h) } } } }

/-- A write to a page that a checkpoint still has to copy copies it first, into the fence buffer while
that has room (R300, R301); the page counts as written since the fence (R314). -/
def State.beforeWrite (s : State) (pl : Place) (o : Nat) : State :=
  match s.pageOf pl o with
  | none => s
  | some (c, pg) =>
    let s := s.updCtx c fun x =>
      { x with ckpt := { x.ckpt with written := SMap.set false x.ckpt.written pg true } }
    match (s.ctx c).ckpt.copying with
    | none => s
    | some k =>
      if k.next ≤ pg && !k.early.contains pg then
        let room := s.mem.fenceUsed < 16384
        let s := s.pageReads c pg
        let s := s.updCtx c fun x => { x with ckpt := { x.ckpt with copying := x.ckpt.copying.map fun k =>
          { k with
            early := k.early ++ [pg]
            fenced := if room then k.fenced ++ [pg] else k.fenced
            heldPages := if room then k.heldPages else k.heldPages ++ [pg] } } }
        if room then { s with mem := { s.mem with fenceUsed := s.mem.fenceUsed + 1 } } else s
      else s

/-- Errors a write meets: those of code words it replaces whole are gone, those of words it replaces
in part are found (R455). -/
def State.writeFinds (s : State) (pl : Place) (ws : List W) : State :=
  if s.mem.latent.isEmpty then s
  else match pl.store with
    | none => s
    | some st =>
      let w := codeBytes st
      s.each (s.mem.latent.filter fun e => e.store = st && ws.any fun x => x.addr / w = e.addr / w)
        fun s e =>
          if coversAll ws (e.addr / w * w) w then
            { s with mem := { s.mem with latent := s.mem.latent.erase e } }
          else s.foundErr e

/-- Weight holds whose block spans a written address lose their tags, and keep what they hold (R75). -/
def holdsAfter (h : SMap Hold) (ws : List W) : SMap Hold :=
  h.foldl (fun h e =>
    if ws.any fun w => e.2.lo ≤ w.addr && w.addr ≤ e.2.hi then SMap.set {} h e.1 { e.2 with valid := false } else h) h

def State.dropHolds (s : State) (pl : Place) (ws : List W) : State :=
  match pl with
  | .scratch p => s.updCore p fun k => { k with holds := holdsAfter k.holds ws }
  | _ => s

/-- Poison of the granules a write reaches (Table 7.8): poisoned data poisons, a full write clears, a
partial write leaves. -/
def poisonAfter (q : Poison) (ws : List W) : Poison :=
  (distinct (ws.map fun w => w.addr / 64)).foldl (fun q g =>
    let l := ws.filter fun w => w.addr / 64 = g
    if l.any (·.bad) then SMap.set false q g true
    else if 64 ≤ l.length && coversAll l (64 * g) 64 then SMap.set false q g false
    else q) q

/-- Bytes after a write, the last write of a bit standing. -/
def bytesAfter (m : Memory) (ws : List W) : Memory :=
  ws.foldl (fun m w =>
    Memory.write m w.addr ((Memory.read m w.addr &&& ~~~w.msk) ||| (w.val &&& w.msk))) m

/-- The bytes and poison of one write, without its side conditions. -/
def State.land (s : State) (pl : Place) (ws : List W) : State :=
  (s.setMem pl (bytesAfter (s.memAt pl) ws)).setPoison pl (poisonAfter (s.poisonAt pl) ws)

/-- One write of an instruction, a fragment or Hokunuon to one place. -/
def State.store (s : State) (pl : Place) (ws : List W) : State :=
  let s := s.each (distinct (ws.map fun w => w.addr / 2 ^ 16)) fun s g => s.beforeWrite pl (g * 2 ^ 16)
  let s := s.writeFinds pl ws
  (s.land pl ws).dropHolds pl ws

/-- Writes that may lie in several places, place by place in order of first appearance. -/
def State.storeSpots (s : State) (l : List (Place × W)) : State :=
  s.each (l.foldl (fun a x => if a.contains x.1 then a else a ++ [x.1]) ([] : List Place))
    fun s pl => s.store pl ((l.filter (·.1 = pl)).map Prod.snd)

/-- Unpoisoned bytes from an offset upward. -/
def plainWs (o : Nat) (l : List Byte) : List W :=
  (List.range l.length).map fun i => { addr := o + i, val := l.getD i 0 }

/-- Errors held in the bytes from `lo` to `hi` are gone: their code words have been written whole (R455). -/
def State.clearErrs (s : State) (pl : Place) (lo hi : Nat) : State :=
  match pl.store with
  | none => s
  | some st => { s with mem := { s.mem with
      latent := s.mem.latent.filter fun e => !(e.store = st && lo ≤ e.addr && e.addr < hi) } }

/-- Zeroing by full writes of `n` bytes from `o`: contents, poison and held errors are gone (R196,
R316, R418). -/
def State.zeroRange (s : State) (pl : Place) (o n : Nat) : State :=
  let s := s.setMem pl (SMap.clear (s.memAt pl) o (o + n))
  let s := s.setPoison pl (SMap.clear (s.poisonAt pl) ((o + 63) / 64) ((o + n) / 64))
  s.clearErrs pl o (o + n)

end Sys2Proof.Machine
end

