-- ==== Sys2Proof/Machine/Streams.lean ====
section
/-! DEFINITION. Streams: reaching an instruction, waits, signals, loops, and taking a fault
(02_strands_and_streams, 08_semaphores R209 to R218). -/

namespace Sys2Proof.Machine

/-! ### Faults (R61 to R65, R454) -/

/-- A fault condition an instruction meets: code of Table 2.3, operand and detail of Table 2.4. -/
structure Flt where
  code : Nat
  operand : Nat := 0xFF
  detail : Nat := 0
deriving DecidableEq, Repr

/-- Priorities of Table 2.3. -/
def faultPrio : Nat → Nat
  | 1 => 4
  | 2 => 5
  | 3 => 7
  | 4 => 3
  | 5 => 8
  | 6 => 9
  | 7 => 10
  | 8 => 1
  | 9 => 2
  | 10 => 11
  | _ => 6

/-- All ones, the detail of a forbidden register (Table 2.5). -/
def allOnes : Nat := 2 ^ 64 - 1

/-- The fault an instruction raises of those it meets: the best priority, and the first of them in
the order of R454. -/
def bestFault (l : List Flt) : Option Flt :=
  l.foldl (fun b f => match b with
    | none => some f
    | some g => if faultPrio f.code < faultPrio g.code then some f else b) none

/-- The order in which fault records are kept and the primary is chosen (R63). -/
def FaultRec.key (r : FaultRec) : Nat :=
  (((faultPrio r.code.toNat * 65536 + r.vcore.toNat) * 256 + r.strand.toNat) * 256 + r.stream.toNat)
    * 2 ^ 32 + r.pc.toNat

/-- Inserts a record in order; an earlier record of the same key stays first. -/
def insertRec (r : FaultRec) : List FaultRec → List FaultRec
  | [] => [r]
  | x :: l => if r.key < x.key then r :: x :: l else x :: insertRec r l

/-- The records after one more fault: the best 16, with the count and flags of all of them (R63,
Table 2.4). -/
def addRecord (l : List FaultRec) (n : Nat) (r : FaultRec) : List FaultRec :=
  let l := (insertRec r l).take 16
  (List.zip (List.range 16) l).map fun (k, x) =>
    { x with
      count := BitVec.ofNat 16 n
      flags := (x.flags &&& 0x06) ||| (if k = 0 then 0x01 else 0) ||| (if 16 < n then 0x08 else 0) }

/-- The 64 bytes of a fault record (Table 2.4). -/
def FaultRec.bytes (r : FaultRec) : List Byte :=
  [r.code, r.flags, r.ctx, r.strand, r.stream, r.depth] ++ leBytes 2 r.vcore.toNat
    ++ leBytes 2 r.pcore.toNat ++ leBytes 2 r.routine.toNat ++ leBytes 4 r.pc.toNat
    ++ leBytes 4 r.routineOfs.toNat ++ [r.operand, 0] ++ leBytes 2 r.count.toNat
    ++ leBytes 8 r.detail.toNat ++ leBytes 8 r.time.toNat ++ leBytes 8 r.step.toNat
    ++ leBytes 16 r.instr.toNat

def CtxState.isReady : CtxState → Bool
  | .ready => true
  | _ => false

def CtxState.isStopping : CtxState → Bool
  | .stopping _ => true
  | _ => false

/-- Cycles a stream has spent in the Waiting it leaves (R233). -/
def Stream.leaveWait (x : Stream) (now : Nat) : Stream :=
  if x.state = .waiting then
    { x with ctrs := { x.ctrs with waitcyc := x.ctrs.waitcyc + BitVec.ofNat 64 (now - x.waitSince) } }
  else x

/-- Counters survive a clear, with the cycles of a Waiting that it ends (R233); everything else of a stream, and of a
strand, is as it was at first. A slice that joins a context keeps what its streams have counted (DESIGN CHOICE, log 143:
R122 speaks of the context's creation alone). -/
def Stream.cleared (x : Stream) (now : Nat) : Stream := { num := x.num, ctrs := (x.leaveWait now).ctrs }
def Strand.cleared (t : Strand) (now : Nat) : Strand :=
  { m := t.m.cleared now, v := t.v.cleared now, x := t.x.cleared now, gathEvict := t.gathEvict }

/-- A strand whose virtual core moves with nothing copied: its counters go along, and Faulted stays (Table 2.2). -/
def Strand.moved (t : Strand) (now : Nat) : Strand :=
  let f (x : Stream) : Stream := { x.cleared now with state := if x.state = .faulted then .faulted else .idle }
  { t.cleared now with m := f t.m, v := f t.v, x := f t.x }

/-- Drops the M instruction of a strand that is issued and not granted yet; its stream comes to phase `ph`. -/
def State.dropUngranted (s : State) (t : StrandId) (ph : Phase) : State :=
  let x := s.strand t
  s.when (x.m.state = .running && x.m.phase = .executing && x.mrun.any fun r => !r.granted) fun s =>
    (s.updStrand t fun x => { x with mrun := none }).updStream (t.stream .m) fun x => { x with phase := ph }

/-- Every stream of a context stops issuing and enters Faulted (R62 step 2); open groups are discarded
(R82), and M instructions not yet granted do not run. -/
def State.haltCtx (s : State) (c : Nat) : State :=
  let s := s.each (s.strandsOf c) fun s t => s.dropUngranted t .boundary
  let s := s.each (s.streamsOf c) fun s i =>
    s.updStream i fun x => { x.leaveWait s.now with state := .faulted }
  s.each (s.strandsOf c) fun s t => s.updStrand t fun x =>
    { x with openGroup := none }

/-- Changes what is kept of a step for its closure record (R253). -/
def CkptState.updStep (k : CkptState) (step : U64) (f : StepData → StepData) : CkptState :=
  if k.steps.any fun d => d.step = step then
    { k with steps := k.steps.map fun d => if d.step = step then f d else d }
  else { k with steps := k.steps ++ [f { step := step }] }

/-- Glaze records of the latest steps that a closure can still cover. -/
def Ctx.updStep (x : Ctx) (step : U64) (f : StepData → StepData) : Ctx :=
  { x with ckpt := x.ckpt.updStep step f }

/-- The step under way is covered by no closure: the context faulted or was reset in it (R253). -/
def Ctx.voidStep (x : Ctx) : Ctx := x.updStep x.step fun d => { d with void := d.void || !d.ended }

/-- What closures may still cover when a context starts again from step `n`: what it ran of that step and later ones is run
again, and a step it faulted in stays without closure (R253). -/
def CkptState.rerun (k : CkptState) (n : U64) : CkptState :=
  { k with steps := k.steps.filterMap fun d =>
      if d.step.toNat < n.toNat || (d.step = n && d.ended) then some d
      else if d.step = n && d.void then some { step := n, void := true }
      else none }

/-- A context begins to stop: from here no signal leaves it (R62 steps 2 and 3); its unclosed seals
are discarded and gathered records of an older stop give way (R249, R63). -/
def State.beginStop (s : State) (c : Nat) (ctl : Bool) : State :=
  if (s.ctx c).state.isReady then
    (s.updCtx c fun x =>
      { x.voidStep with state := .stopping s.now, stopCtl := ctl, records := [], nfaults := 0, partials := [] }).haltCtx c
  else s

/-- Writes a fault record while the context stops (R62 steps 1 and 4). -/
def State.record (s : State) (c : Nat) (r : FaultRec) : State :=
  if (s.ctx c).state.isStopping then
    s.updCtx c fun x =>
      { x with nfaults := x.nfaults + 1, records := addRecord x.records (x.nfaults + 1) r }
  else s

/-- The fault arose inside a library routine: in the execution of a CALL, and not while it waited (R52). -/
def inRoutine (word : Word) (issue : Bool) (f : Flt) : Bool := Word.opc word = 0x0A && !issue && f.code != 10

/-- A fault of a stream: the context stops and a record is written (R61, R62). `issue` is flags [1]. A fault inside a
routine carries flags [2], its number and the offset where it arose, which is the routine's own and so a free value
(R52; log 6). -/
def State.fault (s : State) (i : StreamId) (word : Word) (pc : U32) (depth : Nat) (issue : Bool)
    (f : Flt) : State :=
  let s := s.beginStop i.ctx false
  let rt := inRoutine word issue f
  let ofs : U32 := if rt then BitVec.ofNat 32 (Config.freeWord s.freeCtr).toNat else 0
  let s := s.when rt State.takeFree
  s.record i.ctx
    { code := BitVec.ofNat 8 f.code, flags := if issue then 0x02 else if rt then 0x04 else 0
      ctx := BitVec.ofNat 8 i.ctx, strand := BitVec.ofNat 8 i.st, stream := BitVec.ofNat 8 i.eng.num
      depth := BitVec.ofNat 8 depth, vcore := BitVec.ofNat 16 i.vc
      pcore := BitVec.ofNat 16 ((s.pcore i.ctx i.vc).getD 0xFFFF)
      routine := if rt then BitVec.ofNat 16 (bits (Word.imm word) 0 16) else 0xFFFF, pc := pc
      routineOfs := ofs, operand := BitVec.ofNat 8 f.operand, count := 0, detail := BitVec.ofNat 64 f.detail
      time := s.aon.tbase, step := (s.ctx i.ctx).step, instr := word }

/-- A fault of the instruction a stream is at. -/
def State.faultAt (s : State) (i : StreamId) (word : Word) (issue : Bool) (f : Flt) : State :=
  let x := s.stream i
  s.fault i word x.pc x.loops.length issue f

/-- A fault of an instruction in execution, by its latched copy. -/
def State.faultRun (s : State) (i : StreamId) (l : Latch) (f : Flt) : State :=
  s.fault i l.word l.pc l.depth false f

/-! ### Semaphores (R209 to R218) -/

/-- The value of semaphore `n` of context `c` (R209). -/
def State.sem (s : State) (c n : Nat) : U32 :=
  match s.pcore c (n / 256) with
  | some p => SMap.get 0 (s.core p).cells (n % 256)
  | none => 0

/-- A wait with target `t` releases on value `v` (R212). -/
def released (v t : U32) : Bool := (v - t).toNat < 2 ^ 31

def Core.addCell (k : Core) (cell inc : Nat) : Core :=
  { k with cells := SMap.upd 0 k.cells cell (· + BitVec.ofNat 32 inc) }

/-- An increment is taken back from its cell, for one that comes before it in its cycle. -/
def Core.subCell (k : Core) (cell inc : Nat) : Core :=
  { k with cells := SMap.upd 0 k.cells cell (· - BitVec.ofNat 32 inc) }

/-- Place in the order of R218: of a local signal by the signaller's core, strand and stream; of a remote one by its
endpoint; a host's signal comes after both (DESIGN CHOICE, log 69). Deferred increments stand first, at 0. -/
def localKey (p st e : Nat) : Nat := 1 + (p * 8 + st) * 3 + e
def remoteKey (ep : Nat) : Nat := 10000 + ep
def hostKey : Nat := 20000

/-- Increments in the order of R218, with those of the same place in the order of their arrival. -/
def insertInc (d : Inc) : List Inc → List Inc
  | [] => [d]
  | e :: l => if e.key ≤ d.key then e :: insertInc d l else d :: e :: l

/-- Increments deferred in earlier cycles are applied ahead of those that arrive, at most four; the rest are deferred
again (R218). -/
def Core.applyDeferred (k : Core) (now : Nat) : Core :=
  let old := k.deferred.filter fun d => d.cycle < now
  if old.isEmpty then k
  else
    let go := old.take 4
    let rest := (old.drop 4).map fun d => { d with key := 0, cycle := now }
    let k := go.foldl (fun k d => k.addCell d.cell d.inc) k
    { k with
      deferred := rest ++ k.deferred.filter fun d => !(d.cycle < now)
      incCycle := now, incs := go.map fun d => { d with key := 0 }
      ctrs := { k.ctrs with semdefer := k.ctrs.semdefer + BitVec.ofNat 64 rest.length } }

/-- An increment arrives at a core's synchronisation unit: of those of one cycle the first four in the order of R218
are applied, and later ones deferred; where it comes before one that has been applied in this cycle, that one gives way
to it. -/
def Core.takeInc (k : Core) (now cell inc key : Nat) : Core :=
  let d : Inc := { cell := cell, inc := inc, key := key, cycle := now }
  let k := k.applyDeferred now
  let got := if k.incCycle = now then k.incs else []
  if got.length < 4 then { k.addCell cell inc with incCycle := now, incs := insertInc d got }
  else
    let k := { k with ctrs := { k.ctrs with semdefer := k.ctrs.semdefer + 1 } }
    match got.getLast? with
    | some z =>
      if key < z.key then
        let k := (k.subCell z.cell z.inc).addCell cell inc
        { k with incs := insertInc d got.dropLast, deferred := z :: k.deferred }
      else { k with deferred := insertInc d k.deferred }
    | none => k

/-- An increment at a core's synchronisation unit (R218). -/
def State.increment (s : State) (p cell inc key : Nat) : State :=
  s.updCore p fun k => k.takeInc s.now cell inc key

/-- A signal on semaphore `n` of context `c`. -/
def State.signal (s : State) (c n inc key : Nat) : State :=
  match s.pcore c (n / 256) with
  | some p => s.increment p (n % 256) inc key
  | none => s

/-! ### Instruction classes (Tables 6.2 to 6.7, R152, R154) -/

/-- The opcode is assigned to the engine. -/
def opcOk (o : Nat) (e : Eng) : Bool :=
  (0x01 ≤ o && o ≤ 0x0B) ||
  match e with
  | .m => 0x20 ≤ o && o ≤ 0x22
  | .v => 0x40 ≤ o && o ≤ 0x54
  | .x => 0x60 ≤ o && o ≤ 0x64

/-- Illegal by its word alone (R152, R154). -/
def illegalWord (w : Word) (e : Eng) : Bool :=
  let o := Word.opc w
  let m := Word.mod w
  !opcOk o e ||
  (if o ≤ 0x0B then
    m != 0 || (o = 0x06 && (bits (Word.imm w) 0 13 = 0 || 4096 < bits (Word.imm w) 0 13))
  else if o ≤ 0x22 then bits m 0 2 = 3 || 5 ≤ bits m 3 3 || bits m 6 2 != 0
  else if o ≤ 0x54 then
    bits m 0 2 = 3 || bits m 2 6 != 0 || (o = 0x52 && 12 ≤ bits (Word.imm w) 8 4)
  else
    bits m 0 2 = 3 || bits m 5 3 != 0 ||
    (if o = 0x60 then bits m 2 2 = 3 else bits m 2 2 != 0) || (o != 0x63 && bits m 4 1 = 1))

/-- The routine table lists a number for an engine (R168). -/
def Lib.lists (l : Lib) (r : Nat) (e : Eng) : Bool :=
  l.table.any fun w => bits w.toNat 0 16 = r && bits w.toNat (16 + e.num) 1 = 1

/-- Faults found when the stream reaches the instruction, before its wait (R453 step 1). -/
def State.stage1 (s : State) (i : StreamId) (w : Word) : Option Flt :=
  let x := s.stream i
  let vc := (s.ctx i.ctx).grid.length
  let sem (n op : Nat) : List Flt :=
    if n != 0xFFFF && vc ≤ n / 256 then [⟨5, op, n⟩] else []
  let last := x.pc.toNat + bits (Word.imm w) 0 13
  let encl := match x.loops.head? with
    | some l => l.bodyEnd.toNat
    | none => 0xFFFFFFFF
  bestFault
    ((if illegalWord w i.eng then [⟨1, 0xFF, Word.opc w + 256 * Word.mod w⟩] else [])
      ++ (if Word.opc w = 0x0A && !s.lib.lists (bits (Word.imm w) 0 16) i.eng then
            [⟨11, 0xFF, bits (Word.imm w) 0 16⟩] else [])
      ++ sem (Word.wsem w) 4 ++ sem (Word.ssem w) 5
      ++ (if Word.opc w = 0x06 then
            if x.loops.length = 4 then [⟨6, 6, last % 2 ^ 32 + 2 ^ 32 * 0xFFFFFFFF⟩]
            else if !x.loops.isEmpty && encl < last then [⟨6, 6, last % 2 ^ 32 + 2 ^ 32 * encl⟩] else []
          else []))

/-- The code of a stream: the device byte of an instruction's address lies in the HBM partition (R31). -/
def State.codeSpot (s : State) (i : StreamId) (pc : Nat) : Option Spot :=
  let x := s.stream i
  match s.spot i.ctx (x.codeBase.toNat + 16 * pc : Nat) with
  | some p => if p.region = 1 then some p else none
  | none => none

/-- No instruction stands at the PC (R31). -/
def State.noInstr (s : State) (i : StreamId) : Bool :=
  let x := s.stream i
  x.codeLen.toNat ≤ x.pc.toNat || (s.codeSpot i x.pc.toNat).isNone

/-- The core of a stream runs: its clock is not stopped (R427), and it is not being cleared for a switch (R230). -/
def State.coreRuns (s : State) (c vc : Nat) : Bool :=
  match s.pcore c vc with
  | some p =>
    (match (s.core p).power with
      | .ready => true
      | _ => false)
      -- and no switch of its slice is under way (R230)
      && !s.hub.clearing.any fun e => (s.part.sliceCores e.1).contains p
  | none => false

/-- The fetched word of the instruction at the PC. -/
def Stream.cur (x : Stream) : Option Word := (x.queue.find? fun q => q.1 = x.pc).map Prod.snd

/-- The stream reaches the instruction at its PC, once that is fetched and its core runs: the increment of R35, the
first stage of checks, then the wait (R31, R35, R214, R453). Where no instruction stands at the PC the record's
instruction field holds zeros (DESIGN CHOICE, log 43: Table 2.4 names no value). -/
def State.reach (s : State) (i : StreamId) : State :=
  let x := s.stream i
  if !((s.ctx i.ctx).state.isReady && x.state = .running && x.phase = .boundary && !x.held
      && s.coreRuns i.ctx i.vc) then s
  else if s.noInstr i then s.faultAt i 0 true ⟨1, 0xFF, 2 ^ 16⟩
  else match x.cur with
    | none => s
    | some w =>
      let wait := Word.wsem w != 0xFFFF
      let e := if wait then SMap.upd 0 x.e (Word.wreg w) (· + BitVec.ofNat 32 (Word.winc w)) else x.e
      let tgt := SMap.get 0 e (Word.wreg w)
      let s := s.updStream i fun x => { x with e := e }
      match s.stage1 i w with
      | some f => s.faultAt i w true f
      | none =>
        if wait && !released (s.sem i.ctx (Word.wsem w)) tgt then
          s.updStream i fun x =>
            { x with state := .waiting, phase := .waitSem (Word.wsem w) tgt, waitSince := s.now }
        else s.updStream i fun x =>
          { x with phase := .released, syncAt := if wait then some s.now else x.syncAt }

/-- The word of the instruction a stream has reached. -/
def Stream.word (x : Stream) : Word := x.cur.getD 0

/-! ### Loops (R43 to R46) -/

/-- The PC and loop stack after the instruction at `last` (R43): the innermost body that ends there
begins its next iteration, or is left. -/
def advance (last : U32) : List LoopLevel → U32 × List LoopLevel
  | [] => (last + 1, [])
  | l :: r =>
    if l.bodyEnd = last then
      if 1 < l.remaining.toNat then
        (l.bodyStart, { l with remaining := l.remaining - 1, index := l.index + 1 } :: r)
      else advance last r
    else (last + 1, l :: r)

/-- First PC whose word the queue still needs at `pc`: the start of the outermost active body of at most 32
instructions, which is replayed from the queue, or `pc` itself (R31). -/
def keepFrom (loops : List LoopLevel) (pc : U32) : U32 :=
  match loops.reverse.find? fun l => l.bodyEnd.toNat < l.bodyStart.toNat + 32 with
  | some l => l.bodyStart
  | none => pc

/-- The issue queue once the stream stands at `pc`: words before the body it may replay are dropped; a PC whose word is
not there empties it (R31). -/
def dropQueue (q : List (U32 × Word)) (loops : List LoopLevel) (pc : U32) : List (U32 × Word) :=
  if q.any (·.1 = pc) then q.filter fun e => (keepFrom loops pc).toNat ≤ e.1.toNat else []

/-- The stream passes the instruction whose last PC is `last`. -/
def Stream.pass (x : Stream) (last : U32) : Stream :=
  let (pc, l) := advance last x.loops
  { x with pc := pc, loops := l, phase := .boundary, queue := dropQueue x.queue l pc }

/-! ### Issue and completion (R32, R36, R112, R166) -/

/-- A tensor-table entry (R112). -/
def Ctx.tensor (x : Ctx) (tag : Nat) : TensorEnt := SMap.get {} x.cfg.ttab tag

/-- The group control of an M word with value 4 resolved (Table 3.4). -/
def gctlOf (w : Word) (loops : List LoopLevel) : Nat :=
  let g := bits (Word.mod w) 3 3
  if g != 4 then g
  else match loops.head? with
    | none => 0
    | some l =>
      let first := l.index = 0
      let last := l.remaining = 1
      if first && last then 0 else if first then 1 else if last then 3 else 2

/-- BASE and NIB after a signed element offset is added to a descriptor's base (R157). -/
def Desc.addBase (d : Desc) (ofs : Int) : Desc :=
  let w := fmtWidth (Desc.fmt d)
  let n := if Desc.space d = 0 then 23 else 64
  let base : Int := (bits d.toNat 0 n : Nat)
  if w = 4 then
    let q := 2 * base + (Desc.nib d : Int) + ofs
    Desc.put (Desc.put d 0 n (wrap n (q.fdiv 2))) 234 1 (q % 2).toNat
  else Desc.put d 0 n (wrap n (base + (if w = 16 then 2 * ofs else ofs)))

/-- A register after one descriptor write (R157, R167). -/
def DescOp.apply (o : DescOp) (d : Desc) : Desc :=
  match o with
  | .add ofs => Desc.addBase d ofs
  | .scale v => Desc.put d 212 8 v
  | .load v => Desc.clean v

/-- A register after writes of one cycle, each applied to what the one before it left, in the order M, V, X (R167). -/
def applyOps (old : Desc) (l : List (Nat × DescOp)) : Desc :=
  [0, 1, 2].foldl (fun d e => (l.filter fun o => o.1 = e).foldl (fun d o => o.2.apply d) d) old

/-- The descriptor registers as an instruction of engine `e` finds them: a register that other streams of the strand
have written in this very cycle is read as it stood before those writes, unless the stream's wait released after them
(R37, R167; DEDUCED, log 131). -/
def Strand.view (x : Strand) (e : Eng) (now : Nat) (synced : Bool) : SMap Desc :=
  if synced then x.descs
  else (x.dwr.filter fun w => w.cycle = now).foldl
    (fun m w => SMap.set 0 m w.k (applyOps w.old (w.ops.filter fun o => o.1 = e.num))) x.descs

/-- The copy an instruction takes as it issues (R112, R166, R246). -/
def State.latch (s : State) (i : StreamId) : Latch :=
  let x := s.stream i
  let c := s.ctx i.ctx
  let w := x.word
  let d := (s.strand i.strandId).view i.eng s.now (x.syncAt = some s.now)
  { word := w, pc := x.pc, descs := d, step := c.step
    dEnt := c.tensor (Desc.tag (SMap.get 0 d (Word.d w)))
    aEnt := c.tensor (Desc.tag (SMap.get 0 d (Word.a w)))
    sealIdx := x.sealN, phase1 := c.cfg.active1, depth := x.loops.length, gctl := gctlOf w x.loops }

/-- A descriptor as the instruction latched it. -/
def Latch.desc (l : Latch) (k : Nat) : Desc := SMap.get 0 l.descs (k % 32)

/-- The signal of a stream's instruction whose effects are complete; a stopped context makes none (R36, R62
step 3). -/
def State.signalOf (s : State) (i : StreamId) (w : Word) : State :=
  if (s.ctx i.ctx).state.isReady && Word.ssem w != 0xFFFF then
    s.signal i.ctx (Word.ssem w) (Word.sinc w) (localKey ((s.pcore i.ctx i.vc).getD 0) i.st i.eng.num)
  else s

/-- Marks the instruction at the stream's PC as complete; LOCAL_SIGNAL makes its signal. -/
def State.complete (s : State) (i : StreamId) (l : Latch) : State :=
  s.updStream i fun x => { x with latch := l, phase := .complete }

end Sys2Proof.Machine
end

