-- ==== Sys2Proof/Machine/Operands.lean ====
section
/-! DEFINITION. Operands: element addresses, their checks, reading elements with poison, and building
writes (06 R162 to R164, 05 R133 to R137, 02 R61, 07 R201). -/

namespace Sys2Proof.Machine

/-- Coordinates of an element. -/
structure Coord where
  i0 : Nat
  i1 : Nat
  i2 : Nat
  i3 : Nat
deriving DecidableEq, Repr

/-- Every coordinate of sizes z0 to z3, dimension 0 fastest. -/
def coordsOf (z0 z1 z2 z3 : Nat) : List Coord :=
  (List.range z3).flatMap fun d => (List.range z2).flatMap fun c => (List.range z1).flatMap fun b =>
    (List.range z0).map fun a => ⟨a, b, c, d⟩

/-- The iteration space of a descriptor's sizes (R133, R163). -/
def Desc.coords (d : Desc) : List Coord :=
  coordsOf (Desc.size d 0) (Desc.size d 1) (Desc.size d 2) (Desc.size d 3)

/-- The element index of R113 for V and X instructions. -/
def Desc.index (d : Desc) (c : Coord) : Nat :=
  c.i0 + Desc.size d 0 * (c.i1 + Desc.size d 1 * (c.i2 + Desc.size d 2 * c.i3))

/-- An element's first byte and nibble. -/
structure El where
  byte : Int
  nib : Nat
deriving DecidableEq, Repr

/-- The address of an element taken with width `w` (R163). -/
def Desc.elem (d : Desc) (w : Nat) (c : Coord) : El :=
  let base : Int := if Desc.space d = 0 then (Desc.base d : Int) else (Desc.dev d : Int)
  let off : Int := (c.i0 : Int) * Desc.stride d 0 + (c.i1 : Int) * Desc.stride d 1
    + (c.i2 : Int) * Desc.stride d 2 + (c.i3 : Int) * Desc.stride d 3
  if w = 16 then ⟨base - base % 2 + 2 * off, 0⟩
  else if w = 8 then ⟨base + off, 0⟩
  else
    let q := 2 * base + (Desc.nib d : Int) + off
    ⟨q.fdiv 2, (q % 2).toNat⟩

/-- Bytes of an element of width `w`. -/
def elBytes (w : Nat) : Nat := if w = 16 then 2 else 1

/-- A register that no M or V instruction may use as an operand, or a reserved format code (R61,
R164). -/
def Desc.forbidden (d : Desc) : Bool := !Desc.valid d || Desc.space d = 1 || !fmtOk (Desc.fmt d)

/-- An address in the own scratchpad. -/
def inSp (a : Int) : Bool := 0 ≤ a && a < spBytes

/-- The low 64 bits of an address, as a detail gives it (Table 2.5). -/
def addrDetail (a : Int) : Nat := (a % 2 ^ 64).toNat

/-- The DESC_RANGE an M or V operand meets over the elements given, if any (R61). -/
def checkSp (d : Desc) (op : Nat) (w : Nat) (cs : List Coord) : List Flt :=
  if Desc.forbidden d then [⟨3, op, allOnes⟩]
  else match cs.find? fun c => !inSp (Desc.elem d w c).byte with
    | some c => [⟨3, op, addrDetail (Desc.elem d w c).byte⟩]
    | none => []

/-- Operand numbers of Table 2.4. -/
def opD : Nat := 0
def opA : Nat := 1
def opB : Nat := 2
def opC : Nat := 3

/-- The blocks of an MX operand: coordinates of its scale bytes (R98). -/
def scaleCoord (c : Coord) : Coord := { c with i0 := c.i0 / 32 }

/-- Scale coordinates that a list of element coordinates touches, each once. -/
def scaleCoords (cs : List Coord) : List Coord :=
  cs.foldl (fun l c => let k := scaleCoord c; if l.getLast? = some k || l.contains k then l else l ++ [k]) []

/-- The check of an operand's scale descriptor: only where the operand is in an MX format (R98). -/
def checkScale (d sd : Desc) (op : Nat) (cs : List Coord) : List Flt :=
  if fmtMx (Desc.fmt d) then checkSp sd (0x10 + op) 8 (scaleCoords cs) else []

/-! ### Reading -/

/-- The bits of an element at a scratchpad address. -/
def rawElem (m : Memory) (w : Nat) (a : El) : Nat :=
  let o := a.byte.toNat
  if w = 16 then leNat (Memory.readN m o 2)
  else if w = 8 then (Memory.read m o).toNat
  else bits (Memory.read m o).toNat (4 * a.nib) 4

/-- A V or M operand as it is read: its descriptor and that of its block scales. -/
structure Opd where
  d : Desc
  sd : Desc
  op : Nat
deriving DecidableEq, Repr

def Opd.width (o : Opd) : Nat := fmtWidth (Desc.fmt o.d)

/-- Byte addresses an operand's elements take, scales last (R98). -/
def Opd.addrs (o : Opd) (cs : List Coord) : List Nat :=
  (cs.flatMap fun c => let a := (Desc.elem o.d o.width c).byte.toNat
    if o.width = 16 then [a, a + 1] else [a])
  ++ (if fmtMx (Desc.fmt o.d) then (scaleCoords cs).map fun c => (Desc.elem o.sd 8 c).byte.toNat else [])

/-- The virtual-window address of a scratchpad granule of virtual core `v` (R185). -/
def windowAddr (v a : Nat) : Nat := 0x280000000000 + v * 2 ^ 24 + a / 64 * 64

/-- POISON_CONSUMED for the first poisoned granule an operand's elements or scales lie in (R201,
R454). -/
def Opd.poison (o : Opd) (q : Poison) (v : Nat) (cs : List Coord) : List Flt :=
  let hit (a : Nat) : Bool := SMap.get false q (a / 64)
  (match cs.find? fun c => hit (Desc.elem o.d o.width c).byte.toNat with
    | some c => [⟨8, o.op, windowAddr v (Desc.elem o.d o.width c).byte.toNat⟩]
    | none => [])
  ++ (if fmtMx (Desc.fmt o.d) then
    match (scaleCoords cs).find? fun c => hit (Desc.elem o.sd 8 c).byte.toNat with
    | some c => [⟨8, 0x10 + o.op, windowAddr v (Desc.elem o.sd 8 c).byte.toNat⟩]
    | none => []
    else [])

/-- The value of an operand's element (R93, R97, R98). -/
def Opd.value (o : Opd) (tab : SMap U32) (m : Memory) (c : Coord) : Num :=
  readElem tab (Desc.fmt o.d) (Desc.scale o.d)
    (if fmtMx (Desc.fmt o.d) then some (Memory.read m (Desc.elem o.sd 8 (scaleCoord c)).byte.toNat).toNat else none)
    (rawElem m o.width (Desc.elem o.d o.width c))

/-- The stored bits of an operand's element. -/
def Opd.raw (o : Opd) (m : Memory) (c : Coord) : Nat := rawElem m o.width (Desc.elem o.d o.width c)

/-! ### Writing -/

/-- The write of an element's bits of width `w`. -/
def elemWs (w : Nat) (a : El) (v : Nat) (bad : Bool) : List W :=
  let o := a.byte.toNat
  if w = 16 then
    [{ addr := o, val := BitVec.ofNat 8 v, bad := bad }, { addr := o + 1, val := BitVec.ofNat 8 (v / 256), bad := bad }]
  else if w = 8 then [{ addr := o, val := BitVec.ofNat 8 v, bad := bad }]
  else if a.nib = 0 then [{ addr := o, val := BitVec.ofNat 8 (v % 16), msk := 0x0F, bad := bad }]
  else [{ addr := o, val := BitVec.ofNat 8 (v % 16 * 16), msk := 0xF0, bad := bad }]

/-- The write of an operand's element. -/
def Opd.ws (o : Opd) (c : Coord) (v : Nat) : List W := elemWs o.width (Desc.elem o.d o.width c) v false

/-- The scratchpad granules that writes reach. -/
def wsGranules (ws : List W) : List Nat := distinct (ws.map fun w => w.addr / 64)

/-- The settings that rounding and conversion of one instruction take (R108 to R113, R117). -/
structure RoundEnv where
  tab : SMap U32
  margin : SMap Nat
  mode : Nat
  seed : U64
  key : U64
  tid : U32
  step : U64
deriving DecidableEq, Repr

/-- The rounding settings of an instruction by its latched copy. -/
def Ctx.roundEnv (x : Ctx) (l : Latch) : RoundEnv :=
  { tab := x.cfg.fmt, margin := x.cfg.margin, mode := Word.rnd l.word, seed := x.cfg.set.seed
    key := l.dEnt.key, tid := l.dEnt.tid, step := l.step }

/-- The random bits of element `e`; drawn only for stochastic rounding (R110). -/
def RoundEnv.rnd (r : RoundEnv) (e : Nat) : Nat :=
  if r.mode = 2 then randomBits r.seed r.key r.step r.tid e else 0

/-- Bits written for an exact value in the destination's format, divided by its SCALE and block scale
(R97, R107). -/
def RoundEnv.conv (r : RoundEnv) (d : Desc) (mxs : Int) (e : Nat) (v : Exact) : Nat × List NumEv :=
  roundTo r.tab (Desc.fmt d) (v.shift (-(Desc.scale d + mxs))) r.mode (r.rnd e)

/-- A number at or below a real's magnitude, within 2^-60 of it, for choosing a scale: e(amax) of R116
is the same for both. -/
def Exact.near (v : Exact) : Num :=
  match v with
  | .nan => .nan
  | .inf n => .inf n
  | .real n a _ _ _ => if a = 0 then Num.zero else .fin n (v.floorAt (60 - v.e)) (v.e - 60)

/-- One element to write: coordinates, element index of R113, and exact value. -/
structure Res where
  c : Coord
  e : Nat
  v : Exact
deriving DecidableEq, Repr

/-- A list in ascending key, equal keys in their order. -/
def insertBy {α : Type} (key : α → Nat) (x : α) : List α → List α
  | [] => [x]
  | y :: l => if key x ≤ key y then x :: y :: l else y :: insertBy key x l

def sortBy {α : Type} (key : α → Nat) (l : List α) : List α := l.foldr (insertBy key) []

/-- Writes and events of results in a destination: element by element, or for an MX destination block
by block with each block's scale first (R98, R118, R137). -/
def RoundEnv.write (r : RoundEnv) (o : Opd) (rs : List Res) : List W × List NumEv :=
  if fmtMx (Desc.fmt o.d) then
    (scaleCoords (rs.map (·.c))).foldl (fun (acc : List W × List NumEv) k =>
      let blk := rs.filter fun x => scaleCoord x.c = k
      let vals := blk.map fun x => (x.v.shift (-Desc.scale o.d)).near
      let skip := (vals.filter fun y => !y.finite).length
      let b := mxByte (chooseScale r.tab r.margin (Desc.fmt o.d) vals)
      let ws := blk.map fun x =>
        let q := r.conv o.d ((b : Int) - 127) x.e x.v
        (o.ws x.c q.1, q.2)
      (acc.1 ++ [{ addr := (Desc.elem o.sd 8 k).byte.toNat, val := BitVec.ofNat 8 b }] ++ ws.flatMap Prod.fst,
       acc.2 ++ List.replicate skip .amaxskip ++ ws.flatMap Prod.snd)) ([], [])
  else
    let ws := rs.map fun x =>
      let q := r.conv o.d 0 x.e x.v
      (o.ws x.c q.1, q.2)
    (ws.flatMap Prod.fst, ws.flatMap Prod.snd)

end Sys2Proof.Machine
end

