-- ==== Sys2Proof/Machine/Flags.lean ====
section
/-! DEFINITION. The counters and sticky flags that writes set, and glaze terms (04_numerics R122, R123;
09_reproducibility R241 to R249). -/

namespace Sys2Proof.Machine

/-- One event counted (Table 4.7). -/
def NumCtrs.count (n : NumCtrs) : NumEv → NumCtrs
  | .sat => { n with sat := n.sat + 1 }
  | .ufl => { n with ufl := n.ufl + 1 }
  | .infw => { n with infw := n.infw + 1 }
  | .nanw => { n with nanw := n.nanw + 1 }
  | .nfInf => { n with nfmap := n.nfmap + 1 }
  | .nfNan => { n with nfmap := n.nfmap + 1 }
  | .accovf => { n with accovf := n.accovf + 1 }
  | .crumbsat => { n with crumbsat := n.crumbsat + 1 }
  | .amaxskip => { n with amaxskip := n.amaxskip + 1 }

/-- The tensor flags an event sets: [0] SAT, [1] UFL, [2] INF, [3] NAN (R123). -/
def NumEv.flags : NumEv → BitVec 4
  | .sat => 1
  | .ufl => 2
  | .infw => 4
  | .nfInf => 4
  | .nanw => 8
  | .nfNan => 8
  | _ => 0

/-- The flags that events set, over those that stand. -/
def NumEv.over (evs : List NumEv) (f : BitVec 4) : BitVec 4 := evs.foldl (fun f e => f ||| e.flags) f

/-- Sets a tensor's flags under the step whose instruction wrote: those of the step in effect, or those kept for the
final seal of an earlier step, which waits for that instruction (R123, R234, R246 rule 4; log 87). -/
def Ctx.flagEvents (x : Ctx) (step : U64) (tag : Nat) (evs : List NumEv) : Ctx :=
  if x.step = step then { x with flags := SMap.upd 0 x.flags tag (NumEv.over evs) }
  else { x with pastFlags := x.pastFlags.map fun e =>
    if e.1 = step then (e.1, SMap.upd 0 e.2 tag (NumEv.over evs)) else e }

/-- Events of writes through TAG `tag` by an instruction of a stream that issued under `step`: the stream's counters
and the tensor's flags of that step (R122, R123). -/
def State.countEvents (s : State) (i : StreamId) (step : U64) (tag : Nat) (evs : List NumEv) : State :=
  if evs.isEmpty then s
  else
    let s := s.updStream i fun x => { x with num := evs.foldl NumCtrs.count x.num }
    s.updCtx i.ctx fun x => x.flagEvents step tag evs

/-- The glaze term of one element write (R241). -/
def glzH (tid : U32) (e : Nat) (bits : Nat) (p : Bool) : U64 :=
  let x : U64 := BitVec.ofNat 64 e * 0xA3B195E74C2D0F6B
  let x := x + BitVec.ofNat 64 (tid.toNat * 2 ^ 17 + (if p then 2 ^ 16 else bits % 2 ^ 16))
  let x := x ^^^ (x >>> 29)
  let x := x * 0x7F4A1C63B8D92E55
  let x := x ^^^ (x >>> 32)
  let x := x * 0xE7C32B5D91F46A0D
  x ^^^ (x >>> 31)

/-- Fields of the glaze control word (Table 9.5). -/
def TensorEnt.glz (t : TensorEnt) : Bool := t.ctl.getLsbD 0
def TensorEnt.chk (t : TensorEnt) : Bool := t.ctl.getLsbD 1
def TensorEnt.layer (t : TensorEnt) : Nat := bits t.ctl.toNat 2 13

/-- Two partial sums belong to the same contributor, instruction set and record (R245, R248). -/
def Partial.same (a b : Partial) : Bool :=
  a.vc = b.vc && a.st = b.st && a.step = b.step && a.sealIdx = b.sealIdx && a.tag = b.tag
    && a.tid = b.tid && a.layer = b.layer && a.chk = b.chk

/-- Adds a contribution to the partial sums (R245). -/
def addPartial (p : Partial) : List Partial → List Partial
  | [] => [p]
  | q :: r =>
    if q.same p then
      { q with
        sum := q.sum + p.sum, writes := q.writes + p.writes, poison := q.poison || p.poison
        writers := q.writers ||| p.writers } :: r
    else q :: addPartial p r

/-- Glaze terms of element writes of an X instruction, each with its index, bits and poison. A context
that has stopped has discarded its seals, and the terms are dropped (R243, R248, R249). -/
def State.glaze (s : State) (t : StrandId) (l : Latch) (tag : Nat) (ws : List (Nat × Nat × Bool)) : State :=
  if l.dEnt.glz && (s.ctx t.ctx).state.isReady && !ws.isEmpty then
    let p : Partial :=
      { vc := t.vc, st := t.st, step := l.step, sealIdx := l.sealIdx, tag := tag, tid := l.dEnt.tid
        layer := l.dEnt.layer, chk := l.dEnt.chk
        sum := ws.foldl (fun a w => a + glzH l.dEnt.tid w.1 w.2.1 w.2.2) 0
        writes := ws.length, poison := ws.any (·.2.2)
        writers := if Word.opc l.word = 0x62 then 2 else if Word.opc l.word = 0x63 then 4 else 1 }
    s.updCtx t.ctx fun x => { x with partials := addPartial p x.partials }
  else s

end Sys2Proof.Machine
end

