-- ==== Sys2Proof/Machine/Features.lean ====
section
/-! DEFINITION. The feature space (06_instruction_encoding R171 to R175) and the numerics signature
(04 R124, R125). -/

namespace Sys2Proof.Machine

/-! ### Signature (R124, R125) -/

/-- Bytes of a context's table image (R125). -/
def CtxCfg.tableImage (x : CtxCfg) : List Byte :=
  (List.range 1024).flatMap (fun k => leBytes 4 (SMap.get 0 x.fmt k).toNat)
    ++ (List.range 16).map (fun k => BitVec.ofNat 8 (SMap.get 0 x.margin k))
    ++ Memory.readN x.curves 0 33280

/-- THASH (Table 4.8). -/
def CtxCfg.thash (x : CtxCfg) : Nat := fld (sha384 x.tableImage) 0 8

/-- Device view of the numerics signature of steppings A1 and B0, as 128 bits. -/
def nsig : Nat := 0x0100000136400701

/-- Context view of the numerics signature. -/
def CtxCfg.csig (x : CtxCfg) : Nat :=
  nsig + (if x.set.arrival then 2 ^ 40 else 0) + 2 ^ 64 * x.thash

/-! ### The feature space (Tables 6.10 to 6.13) -/

/-- SLICES by part number. -/
def Part.nslices (p : Part) : Nat :=
  if p.part = 0x9420 then 16 else if p.part = 0x9416 then 14 else 12

/-- A set of bits. -/
def bitSet (l : List Nat) : Nat := l.foldl (fun a k => a ||| 2 ^ k) 0

/-- Matrix formats present (R4). -/
def Part.mfmt (p : Part) : Nat := if p.part = 0x9412 then 0x1F6F else 0x1FFF

/-- The latency parameters of Table 6.12. -/
def latWords (p : Part) : List Nat :=
  [4, 9, 18, 36, 52, 1150, 2400, 140, 24, if p.stepping = 0xB0 then 512 else 560, 860, 1100, 40000, 16]

/-- A word of the device view or routine table. -/
def State.devWord (s : State) (k : Nat) : Nat :=
  let p := s.part
  if k = 0 then p.part.toNat + 2 ^ 16 * p.stepping.toNat + 2 ^ 24
  else if k = 1 then
    16 * p.nslices + 2 ^ 9 * p.nslices + 2 ^ 14 * 16 + 2 ^ 23 * (16 * p.nslices)
  else if k = 2 then bitSet p.slices
  else if 4 ≤ k && k ≤ 7 then (p.dieA.getD (k - 4) 0).toNat
  else if 8 ≤ k && k ≤ 11 then (p.dieB.getD (k - 8) 0).toNat
  else if k = 0x10 then p.mfmt + 2 ^ 16 * 0x1FFF
  else if k = 0x11 then 128 + 2 ^ 8 * 128 + 2 ^ 16 * 4 + 2 ^ 20 * 8 + 2 ^ 24 * 4
  else if k = 0x12 then 65536 + 2 ^ 17 * 1024
  else if k = 0x13 then 8 + 2 ^ 4 * 64 + 2 ^ 11 * 32 + 2 ^ 17 * 4 + 2 ^ 20 * 32
  else if k = 0x14 then 1152 + 2 ^ 16 * s.mem.ddrGib
  else if k = 0x15 then s.twin.mode + 4 * s.pwr.mode + (if s.aon.twinside then 16 else 0)
  else if 0x18 ≤ k && k ≤ 0x1B then bits nsig (32 * (k - 0x18)) 32
  else if k = 0x20 then s.lib.patch.toNat + 2 ^ 8 * s.lib.minor.toNat + 2 ^ 16 * s.lib.major.toNat
  else if k = 0x21 then s.lib.table.length
  else if 0x30 ≤ k && k ≤ 0x3D then (latWords p).getD (k - 0x30) 0
  else if 0x100 ≤ k && k < 0x900 then
    bits (s.lib.table.getD ((k - 0x100) / 2) 0).toNat (32 * (k % 2)) 32
  else 0

/-- Sampler rate code in effect: the fastest while the context holds a suspect core (Table 12.3). -/
def State.smplNow (s : State) (c : Nat) : Nat :=
  if (s.ctx c).grid.any fun p => (s.core p).svc = .suspect then 7 else (s.ctx c).cfg.set.smpl

/-- A word of the context view. -/
def State.ctxWord (s : State) (c k : Nat) : Nat :=
  let x := s.ctx c
  if k = 0x900 then c + (if x.cfg.set.arrival then 16 else 0)
  else if k = 0x901 then x.vcores
  else if k = 0x902 then bitSet x.slices
  else if k = 0x903 then x.cfg.set.wlim.toNat
  else if 0x904 ≤ k && k ≤ 0x907 then bits x.cfg.csig (32 * (k - 0x904)) 32
  else if k = 0x908 then bits x.step.toNat 0 32
  else if k = 0x909 then bits x.step.toNat 32 32
  else if k = 0x90A then s.smplNow c
  else 0

/-- The 1,280 bytes of FEATREAD (R170). -/
def State.featBytes (s : State) (c : Nat) : List Byte :=
  (List.range 256).flatMap (fun k => leBytes 4 (s.devWord k))
    ++ (List.range 64).flatMap fun k => leBytes 4 (s.ctxWord c (0x900 + k))

end Sys2Proof.Machine
end

