-- ==== Sys2Proof/Machine/Ready.lean ====
section
/-! DEFINITION. When an instruction may issue: plan entries, the points and bytes of X operands, fragments, the
interlocks of a stream and the round-robin of an engine (02_strands R32, R33, R54, R55; 07 R185, R204; 10 R276, R285). -/

namespace Sys2Proof.Machine

/-! ### Plan entries (Tables 10.5, 10.6) -/

/-- A collective or dispatch plan entry. -/
abbrev Plan := BitVec 512

def Plan.fld (p : Plan) (lo w : Nat) : Nat := bits p.toNat lo w
def Plan.op (p : Plan) : Nat := Plan.fld p 0 8
def Plan.red (p : Plan) : Nat := Plan.fld p 8 8
def Plan.id (p : Plan) : Nat := Plan.fld p 32 32
def Plan.nrank (p : Plan) : Nat := Plan.fld p 64 16
def Plan.myrank (p : Plan) : Nat := Plan.fld p 80 16
def Plan.root (p : Plan) : Nat := Plan.fld p 96 16
def Plan.len (p : Plan) : Nat := Plan.fld p 192 64
def Plan.src (p : Plan) : Nat := Plan.fld p 256 64
def Plan.dst (p : Plan) : Nat := Plan.fld p 320 64
def Plan.blks (p : Plan) : Nat := Plan.fld p 416 8

def Ctx.collPlan (x : Ctx) (k : Nat) : Plan := SMap.get 0 x.cfg.collPlans k

/-- Plan number of an XCOLL or XDISP. -/
def planOf (w : Word) : Nat := bits (Word.imm w) 0 12

def Ctx.dispPlan (x : Ctx) (k : Nat) : Plan := SMap.get 0 x.cfg.dispPlans k

def Plan.kind (p : Plan) : Nat := Plan.fld p 0 8
def Plan.k (p : Plan) : Nat := Plan.fld p 8 8
def Plan.nlocal (p : Plan) : Nat := Plan.fld p 16 16
def Plan.cap (p : Plan) : Nat := Plan.fld p 128 32
def Plan.drmbase (p : Plan) : Nat := Plan.fld p 96 32
def Plan.rxbase (p : Plan) : Nat := Plan.fld p 192 64
def Plan.cntbase (p : Plan) : Nat := Plan.fld p 256 64
def Plan.h (p : Plan) : Nat := Plan.fld p 352 16
def Plan.fmt (p : Plan) : Nat := Plan.fld p 368 4
def Plan.ofmt (p : Plan) : Nat := Plan.fld p 372 4
def Plan.tmax (p : Plan) : Nat := Plan.fld p 376 32

/-- Bytes of a token vector and of an output vector. -/
def Plan.tokBytes (p : Plan) : Nat := Plan.h p * fmtWidth (Plan.fmt p) / 8
def Plan.outBytes (p : Plan) : Nat := Plan.h p * fmtWidth (Plan.ofmt p) / 8

/-- Combines begun on a plan entry: earlier instances are over. -/
def Ctx.dispNow (x : Ctx) (plan : Nat) : Nat := SMap.get 0 x.combCount plan

def Ctx.disp (x : Ctx) (plan num : Nat) : Option DispInst := x.disps.find? fun y => y.plan = plan && y.num = num

/-- Tokens of the dispatch that a combine of instance `num` belongs to. -/
def Ctx.combTokens (x : Ctx) (plan num : Nat) : Nat := ((x.disp plan num).map fun y => y.tokens).getD 0

/-! ### Points and bytes of X operands (R158, R164, R185) -/

/-- The spot of an X operand's byte address (R164, R185). -/
def State.xSpot (s : State) (t : StrandId) (d : Desc) (a : Int) : Option Spot :=
  if Desc.space d = 0 then (s.pcore t.ctx t.vc).bind fun p => spSpot p a else s.spot t.ctx a

/-- Both operands' addresses are taken with the width of A's format (R158). -/
def xWidth (l : Latch) : Nat := fmtWidth (Desc.fmt (l.desc (Word.a l.word)))
def xD (l : Latch) : Desc := l.desc (Word.d l.word)
def xA (l : Latch) : Desc := l.desc (Word.a l.word)

/-- The point of an element, as translated at issue (R185). -/
def State.pt (s : State) (t : StrandId) (d : Desc) (w : Nat) (c : Coord) : Pt :=
  let e := Desc.elem d w c
  match s.xSpot t d e.byte with
  | some p => ⟨p.place, p.off, p.region, e.nib⟩
  | none => ⟨.buddy, 0, 0, e.nib⟩

/-- An element of a transfer: its element index and coordinates, destination and source. -/
structure XEl where
  e : Nat
  c : Coord
  dst : Pt
  src : Pt
deriving DecidableEq, Repr

/-- Elements of an XCOPY or XACC in ascending e (R113, R204). -/
def State.xElems (s : State) (t : StrandId) (l : Latch) : List XEl :=
  let w := xWidth l
  (Desc.coords (xD l)).map fun c =>
    ⟨Desc.index (xD l) c, c, s.pt t (xD l) w c, s.pt t (xA l) w c⟩

/-- The elements of an XCOPY or XACC in flight, at the points it was translated to as it issued (R185). -/
def Xfer.els (x : Xfer) : List XEl :=
  (List.zip (Desc.coords (xD x.latch)) (List.zip x.dpts x.apts)).map fun z =>
    ⟨Desc.index (xD x.latch) z.1, z.1, z.2.1, z.2.2⟩

/-- Elements `lo` to `hi − 1`. -/
def Xfer.part (x : Xfer) (f : Frag) : List XEl := (x.els.drop f.lo).take (f.hi - f.lo)

/-- Fragments of R204: cut after `fmax` elements and wherever a region changes. -/
def cutFrags (fmax : Nat) : List XEl → Nat → Nat → Option (Nat × Nat) → List Frag
  | [], lo, k, _ => if lo < k then [{ lo := lo, hi := k }] else []
  | x :: r, lo, k, prev =>
    let here := (x.src.region, x.dst.region)
    if lo < k && (fmax ≤ k - lo || prev != some here) then
      { lo := lo, hi := k } :: cutFrags fmax r k (k + 1) (some here)
    else cutFrags fmax r lo (k + 1) (some here)

/-- Elements per fragment at most: 64 KiB (R204). -/
def fragMax (w : Nat) : Nat := 524288 / w

/-- Bytes of a point. -/
def Pt.bytes (w : Nat) (p : Pt) : List Nat := if w = 16 then [p.off, p.off + 1] else [p.off]

/-- The first byte and nibble of a descriptor's element (0, t) taken with width `w`. -/
def rowStart (d : Desc) (w t : Nat) : El := Desc.elem d w ⟨0, t, 0, 0⟩

/-- Bytes that `n` consecutive elements of width `w` take from an element on. -/
def rowBytes (w n : Nat) (e : El) : Nat := if w = 16 then 2 * n else if w = 8 then n else (n + e.nib + 1) / 2

/-- The context address that a record gives for a point's granule: the address as the program named it,
or the virtual-window address of a scratchpad granule (R185, R207). -/
def State.ctxAddr (s : State) (t : StrandId) (p : Pt) : Nat :=
  let g := p.off / 64 * 64
  match s.holder p.place g with
  | some (_, a) => a
  | none =>
    match p.place with
    | .buddy => 0x400000000000 + g
    | .scratch _ => windowAddr t.vc g
    | _ => g

/-- Where routing record (t, j) begins (R282). -/
def recordAddr (b : Desc) (t j : Nat) : Int := (Desc.elem b 8 ⟨8 * j, t, 0, 0⟩).byte

/-- Bytes of one place: from `lo` up to, but not including, `hi`. -/
structure Span where
  place : Place
  lo : Nat
  hi : Nat
deriving DecidableEq, Repr

/-- The bytes of a point. -/
def Pt.span (w : Nat) (p : Pt) : Span := ⟨p.place, p.off, p.off + (if w = 16 then 2 else 1)⟩

/-- The places of `n` bytes that begin at an operand's address; translation is piecewise for every 64 KiB. -/
def State.spans (s : State) (t : StrandId) (d : Desc) (a : Int) (n : Nat) : List Span :=
  let first := a.fdiv 65536 * 65536
  (List.range (n / 65536 + 2)).filterMap fun k =>
    let lo := max a (first + 65536 * (k : Int))
    let hi := min (a + (n : Int)) (first + 65536 * ((k : Int) + 1))
    if lo < hi then (s.xSpot t d lo).map fun q => ⟨q.place, q.off, q.off + (hi - lo).toNat⟩ else none

/-- The places of `n` bytes at a context address. -/
def State.ctxSpans (s : State) (t : StrandId) (a n : Nat) : List Span := s.spans t (Desc.put 0 235 1 1) a n

/-- Bytes that an X instruction writes and reads, for the interlock of R32: for XDISP the receive slots and counts of its
plan and its tokens and routing records, or the combined tokens and the output slots (R282, R284). -/
def State.xSpans (s : State) (t : StrandId) (l : Latch) : List Span × List Span :=
  let o := Word.opc l.word
  let d := xD l
  let a := xA l
  if o = 0x60 || o = 0x61 then
    let e := s.xElems t l
    (e.map fun e => e.dst.span (xWidth l), e.map fun e => e.src.span (xWidth l))
  else if o = 0x62 then
    let pts (d : Desc) : List Span :=
      let w := fmtWidth (Desc.fmt d)
      (Desc.coords d).map fun c => (s.pt t d w c).span w
    if Plan.op ((s.ctx t.ctx).collPlan (planOf l.word)) = 0 then ([], []) else (pts d, pts a)
  else if o = 0x63 then
    let p := (s.ctx t.ctx).dispPlan (planOf l.word)
    if Plan.kind p = 0 then ([], [])
    else if bits (Word.mod l.word) 4 1 = 0 then
      let b := l.desc (Word.b l.word)
      let w := fmtWidth (Plan.fmt p)
      let ts := List.range (Desc.size a 1)
      (s.ctxSpans t (Plan.rxbase p) (Plan.nlocal p * Plan.cap p * Plan.tokBytes p)
          ++ s.ctxSpans t (Plan.cntbase p) (4 * Plan.nlocal p),
        (ts.flatMap fun k => let e := rowStart a w k; s.spans t a e.byte (rowBytes w (Plan.h p) e))
          ++ ts.flatMap fun k => (List.range (Plan.k p)).flatMap fun j => s.spans t b (recordAddr b k j) 8)
    else
      let w := fmtWidth (Desc.fmt d)
      let x := s.ctx t.ctx
      let plan := planOf l.word
      ((List.range (x.combTokens plan (x.dispNow plan))).flatMap fun k =>
          let e := rowStart d w k
          s.spans t d e.byte (rowBytes w (Plan.h p) e),
        s.spans t a (Desc.elem a (fmtWidth (Plan.ofmt p)) ⟨0, 0, 0, 0⟩).byte
          (Plan.nlocal p * Plan.cap p * Plan.outBytes p))
  else ([], [])

/-- Two lists of spans share a byte. -/
def spansMeet (a b : List Span) : Bool :=
  a.any fun p => b.any fun q => p.place = q.place && p.lo < q.hi && q.lo < p.hi

/-- An instruction may not issue while it would read or overwrite what an earlier one of its stream
writes, or overwrite what that reads (R32). -/
def State.interlocked (s : State) (t : StrandId) (l : Latch) : Bool :=
  let n := s.xSpans t l
  (s.strand t).x.xfers.any fun y =>
    let o := s.xSpans t y.latch
    spansMeet n.1 o.1 || spansMeet n.2 o.1 || spansMeet n.1 o.2

/-! ### Fragments an X instruction takes (R54, R204, R276, R285) -/

/-- Fragments of an XCOPY or XACC (R204). -/
def State.copyFrags (s : State) (t : StrandId) (l : Latch) : List Frag :=
  cutFrags (fragMax (xWidth l)) (s.xElems t l) 0 0 none

/-- Elements of the iteration space that fragments are counted over: D's, or A's when D is empty (R276). -/
def collE (l : Latch) : Nat :=
  let d := (Desc.coords (xD l)).length
  max 1 (if d = 0 then (Desc.coords (xA l)).length else d)

/-- F of R276 for `e` elements. -/
def collF (fmax e : Nat) : Nat := min 64 (ceilDiv e fmax)

/-- Fragments of R276. -/
def evenFrags (f e : Nat) : List Frag :=
  (List.range f).map fun k => { lo := k * e / f, hi := (k + 1) * e / f }

/-- Fragments of an XCOLL (R276). -/
def State.collFrags (s : State) (t : StrandId) (l : Latch) : List Frag :=
  if Plan.op ((s.ctx t.ctx).collPlan (planOf l.word)) = 0 then []
  else
    let e := collE l
    evenFrags (collF (fragMax (xWidth l)) e) e

/-- E of a dispatch: elements of the receive slots, or of the tokens when there are none (R285). -/
def dispE (p : Plan) (l : Latch) : Nat :=
  let r := Plan.nlocal p * Plan.cap p * Plan.h p
  max 1 (if r = 0 then Desc.size (xA l) 1 * Plan.h p else r)

def dispF (p : Plan) (l : Latch) : Nat := collF (fragMax (fmtWidth (Plan.fmt p))) (dispE p l)

/-- E of a combine: elements of D, or of A when D is empty (R285). -/
def combF (l : Latch) : Nat := collF (fragMax (xWidth l)) (collE l)

def dispFrags (s : State) (t : StrandId) (l : Latch) : List Frag :=
  let p := (s.ctx t.ctx).dispPlan (planOf l.word)
  if Plan.kind p = 0 then [] else evenFrags (dispF p l) (dispE p l)

def combFrags (s : State) (t : StrandId) (l : Latch) : List Frag :=
  let p := (s.ctx t.ctx).dispPlan (planOf l.word)
  if Plan.kind p = 0 then [] else evenFrags (combF l) (collE l)

/-- The fragment that holds ordinal `o`. -/
def fragOf (f e o : Nat) : Nat := min (f - 1) (((o + 1) * f - 1) / e)

/-- Transfer-queue entries in use: one for every fragment not complete (R54). -/
def Stream.entries (x : Stream) : Nat :=
  (x.xfers.map fun y => (y.frags.filter fun f => f.status.isNone).length).sum

/-- Entries of a strand's transfer queue (R54). -/
def queueEntries : Nat := 64

/-! ### What an X instruction writes, fragment by fragment (R185, R206) -/

/-- Count of rank `r` for local expert `x` at the home. -/
def DispInst.count (y : DispInst) (r x : Nat) : Nat :=
  ((y.counts.filter fun e => e.1 = r && e.2.1 = x).map fun e => e.2.2).sum

/-- P[r]: the counts of ranks below `r` for `x`. -/
def DispInst.before (y : DispInst) (r x : Nat) : Nat :=
  ((y.counts.filter fun e => e.1 < r && e.2.1 = x).map fun e => e.2.2).sum

/-- acc[r] for `x`: no slot lies beyond CAP, nor at an expert the rank has not homed. -/
def DispInst.accept (y : DispInst) (p : Plan) (r x : Nat) : Nat :=
  if x < Plan.nlocal p then min (y.count r x) (Plan.cap p - y.before r x) else 0

/-- The fragment of the home's dispatch that a byte of the receive slots belongs to. -/
def slotFrag (p : Plan) (l : Latch) (b : Nat) : Nat :=
  let o := 8 * b / fmtWidth (Plan.fmt p)
  fragOf (dispF p l) (dispE p l) o

/-- The places of combined token `k`'s elements, with their element indices. -/
def State.tokenPts (s : State) (t : StrandId) (l : Latch) (p : Plan) (k : Nat) : List (Nat × Pt) :=
  let d := xD l
  let w := fmtWidth (Desc.fmt d)
  let st := rowStart d w k
  (List.range (Plan.h p)).filterMap fun (h : Nat) =>
    let e : El := if w = 16 then ⟨st.byte + 2 * h, 0⟩ else if w = 8 then ⟨st.byte + h, 0⟩
      else ⟨st.byte + ((st.nib + h) / 2 : Nat), (st.nib + h) % 2⟩
    (s.xSpot t d e.byte).map fun q => (h + Desc.size d 0 * k, (⟨q.place, q.off, q.region, e.nib⟩ : Pt))

/-- The points of the D and A elements that an X instruction names, translated as it issues (R185); those of a combine are
the elements of its tokens. A dispatch writes at addresses of its plan. -/
def State.xPts (s : State) (t : StrandId) (l : Latch) : List Pt × List Pt :=
  let o := Word.opc l.word
  let own (d : Desc) : List Pt := (Desc.coords d).map (s.pt t d (fmtWidth (Desc.fmt d)))
  if o = 0x60 || o = 0x61 then
    let e := s.xElems t l
    (e.map XEl.dst, e.map XEl.src)
  else if o = 0x62 then (own (xD l), own (xA l))
  else if o = 0x63 && bits (Word.mod l.word) 4 1 = 1 then
    let x := s.ctx t.ctx
    let plan := planOf l.word
    (((List.range (x.combTokens plan (x.dispNow plan))).flatMap (s.tokenPts t l (x.dispPlan plan))).map Prod.snd, [])
  else ([], [])

/-- A destination element of a fragment: its element index for the glaze, its point, and whether its write is done. -/
structure DstEl where
  e : Nat
  pt : Pt
  done : Bool
deriving DecidableEq, Repr

/-- The bytes of the receive slots and counts of a home that belong to fragment `k` of its dispatch: before placement every
slot, afterwards those of accepted tokens (R283, R285). -/
def DispInst.dst (y : DispInst) (p : Plan) (l : Latch) (k : Nat) : List (Nat × Bool) :=
  let tb := max 1 (Plan.tokBytes p)
  let slots : List (Nat × Bool) :=
    if y.placed then
      let lists := y.counts.foldl (fun (a : List (Nat × Nat)) e =>
        if a.contains (e.1, e.2.1) then a else a ++ [(e.1, e.2.1)]) []
      lists.flatMap fun rx => (List.range (y.accept p rx.1 rx.2 * Plan.tokBytes p)).map fun o =>
        ((rx.2 * Plan.cap p + y.before rx.1 rx.2) * tb + o,
          y.tokRuns.any fun e => e.1 = rx.1 && e.2.1 = rx.2 && e.2.2.1 ≤ o && o < e.2.2.1 + e.2.2.2)
    else (List.range (Plan.nlocal p * Plan.cap p * tb)).map fun o => (o, false)
  ((slots.filter fun o => slotFrag p l o.1 = k).map fun o => (Plan.rxbase p + o.1, o.2))
    ++ (if k = 0 then (List.range (4 * Plan.nlocal p)).map fun o => (Plan.cntbase p + o, y.placed) else [])

/-- The destination elements of one fragment (Table 7.9). -/
def State.fragDst (s : State) (t : StrandId) (x : Xfer) (k : Nat) : List DstEl :=
  let l := x.latch
  let o := Word.opc l.word
  let c := s.ctx t.ctx
  match x.frags[k]? with
  | none => []
  | some f =>
    if o = 0x60 || o = 0x61 then (x.part f).map fun e => ⟨e.e, e.dst, false⟩
    else if o = 0x62 then
      match c.colls.find? fun y => y.latches.any fun z => z.1 = t && z.2.1 = x.id with
      | some y => (y.landings.filter fun n => n.t = t && n.xfer = x.id && n.frag = k).filterMap fun n =>
          (x.dpts[n.ord]?).map fun q => ⟨n.elem, q, n.done⟩
      | none => []
    else if o = 0x63 then
      let p := c.dispPlan (planOf l.word)
      if bits (Word.mod l.word) 4 1 = 0 then
        match c.disps.find? fun y => y.disp = some (t, x.id) with
        | some y => (y.dst p l k).filterMap fun a =>
            (s.spot t.ctx (a.1 : Nat)).map fun q => ⟨a.1, ⟨q.place, q.off, q.region, 0⟩, a.2⟩
        | none => []
      else
        let e := collE l
        let z0 := Desc.size (xD l) 0
        let done := c.disps.any fun y => y.comb = some (t, x.id) && y.written
        (List.range x.dpts.length).filterMap fun n =>
          let ei := n % max 1 (Plan.h p) + z0 * (n / max 1 (Plan.h p))
          if fragOf (combF l) e ei = k then (x.dpts[n]?).map fun q => ⟨ei, q, done⟩ else none
    else []

/-- Width of the elements that an X instruction writes. -/
def dstWidth (l : Latch) : Nat :=
  let o := Word.opc l.word
  if o = 0x60 || o = 0x61 then xWidth l
  else if o = 0x63 && bits (Word.mod l.word) 4 1 = 0 then 8
  else fmtWidth (Desc.fmt (xD l))

/-- Fragments of an X instruction (R54). -/
def State.fragsOf (s : State) (t : StrandId) (l : Latch) : List Frag :=
  let o := Word.opc l.word
  if o = 0x60 || o = 0x61 then s.copyFrags t l
  else if o = 0x62 then s.collFrags t l
  else if o = 0x63 then (if bits (Word.mod l.word) 4 1 = 0 then dispFrags s t l else combFrags s t l)
  else [{ lo := 0, hi := 1 }]

/-! ### Issue (R32, R33, R55) -/

/-- A common instruction that need not wait for transfers in flight (R153). -/
def passes (o : Nat) : Bool := o = 0x03 || o = 0x04 || o = 0x06 || o = 0x07

/-- The stream has reached an instruction that may issue but for its engine's turn. -/
def State.atTurn (s : State) (i : StreamId) : Bool :=
  let x := s.stream i
  (s.ctx i.ctx).state.isReady && x.state = .running && x.phase = .released && !x.held
    && x.cur.isSome && s.coreRuns i.ctx i.vc

/-- The stream is ready for its engine (R33): its instruction waits for no transfer in flight and for no queue entry. An M
instruction asks for the array, which M_GRANT gives, and so does not stand in this turn. -/
def State.ready (s : State) (i : StreamId) : Bool :=
  let x := s.stream i
  let o := Word.opc x.word
  s.atTurn i && match i.eng with
    | .m => o ≤ 0x0B
    | .v => true
    | .x =>
      if o ≤ 0x0B then passes o || x.xfers.isEmpty
      else
        let l := s.latch i
        let n := (s.fragsOf i.strandId l).length
        (queueEntries < n || x.entries + n ≤ queueEntries) && !s.interlocked i.strandId l

/-- The strand that an engine of a core granted last (R33). -/
def Core.last (k : Core) : Eng → Nat
  | .m => k.lastM
  | .v => k.lastV
  | .x => k.lastX

/-- Strands from the one after the last granted, in round-robin order (R33). -/
def turnOrder (last : Nat) : List Nat := (List.range 8).map fun k => (last + 1 + k) % 8

/-- No other ready stream of the engine comes before this one in round-robin order (R33). -/
def State.turn (s : State) (i : StreamId) : Bool :=
  match s.pcore i.ctx i.vc with
  | none => false
  | some p => ((turnOrder ((s.core p).last i.eng)).takeWhile (· != i.st)).all fun st => !s.ready { i with st := st }

/-- The instruction a stream has reached may issue, and has opcode `o`: it is its stream's turn on the engine (R33). -/
def State.canIssue (s : State) (i : StreamId) (o : Nat) : Bool :=
  s.atTurn i && Word.opc (s.stream i).word = o && ((i.eng = .m && 0x0B < o) || s.turn i)

end Sys2Proof.Machine
end

