-- ==== Sys2Proof/Machine/Window.lean ====
section
/-! DEFINITION. Free values for writes, and the buddy window: bytes asked of the twin and sent to it (07 R185, R196, R201;
11 R289, Table 11.2). -/

namespace Sys2Proof.Machine

/-! ### Free values (log 6) -/

/-- The event, if any, that a free value stands for. -/
def freeEv (k : Nat) : Option NumEv :=
  let n := (Config.freeWord k).toNat % 10
  [NumEv.sat, .ufl, .infw, .nanw, .nfInf, .nfNan, .accovf, .crumbsat, .amaxskip][n]?

/-- Element writes with free values in place of their bits, and free events in place of theirs: values left
undefined (R135; log 6). -/
def State.freeWs (s : State) (ws : List W) : State × List W × List NumEv :=
  let n := ws.length
  ({ s with freeCtr := s.freeCtr + 2 * n },
   (List.range n).map fun k =>
     let w := ws.getD k { addr := 0, val := 0 }
     { w with val := BitVec.ofNat 8 (Config.freeWord (s.freeCtr + k)).toNat },
   (List.range n).filterMap fun k => freeEv (s.freeCtr + n + k))

/-- Free values for writes that may lie in several places. -/
def State.freeSpots (s : State) (ws : List (Place × W)) : State × List (Place × W) :=
  let r := s.freeWs (ws.map Prod.snd)
  (r.1, List.zip (ws.map Prod.fst) r.2.1)

/-- Granules, place by place, that points lie in. -/
def ptGranules (l : List Pt) : List (Place × Nat) :=
  l.foldl (fun a p => let g := (p.place, p.off / 64); if a.contains g then a else a ++ [g]) []

/-- Writes of an element. -/
def Pt.ws (w : Nat) (p : Pt) (v : Nat) (bad : Bool) : List W :=
  elemWs w ⟨(p.off : Nat), p.nib⟩ v bad

/-! ### Runs of bytes over the twin link -/

/-- One byte on its way to or from the buddy window. -/
structure Run where
  off : Nat
  data : List (Byte × Bool)
deriving DecidableEq, Repr

/-- Bytes joined into runs of consecutive offsets, at most `n` bytes each. -/
def runsOf (n : Nat) (l : List (Nat × Byte × Bool)) : List Run :=
  (l.foldl (fun (a : List Run) x =>
    match a with
    | r :: rest =>
      if x.1 = r.off + r.data.length && r.data.length < n then ⟨r.off, r.data ++ [x.2]⟩ :: rest
      else ⟨x.1, [x.2]⟩ :: a
    | [] => [⟨x.1, [x.2]⟩]) []).reverse

/-- Poison mask of a payload: bit g for bytes 64g to 64g + 63 (R289). -/
def maskOf (l : List Bool) : Nat :=
  bitSet ((List.range ((l.length + 63) / 64)).filter fun g => ((l.drop (64 * g)).take 64).any id)

/-- Asks the twin for the bytes a transfer reads through the buddy window (Table 11.2 BREQ). -/
def State.askBuddy (s : State) (l : List Nat) : State :=
  s.each (runsOf (4 * 2 ^ 20) (l.map fun a => (a, 0, false))) fun s r =>
    let hi := r.off + r.data.length
    let s : State := { s with twin := { s.twin with
      inMem := SMap.clear s.twin.inMem r.off hi
      inHave := s.twin.inHave.filter fun h => h.1 + h.2 ≤ r.off || hi ≤ h.1
      inAsked := s.twin.inAsked ++ [(r.off, r.data.length)]
      inOwn := s.twin.inOwn.filter fun a => a < r.off || hi ≤ a } }
    s.twinSend 0x02 (BitVec.ofNat 64 r.off) (leBytes 4 r.data.length) 0 none

/-- The bytes asked for have come. -/
def State.haveBuddy (s : State) (l : List Nat) : Bool :=
  l.all fun a => s.twin.inHave.any fun h => h.1 ≤ a && a < h.1 + h.2

/-- Bytes that points of width `w` read through the buddy window. -/
def farBytes (w : Nat) (l : List Pt) : List Nat := (l.filter fun p => p.place = .buddy).flatMap (Pt.bytes w)

/-- Writes with the nibbles of one byte that follow each other joined. -/
def joinWs : List W → List W
  | [] => []
  | x :: r =>
    match joinWs r with
    | y :: z =>
      if x.addr = y.addr && x.msk != 0xFF then
        { y with val := (x.val &&& x.msk &&& ~~~y.msk) ||| (y.val &&& y.msk), msk := x.msk ||| y.msk
                 bad := x.bad || y.bad } :: z
      else x :: y :: z
    | [] => [x]

/-- Writes of elements at the points that lie in the buddy window, with no value yet. -/
def farWs (w : Nat) (l : List Pt) : List W := (l.filter fun p => p.place = .buddy).flatMap fun p => p.ws w 0 false

/-- Bytes of the buddy window of which only one nibble is written: a frame carries whole bytes, so they are asked of
the twin first (R96; DEDUCED, log 62). -/
def halfBytes (w : Nat) (l : List Pt) : List Nat :=
  if w = 4 then distinct (((joinWs (farWs w l)).filter (·.msk != 0xFF)).map (·.addr)) else []

/-- A byte that this device writes through the buddy window is kept where the twin has been asked for it, so that a nibble
written later meets it and not the byte as it was before (R96; log 62). -/
def Twin.ownByte (w : Twin) (a : Nat) (b : Byte) : Twin :=
  let inR (l : List (Nat × Nat)) : Bool := l.any fun h => h.1 ≤ a && a < h.1 + h.2
  if inR w.inHave then { w with inMem := Memory.write w.inMem a b }
  else if inR w.inAsked then
    { w with inMem := Memory.write w.inMem a b, inOwn := if w.inOwn.contains a then w.inOwn else w.inOwn ++ [a] }
  else w

/-- Sends writes to the buddy window as BUDDY frames; a byte of which one nibble is written keeps the other (R96, Table
11.2; log 62). `dep` gives what depends on a frame of so many bytes. -/
def State.sendBuddy (s : State) (ws : List W) (dep : Nat → Option Dep) : State :=
  let r := (joinWs ws).foldl (fun (a : Twin × List (Nat × Byte × Bool)) y =>
    let b := (Memory.read a.1.inMem y.addr &&& ~~~y.msk) ||| (y.val &&& y.msk)
    (a.1.ownByte y.addr b, (y.addr, b, y.bad) :: a.2)) (s.twin, [])
  let s : State := { s with twin := r.1 }
  s.each (runsOf 4096 r.2.reverse) fun s z =>
    s.twinSend 0x01 (BitVec.ofNat 64 z.off) (z.data.map Prod.fst) (BitVec.ofNat 64 (maskOf (z.data.map Prod.snd)))
      (dep z.data.length)

/-- Granules of the twin's that an instruction wrote or would have written through the buddy window are poisoned: its
bytes go there poisoned, with free values (R201, R206; DEDUCED, log 62). -/
def State.poisonFar (s : State) (ws : List (Place × W)) : State :=
  let l := (ws.filter fun x => x.1 = .buddy).map Prod.snd
  if l.isEmpty then s
  else
    let r := s.freeWs l
    r.1.sendBuddy (r.2.1.map fun x => { x with bad := true }) fun _ => none

end Sys2Proof.Machine
end

