-- ==== Sys2Proof/Machine/Common.lean ====
section
/-! DEFINITION. The common instructions of the three engines but BAR (02_strands R39 to R52, 06
R153, R156, R157, R167 to R170). -/

namespace Sys2Proof.Machine

/-! ### Issuing -/

/-- An engine counts strand `st` as the one granted last (R33). -/
def Core.granted (k : Core) (e : Eng) (st : Nat) : Core :=
  match e with
  | .m => { k with lastM := st }
  | .v => { k with lastV := st }
  | .x => { k with lastX := st }

/-- The engine of a stream's core counts its strand as the one granted last (R33). -/
def State.granted (s : State) (i : StreamId) : State :=
  match s.pcore i.ctx i.vc with
  | some p => s.updCore p fun k => k.granted i.eng i.st
  | none => s

/-- Runs `f` on the instruction of opcode `o` that a stream has reached, if it may issue (R32). -/
def State.issue (s : State) (i : StreamId) (o : Nat) (f : State → Latch → State) : State :=
  let s := s.reach i
  if s.canIssue i o then f (s.granted i) (s.latch i) else s

/-- The same for an instruction that waits until every earlier instruction of its stream has completed:
in an X stream, until no transfer is in flight (R32, R153). -/
def State.issueAfter (s : State) (i : StreamId) (o : Nat) (f : State → Latch → State) : State :=
  let s := s.reach i
  if s.canIssue i o && (s.stream i).xfers.isEmpty then f (s.granted i) (s.latch i) else s

/-- Operands first, their scale descriptors after them (R454). -/
def orderFlts (l : List Flt) : List Flt :=
  l.filter (fun f => f.operand < 0x10) ++ l.filter fun f => 0x10 ≤ f.operand

/-- Raises the best of the faults found at issue, or goes on (R453 step 2, R454). -/
def State.atIssue (s : State) (i : StreamId) (l : Latch) (flts : List Flt) (f : State → State) : State :=
  match bestFault (orderFlts flts) with
  | some e => s.faultAt i l.word true e
  | none => f s

/-- Poisons the granules that an instruction wrote or would have written, and raises its fault in execution (R61). -/
def State.execFaultAt (s : State) (i : StreamId) (l : Latch) (granules : List (Place × Nat)) (f : Flt) : State :=
  (s.poisonAll granules).faultRun i l f

/-- The same where the instruction writes its own scratchpad alone. -/
def State.execFault (s : State) (i : StreamId) (l : Latch) (granules : List Nat) (f : Flt) : State :=
  match s.pcore i.ctx i.vc with
  | some p => s.execFaultAt i l (granules.map fun g => (Place.scratch p, g)) f
  | none => s.faultRun i l f

/-- Raises the best of the faults found in execution, or goes on. -/
def State.inExec (s : State) (i : StreamId) (l : Latch) (granules : List Nat) (flts : List Flt)
    (f : State → State) : State :=
  match bestFault (orderFlts flts) with
  | some e => s.execFault i l granules e
  | none => f s

/-! ### Writing the own scratchpad (R177 to R181) -/

/-- Owner of a bank (Table 7.1). -/
def bankOwner (b : Nat) : Eng := if b < 3 then .m else if b < 5 then .v else .x

/-- Bits of the byte at `a` that the owner's port wrote in the same cycle. -/
def lostBits (lost : List LostWord) (a : Nat) : Byte :=
  lost.foldl (fun m x => if x.word = a / 4 then m ||| BitVec.ofNat 8 (bits x.mask.toNat (8 * (a % 4)) 8) else m) 0

/-- Bits of a byte that a master's write loses: those the bank's owner wrote too. The window port owns none. -/
def lostOf (e : Option Eng) (lost : List LostWord) (a : Nat) : Byte :=
  if some (bankOwner (a / 2 ^ 20)) = e then 0 else lostBits lost a

/-- Words of which the master's writes lost at least one bit (R180). -/
def lostWords (e : Option Eng) (ws : List W) (lost : List LostWord) : List Nat :=
  if lost.isEmpty then []
  else distinct ((ws.filter fun x => x.msk &&& lostOf e lost x.addr != 0).map fun x => x.addr / 4)

/-- What lands of the master's writes: every bit but those the owner wrote too (R180). -/
def keptWs (e : Option Eng) (ws : List W) (lost : List LostWord) : List W :=
  if lost.isEmpty then ws
  else ws.filterMap fun x =>
    let m := x.msk &&& ~~~(lostOf e lost x.addr)
    if m = 0 && x.msk != 0 then none else some { x with msk := m }

/-- The port by which a stream's writes reach a scratchpad: its engine's own, or the window port of another core (R178). -/
def State.portOf (s : State) (i : StreamId) (p : Nat) : Option Eng :=
  if s.pcore i.ctx i.vc = some p then some i.eng else none

/-- Words lost at scratchpads by writes that may lie in several places; `port` gives the port by which they reach each
scratchpad (R180, R181). -/
def spotsLost (port : Nat → Option Eng) (ws : List (Place × W)) (lost : List LostWord) : List (Place × Nat) :=
  if lost.isEmpty then []
  else (ws.foldl (fun (a : List Place) x => if a.contains x.1 then a else a ++ [x.1]) []).flatMap fun pl =>
    match pl with
    | .scratch p => (lostWords (port p) ((ws.filter (·.1 = pl)).map Prod.snd) lost).map fun n => (pl, n)
    | _ => []

/-- What lands of writes that may lie in several places. -/
def spotsKept (port : Nat → Option Eng) (ws : List (Place × W)) (lost : List LostWord) : List (Place × W) :=
  if lost.isEmpty then ws
  else ws.flatMap fun x =>
    match x.1 with
    | .scratch p => (keptWs (port p) [x.2] lost).map fun y => (x.1, y)
    | _ => [x]

/-- Counts the cycles that masters waited for banks (R183). -/
def State.addWaits (s : State) (b : BankEnv) : State :=
  s.each (b.waits.filter fun w => w.pc < 272 && w.master < 4 && w.bank < 6) fun s w => s.updCore w.pc fun k =>
    let n := SMap.upd 0 k.ctrs.bkwait (w.master * 6 + w.bank) (· + BitVec.ofNat 64 w.cycles)
    { k with ctrs := { k.ctrs with bkwait := n } }

/-- Runs a command with what bank arbitration makes of the accesses that landings make under it. -/
def State.withBank (s : State) (b : BankEnv) (f : State → State) : State :=
  let s := f { s with bank := b }
  { s with bank := {} }

/-- The waits of the command under way are counted with its first landing (R183). -/
def State.takeWaits (s : State) : State :=
  let b := s.bank
  let s := s.addWaits b
  { s with bank := { b with waits := [] } }

/-- BANK_WRITE_LOST for the lowest lost word (R181, Table 2.5). Its operand field holds 0xFF, none (DESIGN CHOICE, log
43: no table names one for it). -/
def lostFlt (l : List Nat) : Flt :=
  let a := 4 * (l.foldl min (l.headD 0))
  ⟨4, 0xFF, a + 2 ^ 24 * (a / 2 ^ 20)⟩

/-- An instruction of a core's own engine writes its scratchpad; bits lost to the owner's port are not written, and
fault in Reproducible mode, which `fail` takes, or count in Arrival mode (R180, R181). Then `f` goes on. -/
def State.ownWriteOr (s : State) (i : StreamId) (ws : List W) (lost : List LostWord) (fail : State → Flt → State)
    (f : State → State) : State :=
  match s.pcore i.ctx i.vc with
  | none => s
  | some p =>
    let lw := lostWords (some i.eng) ws lost
    let s := s.store (.scratch p) (keptWs (some i.eng) ws lost)
    if lw.isEmpty then f s
    else if (s.ctx i.ctx).cfg.set.arrival then
      f (s.updStream i fun x =>
        { x with ctrs := { x.ctrs with lostw := x.ctrs.lostw + BitVec.ofNat 64 lw.length } })
    else fail s (lostFlt lw)

/-- The nibbles of a granule that a write sets, as bits of a 128-bit mask. -/
def W.nibbles (w : W) : Nat :=
  let o := 2 * (w.addr % 64)
  (if w.msk &&& 0x0F = 0x0F then 2 ^ o else 0) + (if w.msk &&& 0xF0 = 0xF0 then 2 ^ (o + 1) else 0)

/-- Poison of granules that an instruction has by now written in full, in several fragments or group closes, is cleared:
`cov` holds the poisoned granules it has written in part so far (R202). -/
def State.coverWrites (s : State) (cov : List (Place × Nat × Nat)) (ws : List (Place × W)) :
    State × List (Place × Nat × Nat) :=
  let gs := ws.foldl (fun (a : List (Place × Nat)) x =>
    if a.contains (x.1, x.2.addr / 64) then a else a ++ [(x.1, x.2.addr / 64)]) []
  gs.foldl (fun (a : State × List (Place × Nat × Nat)) g =>
    let rest := a.2.filter fun e => !(e.1 = g.1 && e.2.1 = g.2)
    let l := (ws.filter fun x => x.1 = g.1 && x.2.addr / 64 = g.2).map Prod.snd
    if !a.1.bad g.1 (64 * g.2) || l.any (·.bad) then (a.1, rest)
    else
      let old := ((a.2.find? fun e => e.1 = g.1 && e.2.1 = g.2).map fun e => e.2.2).getD 0
      let m := l.foldl (fun m w => m ||| w.nibbles) old
      if m = 2 ^ 128 - 1 then (a.1.markGranule g.1 g.2 false, rest) else (a.1, rest ++ [(g.1, g.2, m)])) (s, cov)

/-- The same for an instruction that writes all of its destination at once. -/
def State.ownWrite (s : State) (i : StreamId) (l : Latch) (ws : List W) (lost : List LostWord)
    (f : State → State) : State :=
  s.ownWriteOr i ws lost (fun s e => s.execFault i l (wsGranules ws) e) f

/-! ### NOP, END, SETE, SETLC (R39, R42, R153) -/

/-- NOP: no effect of its own; complete once every earlier instruction of the stream is (R153). -/
def execNop (i : StreamId) (s : State) : Out :=
  done <| s.issueAfter i 0x01 fun s l => s.complete i l

/-- Every stream of a strand is Done (R30). -/
def Strand.allDone (t : Strand) : Bool :=
  t.m.state = .done && t.v.state = .done && t.x.state = .done

/-- A strand that is Done is reported with notice STRAND_DONE to the session that started it, on the context's
channel to it (R30, R380). -/
def State.strandDone (s : State) (t : StrandId) : State :=
  s.when (s.strand t).allDone fun s =>
    let b := leBytes 2 t.vc ++ leBytes 1 t.st
    match (s.strand t).startedBy.bind (s.findChan (16 + t.ctx)) with
    | some n => s.noticeOn n 0x20 0 0 0 b
    | none => s.noticeCtx t.ctx 0x20 0 0 0 b

/-- END: the stream enters Done; a strand that is Done is reported with notice STRAND_DONE (R30, R153,
R380). -/
def execEnd (i : StreamId) (s : State) : Out :=
  done <| s.issueAfter i 0x02 fun s l =>
    ((s.complete i l).updStream i fun x => { x with state := .done }).strandDone i.strandId

/-- SETE: E[IMM[35:32]] := IMM[31:0] (R39). -/
def execSete (i : StreamId) (s : State) : Out :=
  done <| s.issue i 0x03 fun s l =>
    let m := Word.imm l.word
    (s.updStream i fun x =>
      { x with e := SMap.set 0 x.e (bits m 32 4) (BitVec.ofNat 32 (bits m 0 32)) }).complete i l

/-- SETLC: LC[IMM[33:32]] := IMM[31:0] (R42). -/
def execSetlc (i : StreamId) (s : State) : Out :=
  done <| s.issue i 0x04 fun s l =>
    let m := Word.imm l.word
    (s.updStream i fun x =>
      { x with lc := SMap.set 0 x.lc (bits m 32 2) (BitVec.ofNat 32 (bits m 0 32)) }).complete i l

/-! ### Loads from the own scratchpad (R156) -/

/-- The aligned address that LDLC, LDSC or LDD reads: element (0, 0, 0, 0) of A as for an 8-bit format,
aligned down to `n` bytes. -/
def ldAddr (d : Desc) (n : Nat) : Int :=
  let a := (Desc.elem d 8 ⟨0, 0, 0, 0⟩).byte
  a - a % n

/-- The DESC_RANGE the A of LDLC, LDSC or LDD meets for a read of `n` bytes aligned to `n`. -/
def ldFlts (d : Desc) (n : Nat) : List Flt :=
  if Desc.forbidden d then [⟨3, opA, allOnes⟩]
  else
    let a := ldAddr d n
    if inSp a && inSp (a + n - 1) then [] else [⟨3, opA, addrDetail a⟩]

/-- Reads `n` aligned bytes of the own scratchpad through A: held errors are found, and a poisoned
granule is POISON_CONSUMED (R156, R201). -/
def State.ldRead (s : State) (i : StreamId) (l : Latch) (d : Desc) (n : Nat)
    (f : State → List Byte → State) : State :=
  match s.pcore i.ctx i.vc with
  | none => s
  | some p =>
    let a := (ldAddr d n).toNat
    let s := s.readFinds (.scratch p) ((List.range n).map (a + ·))
    if s.bad (.scratch p) a then s.faultRun i l ⟨8, opA, windowAddr i.vc a⟩
    else f s (Memory.readN (s.core p).sp a n)

/-- A descriptor register of a strand is written whole by one of its streams in cycle `now`. The writes of one cycle from
several streams are applied in the order M, V, X, each to the value the previous one left (R167). -/
def Strand.writeDesc (x : Strand) (e : Eng) (now k : Nat) (o : DescOp) : Strand :=
  let k := k % 32
  let l := x.dwr.filter fun w => w.cycle = now
  let w : DescWr := (l.find? fun w => w.k = k).getD ⟨now, k, SMap.get 0 x.descs k, []⟩
  let w := { w with ops := w.ops ++ [(e.num, o)] }
  { x with descs := SMap.set 0 x.descs k (applyOps w.old w.ops), dwr := (l.filter fun w => w.k != k) ++ [w] }

/-- A stream's instruction writes a descriptor register. -/
def State.writeDesc (s : State) (i : StreamId) (k : Nat) (o : DescOp) : State :=
  s.updStrand i.strandId fun x => x.writeDesc i.eng s.now k o

/-- LDLC: LC[IMM[33:32]] := the u32 at A (R42, R156). -/
def execLdlc (i : StreamId) (s : State) : Out :=
  done <| s.issueAfter i 0x05 fun s l =>
    let d := l.desc (Word.a l.word)
    s.atIssue i l (ldFlts d 4) fun s =>
      s.ldRead i l d 4 fun s b =>
        (s.updStream i fun x =>
          { x with lc := SMap.set 0 x.lc (bits (Word.imm l.word) 32 2) (BitVec.ofNat 32 (leNat b)) }).complete i l

/-- LDSC: SCALE of descriptor D := the i8 at A (R97, R156, R157). -/
def execLdsc (i : StreamId) (s : State) : Out :=
  done <| s.issueAfter i 0x08 fun s l =>
    let d := l.desc (Word.a l.word)
    let k := Word.d l.word
    s.atIssue i l ((if Desc.valid (l.desc k) then [] else [⟨3, opD, allOnes⟩]) ++ ldFlts d 1) fun s =>
      s.ldRead i l d 1 fun s b =>
        (s.writeDesc i k (.scale (leNat b))).complete i l

/-- LDD: descriptor D := the 32-byte image at A, VALID included; reserved bits stay 0 (R10, R156, R157). -/
def execLdd (i : StreamId) (s : State) : Out :=
  done <| s.issueAfter i 0x09 fun s l =>
    let d := l.desc (Word.a l.word)
    s.atIssue i l (ldFlts d 32) fun s =>
      s.ldRead i l d 32 fun s b =>
        (s.writeDesc i (Word.d l.word) (.load (BitVec.ofNat 256 (leNat b)))).complete i l

/-! ### LOOP and DADV -/

/-- LOOP: latches the count into a new level, or moves past the body when the count is 0 (R43, R45). -/
def execLoop (i : StreamId) (s : State) : Out :=
  done <| s.issue i 0x06 fun s l =>
    let m := Word.imm l.word
    let x := s.stream i
    let n := SMap.get 0 x.lc (bits m 32 2)
    let last := x.pc + BitVec.ofNat 32 (bits m 0 13)
    if n = 0 then (s.updStream i fun x => { x with pc := last }).complete i l
    else
      (s.updStream i fun x =>
        { x with loops := ⟨x.pc + 1, last, n, 0⟩ :: x.loops }).complete i l

/-- DADV: advances the base of descriptor D (R47, R157). -/
def execDadv (i : StreamId) (s : State) : Out :=
  done <| s.issue i 0x07 fun s l =>
    let m := Word.imm l.word
    let k := Word.d l.word
    let d := l.desc k
    s.atIssue i l (if Desc.valid d && fmtOk (Desc.fmt d) then [] else [⟨3, opD, allOnes⟩]) fun s =>
      let ofs := signed 32 (bits m 0 32)
      let idx : Int := match (s.stream i).loops[bits m 32 2]? with
        | some v => (v.index.toNat : Int)
        | none => 0
      let ofs := if bits m 34 1 = 1 then ofs * idx else ofs
      (s.writeDesc i k (.add ofs)).complete i l

/-! ### CALL (R48 to R52, R167 to R170) -/

/-- The checks of FEATREAD at its own issue (R170). -/
def featFlts (d : Desc) : List Flt :=
  if !Desc.valid d || Desc.space d = 1 || !fmtOk (Desc.fmt d) then [⟨3, opD, allOnes⟩]
  else
    let a := ldAddr d 4
    if a < 0 then [⟨3, opD, addrDetail a⟩]
    else if (spBytes : Int) < a + 1280 then [⟨3, opD, addrDetail (max a spBytes)⟩]
    else []

/-- Table 6.9 fields of a routine's entry. -/
def Lib.entry (x : Lib) (r : Nat) : U64 := (x.table.find? fun w => bits w.toNat 0 16 = r).getD 0

/-- The workspace bytes of a routine, checked as elements of its descriptor (R169). -/
def workFlts (e : U64) (l : Latch) : List Flt :=
  let n := bits e.toNat 32 24
  let o := bits e.toNat 19 2
  let d := l.desc ([Word.d l.word, Word.a l.word, Word.b l.word, Word.c l.word].getD o 0)
  if n = 0 then []
  else if Desc.forbidden d then [⟨3, o, allOnes⟩]
  else
    let a := (Desc.elem d 8 ⟨0, 0, 0, 0⟩).byte
    if a < 0 then [⟨3, o, addrDetail a⟩]
    else if (spBytes : Int) < a + n then [⟨3, o, addrDetail (max a spBytes)⟩]
    else []

/-- The parts of bytes that a routine's four descriptors and its workspace cover, each with its place, operand and the
nibbles covered: the own scratchpad for M and V, any region granted for X (R49, R53). -/
def State.cover (s : State) (i : StreamId) (e : U64) (l : Latch) : List (Place × W × Nat) :=
  let ds := [Word.d l.word, Word.a l.word, Word.b l.word, Word.c l.word].map l.desc
  let usable (d : Desc) : Bool := Desc.valid d && fmtOk (Desc.fmt d) && (i.eng = .x || Desc.space d = 0)
  let els := (List.range 4).flatMap fun o =>
    let d := ds.getD o 0
    if usable d then
      let w := fmtWidth (Desc.fmt d)
      (Desc.coords d).flatMap fun c =>
        let a := Desc.elem d w c
        match s.xSpot i.strandId d a.byte with
        | some q => (elemWs w ⟨(q.off : Nat), a.nib⟩ 0 false).map fun y => (q.place, y, o)
        | none => []
    else []
  let o := bits e.toNat 19 2
  let wd := ds.getD o 0
  let a := (Desc.elem wd 8 ⟨0, 0, 0, 0⟩).byte
  els ++ (List.range (bits e.toNat 32 24)).filterMap fun k =>
    (s.xSpot i.strandId wd (a + (k : Nat))).map fun q => (q.place, { addr := q.off, val := 0 }, o)

/-- Errors held in a core's routine memory are found; an uncorrectable one holds every routine until the
library is reloaded (R198). -/
def State.routineFinds (s : State) (p : Nat) : State :=
  let es := s.mem.latent.filter (·.store = .routine p)
  let s := s.each es State.foundErr
  s.when (es.any fun e => !e.correctable) fun s => s.updCore p fun k => { k with routineErr := true }

/-- A routine of the library other than FEATREAD runs: which of the covered bytes it reads and writes, and what it
leaves in them, its library defines and the spec does not (log 11). A poisoned granule that it reads is consumed, a
word it loses is handled as any write's (R49, R52, R61, R181). -/
def State.runRoutine (s : State) (i : StreamId) (l : Latch) (r : Nat) (lost : List LostWord) : State :=
  let t := i.strandId
  let cov := s.cover i (s.lib.entry r) l
  let s := s.each (cov.foldl (fun (a : List Place) x => if a.contains x.1 then a else a ++ [x.1]) [])
    fun s pl => s.readFinds pl ((cov.filter (·.1 = pl)).map fun x => x.2.1.addr)
  let old := cov.map fun x => s.byteAt x.1 x.2.1.addr &&& x.2.1.msk
  let at_ (k : Nat) : Place × W × Nat := cov.getD k (.hbm, { addr := 0, val := 0 }, 0)
  let n := List.range cov.length
  let ws := (n.filter fun k => Config.routineWrites r old k).map fun k =>
    ((at_ k).1, { (at_ k).2.1 with val := Config.routineByte r old k })
  let gs := ws.foldl (fun (a : List (Place × Nat)) x =>
    if a.contains (x.1, x.2.addr / 64) then a else a ++ [(x.1, x.2.addr / 64)]) []
  let hits := n.filter fun k => Config.routineReads r old k && s.bad (at_ k).1 (at_ k).2.1.addr
  match [0, 1, 2, 3].findSome? fun o => (hits.map at_).find? fun x => x.2.2 = o with
  | some x => s.execFaultAt i l gs ⟨8, x.2.2, s.ctxAddr t ⟨x.1, x.2.1.addr, 0, 0⟩⟩
  | none =>
    let lw := spotsLost (s.portOf i) ws lost
    let s := s.storeSpots (spotsKept (s.portOf i) ws lost)
    if lw.isEmpty then s.complete i l
    else if (s.ctx i.ctx).cfg.set.arrival then
      (s.updStream i fun x =>
        { x with ctrs := { x.ctrs with lostw := x.ctrs.lostw + BitVec.ofNat 64 lw.length } }).complete i l
    else s.execFaultAt i l gs (lostFlt (lw.map Prod.snd))

/-- CALL: runs a routine of the resident library as one instruction. FEATREAD copies the feature space;
another listed routine leaves in the bytes its descriptors cover what its library defines, which the spec
does not give (R48 to R52, R167 to R170; log 11). -/
def execCall (i : StreamId) (bank : BankEnv) (s : State) : Out :=
  done <| s.issueAfter i 0x0A fun s l =>
    let r := bits (Word.imm l.word) 0 16
    match s.pcore i.ctx i.vc with
    | none => s
    | some p =>
      -- errors that the routine memory holds are found as the routine is read (R198, R199)
      let s := s.routineFinds p
      if (s.core p).routineErr then s.updStream i fun x => { x with held := true }
      else if r = 1 then
        let d := l.desc (Word.d l.word)
        s.atIssue i l (featFlts d) fun s =>
          (s.addWaits bank).ownWrite i l (plainWs (ldAddr d 4).toNat (s.featBytes i.ctx)) bank.lost fun s => s.complete i l
      else s.atIssue i l (workFlts (s.lib.entry r) l) fun s => (s.addWaits bank).runRoutine i l r bank.lost

end Sys2Proof.Machine
end

