-- ==== Sys2Proof/Machine/Matrix.lean ====
section
/-! DEFINITION. The matrix engine (03_matrix_array) and the sampler's captures (12 R329 to R331). -/

namespace Sys2Proof.Machine

/-! ### The fold (R67 to R71) -/

/-- Operand of a matrix instruction (0 D, 1 A, 2 B): its scale descriptor is C + 2, C or C + 1 (R98). -/
def mOpd (l : Latch) (k : Nat) : Opd :=
  let w := l.word
  let c := Word.c w
  match k with
  | 0 => { d := l.desc (Word.d w), sd := l.desc (c + 2), op := 0 }
  | 1 => { d := l.desc (Word.a w), sd := l.desc c, op := 1 }
  | _ => { d := l.desc (Word.b w), sd := l.desc (c + 1), op := 2 }

/-- The geometry of an instruction's fold (Table 3.3). -/
structure Fold where
  opc : Nat
  split : Bool
  c : Nat
  p : Nat
  k : Nat
  n : Nat
  m : Nat
  /-- group rows and columns at most -/
  gr : Nat
  gc : Nat
  /-- rows and columns of the output -/
  rows : Nat
  cols : Nat
  /-- reduction length, and how much of it one visit takes -/
  red : Nat
  step : Nat
deriving DecidableEq, Repr

/-- The fold of a latched matrix instruction (R69, R70). -/
def foldOf (l : Latch) : Fold :=
  let w := l.word
  let o := Word.opc w
  let sp := bits (Word.mod w) 2 1 = 1
  let c := if sp then 64 else 128
  let a := (mOpd l 1).d
  let p := min (fmtPack (Desc.fmt a)) (fmtPack (Desc.fmt (mOpd l 2).d))
  let k := bits (Word.imm w) 0 10 + 1
  let n := bits (Word.imm w) 10 10 + 1
  let m := Desc.size a 1 * Desc.size a 2 * Desc.size a 3
  if o = 0x20 then ⟨o, sp, c, p, k, n, m, c, c, m, n, k, c * p⟩
  else if o = 0x21 then ⟨o, sp, c, p, k, n, m, c / p, c * p, m, k, n, c⟩
  else ⟨o, sp, c, p, k, n, m, c, c, k, n, m, 128⟩

/-- Strips or output block rows, groups in each, and visits in each group (R71). -/
def Fold.ns (f : Fold) : Nat := ceilDiv f.rows f.gr
def Fold.nj (f : Fold) : Nat := ceilDiv f.cols f.gc
def Fold.ni (f : Fold) : Nat := ceilDiv f.red f.step

/-- Slots per group (Table 3.3). -/
def slotsOf (split : Bool) : Nat := if split then 1 else 4

/-- Coordinates with m decomposed by a descriptor's own sizes (R69). -/
def mCoord (d : Desc) (i0 m : Nat) : Coord :=
  let z1 := max 1 (Desc.size d 1)
  let z2 := max 1 (Desc.size d 2)
  ⟨i0, m % z1, m / z1 % z2, m / (z1 * z2)⟩

/-- Element of A at streamed row `r` and depth `k`: (m, k) in MM, (m, n) in MMT, (r, k) in MOP (R69). -/
def aCoord (l : Latch) (r k : Nat) : Coord := mCoord (mOpd l 1).d k r

/-- Element of B: (k, n) in MM and MMT, (m, n) in MOP. -/
def bCoord (f : Fold) (l : Latch) (k n : Nat) : Coord :=
  if f.opc = 0x22 then mCoord (mOpd l 2).d n k else ⟨n, k, 0, 0⟩

/-- Element of D at output row and column. -/
def dCoord (f : Fold) (l : Latch) (r c : Nat) : Coord :=
  if f.opc = 0x22 then ⟨c, r, 0, 0⟩ else mCoord (mOpd l 0).d c r

/-- Coordinates of every element of D, A and B that the instruction addresses, dimension 0 fastest. -/
def Fold.dAll (f : Fold) (l : Latch) : List Coord :=
  (List.range f.rows).flatMap fun r => (List.range f.cols).map fun c => dCoord f l r c
def Fold.aAll (f : Fold) (l : Latch) : List Coord :=
  (List.range f.m).flatMap fun r =>
    (List.range (if f.opc = 0x21 then f.n else f.k)).map fun k => aCoord l r k
def Fold.bAll (f : Fold) (l : Latch) : List Coord :=
  if f.m = 0 then []
  else (List.range (if f.opc = 0x22 then f.m else f.k)).flatMap fun k =>
    (List.range f.n).map fun n => bCoord f l k n

/-- The faults a matrix instruction meets at issue (R4, R61, R79, R81). -/
def State.mFlts (s : State) (l : Latch) : List Flt :=
  let f := foldOf l
  let d := mOpd l 0
  let a := mOpd l 1
  let b := mOpd l 2
  let four (x : Nat) : Bool := s.part.part = 0x9412 && (x = 4 || x = 7)
  let eng (o : Opd) (crumb : Bool) : List Flt :=
    let x := Desc.fmt o.d
    if (crumb && x = 12) || four x then [⟨2, o.op, x⟩] else []
  let chk (o : Opd) (cs : List Coord) : List Flt :=
    checkSp o.d o.op o.width cs ++ (if Desc.forbidden o.d then [] else checkScale o.d o.sd o.op cs)
  eng d true ++ eng a false ++ eng b false
    ++ chk d (f.dAll l) ++ chk a (f.aAll l) ++ chk b (f.bAll l)

/-! ### Issue (R78, R80, R81) -/

/-- The open group that an instruction continues: group control MIDDLE or LAST, and the same kind,
configuration, M, extent and P (R81). -/
def Fold.continues (f : Fold) (gctl : Nat) (g : Group) : Bool :=
  (gctl = 2 || gctl = 3) && g.opc = f.opc && g.split = f.split && g.m = f.m && g.p = f.p
    && 0 < f.ns && g.rows = min f.gr f.rows && g.cols = min f.gc f.cols

/-- Issues MM, MMT or MOP: the checks, the implicit close of an open group it does not continue, and a run
that waits for its grant (R78, R80, R81). -/
def State.mIssue (s : State) (t : StrandId) (o : Nat) : State :=
  let i := t.stream .m
  let s := s.reach i
  if s.canIssue i o then
    let l := s.latch i
    s.atIssue i l (s.mFlts l) fun s =>
      let s := s.updStrand t fun x =>
        match x.openGroup with
        | some g =>
          if (foldOf l).continues l.gctl g then x
          else { x with openGroup := none, closing := x.closing ++ [{ g with own := false }] }
        | none => x
      (s.updStrand t fun x => { x with mrun := some { latch := l } }).updStream i fun x =>
        { x with phase := .executing, latch := l }
  else s

/-- MM: Y = X·W (Table 3.2). -/
def execMm (t : StrandId) (s : State) : Out := done <| s.mIssue t 0x20
/-- MMT: dX = dY·Wᵀ. -/
def execMmt (t : StrandId) (s : State) : Out := done <| s.mIssue t 0x21
/-- MOP: dW = Xᵀ·dY. -/
def execMop (t : StrandId) (s : State) : Out := done <| s.mIssue t 0x22

/-! ### Grants (R33, R78, R83) -/

/-- Slots a strand's groups hold; a granted instruction keeps one set from its grant to its end. -/
def Strand.slots (x : Strand) : Nat :=
  let g (o : Option Group) : Nat := match o with
    | some g => slotsOf g.split
    | none => 0
  g x.openGroup + (x.closing.map fun c => slotsOf c.split).sum
    + (match x.mrun with
      | some r =>
        if r.granted then
          match r.group with
          | some g => slotsOf g.split
          | none => if x.closing.any (·.own) then 0 else slotsOf (foldOf r.latch).split
        else 0
      | none => 0)

def Core.slotsUsed (k : Core) : Nat := (allStrands.map fun t => (k.strand t).slots).sum

/-- Granted runs of a core. -/
def Core.running (k : Core) : List MRun :=
  allStrands.filterMap fun t => (k.strand t).mrun.filter (·.granted)

/-- The lowest-numbered free quadrant (R83). -/
def Core.freeQuad (k : Core) : Option Nat := [0, 1, 2, 3].find? fun q => !(k.running.any (·.quad = q))

/-- Strand `t` has an M instruction that waits for its grant. -/
def Core.asks (k : Core) (t : Nat) : Bool := (k.strand t).mrun.any fun r => !r.granted

/-- Condition 2 of R78: the slots for the first group are free, or the instruction continues its strand's open group. An
open group that it does not continue has closed first (R81). -/
def Core.slotsFree (k : Core) (t : Nat) : Bool :=
  match (k.strand t).mrun with
  | some r =>
    let f := foldOf r.latch
    !((k.strand t).closing.any fun g => !g.own)
      && ((match (k.strand t).openGroup with
        | some g => f.continues r.latch.gctl g
        | none => false) || k.slotsUsed + slotsOf f.split ≤ 8)
  | none => false

/-- The instruction needs the split configuration. -/
def Core.needs (k : Core) (t : Nat) : Bool :=
  match (k.strand t).mrun with
  | some r => (foldOf r.latch).split
  | none => false

/-- Condition 3 of R78: the array has the configuration the instruction needs, or runs nothing. -/
def Core.fitsArray (k : Core) (t : Nat) : Bool := k.needs t = k.split || k.running.isEmpty

/-- Strands whose M instruction meets conditions 1 and 2 of R78, in round-robin order. -/
def Core.cands (k : Core) : List Nat := (turnOrder k.lastM).filter fun t => k.asks t && k.slotsFree t

/-- One cycle in which M instructions wait for slots or for the array's configuration (MSLOTWAIT, Table 3.8). -/
def Core.slotWait (k : Core) : Core :=
  (allStrands.filter fun t => k.asks t && !(k.slotsFree t && k.fitsArray t)).foldl
    (fun k t => k.updStrand t fun x => x.updStream .m fun y =>
      { y with ctrs := { y.ctrs with mslotwait := y.ctrs.mslotwait + 1 } }) k

/-- The array drains only while a grantable instruction needs the other configuration (R78). -/
def State.redrain (s : State) (c vc : Nat) : State :=
  match s.pcore c vc with
  | none => s
  | some p => s.updCore p fun k =>
    { k with draining := k.draining && k.cands.any fun t => k.needs t != k.split }

/-- The engine has room for one more instruction of its configuration. -/
def Core.room (k : Core) : Bool := if k.split then k.freeQuad.isSome else k.running.isEmpty

/-- The rows and columns of the group at (s, j). -/
def Fold.newGroup (f : Fold) (r : MRun) (gid : Nat) : Group :=
  let rows := min f.gr (f.rows - r.s * f.gr)
  let cols := min f.gc (f.cols - r.j * f.gc)
  { opc := f.opc, split := f.split, quad := r.quad, m := f.m, p := f.p, row0 := r.s * f.gr
    col0 := r.j * f.gc, rows := rows, cols := cols, accs := List.replicate (rows * cols) {}
    poisoned := false, sampled := 0, latch := r.latch, gid := gid }

/-- Strip or output block row, group and block of the visit after (s, j, i), if the fold has one (R71). -/
def Fold.after (f : Fold) (s j i : Nat) : Option (Nat × Nat × Nat) :=
  if i + 1 < f.ni then some (s, j, i + 1)
  else if j + 1 < f.nj then some (s, j + 1, 0)
  else if s + 1 < f.ns then some (s + 1, 0, 0)
  else none

/-- The fold moves to its next visit, whose block may be loaded already; a group whose visits are over closes, or stays
open as the group control says (R71, R74, R80). -/
def Strand.nextVisit (x : Strand) (r : MRun) (g : Group) (ready : Bool) : Strand :=
  let f := foldOf r.latch
  let r := { r with hold := r.ahead, ahead := none }
  match f.after r.s r.j r.i with
  | some (s', j', i') =>
    let r' := { r with s := s', j := j', i := i' }
    if i' != 0 then { x with mrun := some { r' with group := some g } }
    else { x with mrun := some { r' with group := none }, closing := x.closing ++ [g] }
  | none =>
    let r' := { r with group := none, ended := true }
    if r.latch.gctl = 1 || r.latch.gctl = 2 then
      { x with mrun := some r', openGroup := if ready then some g else none }
    else { x with mrun := some r', closing := x.closing ++ [g] }

/-- A fold that has no visits, MOP over no rows, closes its groups one after another with no products (R69). -/
def Strand.emptyNext (x : Strand) (ready : Bool) : Strand :=
  match x.mrun with
  | some r =>
    let f := foldOf r.latch
    if r.granted && !r.ended && f.ni = 0 && !(x.closing.any (·.own)) then
      x.nextVisit r (r.group.getD (f.newGroup r 0)) ready
    else x
  | none => x

/-- Grants strand `t` of core `k`: a quadrant in split mode, the open group it continues, and the fold begins (R78,
R83). -/
def Core.grant (k : Core) (t : Nat) : Core :=
  let q := if k.split then k.freeQuad.getD 255 else 255
  { k.updStrand t fun x =>
      match x.mrun with
      | some r =>
        let f := foldOf r.latch
        let r := { r with granted := true, quad := q, ended := decide (f.ns = 0) }
        match x.openGroup with
        | some g =>
          if f.continues r.latch.gctl g then
            let g := { g with latch := r.latch, own := true, row0 := 0, col0 := 0, quad := q }
            { x with openGroup := none, mrun := some { r with group := some g } }
          else { x with mrun := some r }
        | none => { x with mrun := some r }
      | none => x
    with lastM := t }

/-- Arbitrations of the sampler over groups that a strand's running instruction has closed (R331). -/
def State.arbOpen (s : State) (t : StrandId) (r : MRun) : Bool :=
  s.hub.arbs.any fun a => a.checker = 0 && a.t = t && a.verdict.isNone && r.closed.contains a.gid

/-- Completes a run whose groups are all written or left open, with their arbitrations over (R36, R81, R331). -/
def State.mFinish (s : State) (t : StrandId) : State :=
  let ready := (s.ctx t.ctx).state.isReady
  let s := s.updStrand t fun x => x.emptyNext ready
  let x := s.strand t
  match x.mrun with
  | some r =>
    if r.ended && r.group.isNone && !(x.closing.any (·.own)) && !s.arbOpen t r then
      (s.updStrand t fun x =>
        { x with mrun := none, openGroup := if ready then x.openGroup else none }).complete (t.stream .m) r.latch
    else s
  | none => s

/-- The strand of a core's owner. -/
def State.strandId (s : State) (p t : Nat) : StrandId :=
  match s.ownerOf p with
  | some (c, v) => ⟨c, v, t⟩
  | none => ⟨16, 0, t⟩

/-- M_GRANT: grants the next grantable instruction; one that needs the other configuration stops grants
of this one (R33, R78). -/
def execMGrant (pc : Nat) (s : State) : Out :=
  let k := s.core pc
  let cs := k.cands
  let other := cs.filter fun t => k.needs t != k.split
  done <|
    if k.draining then s
    else if !k.running.isEmpty && !other.isEmpty then s.updCore pc fun k => { k with draining := true }
    else match cs.head? with
      | none => s
      | some t =>
        if k.needs t != k.split then s.updCore pc fun k => { k with draining := true }
        else if k.room then (s.updCore pc fun k => k.grant t).mFinish (s.strandId pc t)
        else s

/-- ARRAY_CONFIG_SWITCH: the drained array changes configuration, every tag goes, and the waiting
instruction is granted (R75, R78). -/
def execArrayConfigSwitch (pc : Nat) (s : State) : Out :=
  let k := s.core pc
  done <|
    if k.draining && k.running.isEmpty then
      let s := s.updCore pc fun k => { k with split := !k.split, draining := false, holds := [] }
      let k := s.core pc
      match k.cands.find? fun t => k.needs t = k.split with
      | some t => (s.updCore pc fun k => k.grant t).mFinish (s.strandId pc t)
      | none => s
    else s

/-! ### Faults in execution -/

/-- Granules a matrix instruction writes or would write, scales included (R61). -/
def Fold.granules (f : Fold) (l : Latch) : List Nat :=
  distinct (((mOpd l 0).addrs (f.dAll l)).map (· / 64))

/-- A fault in execution: the destination is poisoned and the instruction's results are discarded (R61,
R84). -/
def State.mFault (s : State) (t : StrandId) (l : Latch) (f : Flt) : State :=
  let s := s.updStrand t fun x =>
    { x with mrun := none, openGroup := none, closing := x.closing.filter fun g => !g.own }
  let s := s.updStream (t.stream .m) fun x => { x with phase := .boundary }
  s.execFault (t.stream .m) l ((foldOf l).granules l) f

/-! ### Loads (R74, R75) -/

/-- Hold numbers of a quadrant, or of the whole array. -/
def holdKey (quad h : Nat) : Nat := if quad = 255 then h else 2 * quad + h

/-- First row and column of the block at visit (s, j, i), and its extent (R70). -/
def Fold.block (f : Fold) (j i : Nat) : Nat × Nat × Nat × Nat :=
  let (bi, bj) := if f.opc = 0x21 then (j, i) else (i, j)
  (bi * (f.c * f.p), bj * f.c, min (f.c * f.p) (f.k - bi * (f.c * f.p)), min f.c (f.n - bj * f.c))

/-- Block coordinates (i, j) of a visit. -/
def Fold.blockId (f : Fold) (j i : Nat) : Nat × Nat := if f.opc = 0x21 then (j, i) else (i, j)

/-- Block coordinates of a tile product: the block's, or in MOP the output block's (R90). -/
def Fold.tileId (f : Fold) (r : MRun) : Nat × Nat := if f.opc = 0x22 then (r.s, r.j) else f.blockId r.j r.i

/-- Coordinates of a block's elements, row by row. -/
def Fold.blockCoords (f : Fold) (l : Latch) (j i : Nat) : List Coord :=
  let (r0, c0, nr, nc) := f.block j i
  (List.range nr).flatMap fun r => (List.range nc).map fun c => bCoord f l (r0 + r) (c0 + c)

/-- The tag matches the block of visit (j, i) of a run (R75). -/
def Hold.matches (h : Hold) (f : Fold) (r : MRun) (j i : Nat) : Bool :=
  let b := f.blockId j i
  h.valid && h.bdesc = (mOpd r.latch 2).d && h.i = b.1 && h.j = b.2 && h.p = f.p && h.split = f.split
    && h.quad = r.quad

def Core.hold (k : Core) (n : Nat) : Hold := SMap.get {} k.holds n
def Core.setHold (k : Core) (n : Nat) (h : Hold) : Core := { k with holds := SMap.set {} k.holds n h }

/-- The hold, if any, in which a run finds the block of visit (j, i) loaded. -/
def Core.findHold (k : Core) (f : Fold) (r : MRun) (j i : Nat) : Option Nat :=
  [0, 1].find? fun h => (k.hold (holdKey r.quad h)).matches f r j i

/-- Rows of the held block as a matrix of `nc` columns. -/
def rowsOf (nc : Nat) (vals : List Num) : List (List Num) := chunksOf nc (vals.length + 1) vals

/-- An entry of a matrix held as rows. -/
def cell (m : List (List Num)) (r c : Nat) : Num := (m.getD r []).getD c Num.zero

/-- A checksum cell: the exact sum, rounded to nearest-even at 24 significand bits (R87). -/
def checkSum (l : List Num) : Num :=
  match l.foldl Num.add Num.zero with
  | .fin n m x => let q := roundSig 24 m x; .fin n q.1 q.2
  | v => v

/-- A hold with the block of visit (j, i): its tag, the values, and the checksum column and row (R75, R87). -/
def Fold.holdOf (f : Fold) (r : MRun) (tab : SMap U32) (m : Memory) (j i : Nat) : Hold :=
  let cs := f.blockCoords r.latch j i
  let b := mOpd r.latch 2
  let as := cs.map fun c => (Desc.elem b.d b.width c).byte.toNat
  let as := as ++ if b.width = 16 then as.map (· + 1) else []
  let id := f.blockId j i
  let nc := (f.block j i).2.2.2
  let vals := cs.map (b.value tab m)
  let rows := rowsOf nc vals
  { valid := true, bdesc := b.d, i := id.1, j := id.2, p := f.p, split := f.split, quad := r.quad
    lo := as.foldl min (as.headD 0), hi := as.foldl max 0, vals := vals
    csum := rows.map checkSum
    rsum := (List.range nc).map fun c => checkSum ((List.range rows.length).map fun k => cell rows k c) }

/-- What BLOCK_LOAD loads for a run: the hold, whether the block is the present visit's, and the visit. The present
visit's block comes first, then, while that one streams, the next in fold order into the other hold (R74). -/
def Core.loadNext (k : Core) (f : Fold) (r : MRun) : Option (Nat × Bool × Nat × Nat) :=
  match (if r.hold.isSome then r.hold else k.findHold f r r.j r.i) with
  | none => some (1 - SMap.get 1 k.lastHold r.quad, true, r.j, r.i)
  | some h =>
    if r.ahead.isSome then none
    else match f.after r.s r.j r.i with
      | none => none
      | some (_, j, i) => if (k.findHold f r j i).isSome then none else some (1 - h, false, j, i)

/-- BLOCK_LOAD: a block is loaded into a hold, which gets its tag and its checksum sums (R74, R75, R87). A poisoned
granule is consumed, and the hold gets no valid tag (R61, R75). -/
def execBlockLoad (x : BankedStrand) (s : State) : Out :=
  let t := x.t
  done <| match s.pcore t.ctx t.vc, (s.strand t).mrun with
  | some p, some r =>
    let f := foldOf r.latch
    match (s.core p).loadNext f r with
    | none => s
    | some (h, now, j, i) =>
      if r.granted && !r.ended && f.opc != 0x22 then
        let cs := f.blockCoords r.latch j i
        let b := mOpd r.latch 2
        let s := (s.addWaits x.bank).readFinds (.scratch p) (b.addrs cs)
        match bestFault (orderFlts (b.poison (s.core p).poison t.vc cs)) with
        | some e => (s.updCore p fun k => k.setHold (holdKey r.quad h) {}).mFault t r.latch e
        | none =>
          let hd := f.holdOf r (s.ctx t.ctx).cfg.fmt (s.core p).sp j i
          let s := s.updCore p fun k => k.setHold (holdKey r.quad h) hd
          let s := s.updStrand t fun x =>
            { x with mrun := some (if now then { r with hold := some h } else { r with ahead := some h }) }
          s.updStream (t.stream .m) fun x =>
            { x with ctrs := { x.ctrs with mblkload := x.ctrs.mblkload + 1 } }
      else s
  | _, _ => s

/-! ### Tile products (R70 to R73, R87 to R90) -/

/-- A product enters an element's chunk; the 128th closes the chunk and combines it (R73, R106). -/
def Acc.enter (a : Acc) (x : Num) : Acc × Nat :=
  let ps := a.prods ++ [x]
  if ps.length = 128 then
    let r := combine a.run (chunkValue ps)
    ({ run := r.1, chunk := a.chunk + 1, prods := [], count := a.count + 1 }, if r.2 then 1 else 0)
  else ({ a with prods := ps, count := a.count + 1 }, 0)

/-- Several products enter in order; the number of ACCOVF events. -/
def Acc.enterAll (a : Acc) (l : List Num) : Acc × Nat :=
  l.foldl (fun r x => let q := r.1.enter x; (q.1, r.2 + q.2)) (a, 0)

/-- The value of an element at group close: its open chunk combined last (R73, R106). -/
def Acc.close (a : Acc) : Num × Nat :=
  if a.prods.isEmpty then (a.run, 0)
  else let r := combine a.run (chunkValue a.prods); (r.1, if r.2 then 1 else 0)

/-- The group a visit adds to: the run's, which a continued group is from its grant on, or a new one if its slots are
free (R78, R80). -/
def Core.groupFor (k : Core) (t : Nat) (r : MRun) : Option Group :=
  let f := foldOf r.latch
  match r.group with
  | some g => some g
  | none =>
    -- its first group's slots were taken at grant; another needs a free set
    if (k.strand t).closing.any (·.own) && 8 < k.slotsUsed + slotsOf f.split then none
    else some (f.newGroup r (k.tileN + 1))

/-- Values of A that a visit streams, by row of the strip and depth; for MOP by streamed row and output
row. -/
def Fold.aTile (f : Fold) (r : MRun) : List (List Coord) :=
  let l := r.latch
  if f.opc = 0x22 then
    (List.range (min f.step (f.red - r.i * f.step))).map fun x =>
      (List.range (min f.gr (f.rows - r.s * f.gr))).map fun k =>
        aCoord l (r.i * f.step + x) (r.s * f.gr + k)
  else
    (List.range (min f.gr (f.rows - r.s * f.gr))).map fun x =>
      (List.range (min f.step (f.red - r.i * f.step))).map fun k =>
        aCoord l (r.s * f.gr + x) (r.i * f.step + k)

/-- Elements of B that a MOP visit streams. -/
def Fold.bTile (f : Fold) (r : MRun) : List (List Coord) :=
  (List.range (min f.step (f.red - r.i * f.step))).map fun x =>
    (List.range (min f.gc (f.cols - r.j * f.gc))).map fun n =>
      bCoord f r.latch (r.i * f.step + x) (r.j * f.gc + n)

/-- Products of a visit for each output element of the group, row by row, each in ascending reduction
index: `a` and `b` as `aTile` and the block or `bTile` give them. -/
def Fold.products (f : Fold) (g : Group) (a b : List (List Num)) : List (List Num) :=
  (List.range g.rows).flatMap fun r => (List.range g.cols).map fun c =>
    if f.opc = 0x22 then (List.range a.length).map fun x => (cell a x r).mul (cell b x c)
    else
      let depth := (a.getD r []).length
      (List.range depth).map fun k =>
        (cell a r k).mul (if f.opc = 0x21 then cell b c k else cell b k c)

/-- Products of a visit in the checksum column or row for each output row, in ascending reduction index: `cs` holds the
checksum sums, one for each reduction index (R87). -/
def Fold.checkProducts (f : Fold) (g : Group) (a : List (List Num)) (cs : List Num) : List (List Num) :=
  (List.range g.rows).map fun r =>
    if f.opc = 0x22 then (List.range a.length).map fun x => (cell a x r).mul (cs.getD x Num.zero)
    else (List.range (a.getD r []).length).map fun k => (cell a r k).mul (cs.getD k Num.zero)

/-- Products as the cells gave them: those of failing cells replaced. `row` gives a list's output row and column. -/
def upset (us : List Upset) (at_ : Nat → Nat × Option Nat) (ps : List (List Num)) : List (List Num) :=
  if us.isEmpty then ps
  else (List.range ps.length).map fun n =>
    (us.filter fun u => (u.row, u.col) = at_ n).foldl (fun l u => l.set u.k (.fin u.neg u.mag u.exp)) (ps.getD n [])

/-- Chunk numbers that a visit touches, with the products of each for one element. -/
def chunkParts (count : Nat) (ps : List Num) : List (Nat × List Num) :=
  let tagged := (List.range ps.length).map fun k => ((count + k) / 128, ps.getD k Num.zero)
  (distinct (tagged.map Prod.fst)).map fun n => (n, (tagged.filter (·.1 = n)).map Prod.snd)

/-- The least e for which 2^e is at least the largest magnitude of finite products that are not all zero (R88). -/
def magBound (l : List Num) : Option Int :=
  l.foldl (fun a x => match x with
    | .fin _ m y =>
      if m = 0 then a
      else
        let e : Int := y + ((Nat.log2 m : Nat) : Int) + (if m = 2 ^ Nat.log2 m then 0 else 1)
        match a with
        | none => some e
        | some b => some (max b e)
    | _ => a) none

/-- The comparison of R88: `t` against the sum `s` of the column chunk sums, by the row chunk's products. -/
def mismatch (t s : Num) (ps : List Num) : Bool :=
  match magBound ps with
  | some e => (Num.fin false 1 (e - 8)).lt (t.sub s).abs
  | none => !t.isZero || !s.isZero

/-- What becomes of a row chunk in the comparison (R88, R89). -/
inductive RowCheck where
  | same | differs | skipped
deriving DecidableEq, Repr

/-- Row chunks of a tile product, each with its row, chunk and comparison. `ps` are the columns' products, `ts` those of
the checksum (R88, R89). Of a chunk that is cut across visits or instructions the part in this visit is compared: the
checksum sums are of the block the visit holds (DESIGN CHOICE, log 132: R88 does not say what is compared then). -/
def rowChunks (g : Group) (ps ts : List (List Num)) : List ((Nat × Nat) × RowCheck) :=
  (List.range g.rows).flatMap fun r =>
    let n0 := (g.accs.getD (r * g.cols) {}).count
    let cols := (List.range g.cols).map fun c => chunkParts n0 (ps.getD (r * g.cols + c) [])
    (chunkParts n0 (ts.getD r [])).map fun (n, tl) =>
      let parts := cols.map fun e => ((e.find? (·.1 = n)).map Prod.snd).getD []
      let all := parts.flatten
      ((r, n),
        if all.any fun x => !x.finite then .skipped
        else if mismatch (chunkValue tl) ((parts.map chunkValue).foldl Num.add Num.zero) all then .differs
        else .same)

/-- A row chunk put before the first of a list that follows it by chunk and then row. -/
def insertChunk (x : Nat × Nat) : List (Nat × Nat) → List (Nat × Nat)
  | [] => [x]
  | y :: l => if x.2 < y.2 || (x.2 = y.2 && x.1 ≤ y.1) then x :: y :: l else y :: insertChunk x l

/-- The row chunks that mismatch, in ascending chunk and then row (R90). -/
def mismatches (rc : List ((Nat × Nat) × RowCheck)) : List (Nat × Nat) :=
  ((rc.filter fun e => e.2 = .differs).map Prod.fst).foldr insertChunk []

/-- The CPER DETAIL of a checksum or sampler event (Table 12.8). -/
def tileDetail (l : Latch) (bi bj strip chunk row : Nat) : List Byte :=
  leBytes 1 (Word.opc l.word) ++ leBytes 1 (Word.mod l.word) ++ leBytes 1 (Desc.fmt (mOpd l 1).d)
    ++ leBytes 1 (Desc.fmt (mOpd l 2).d) ++ leBytes 2 bi ++ leBytes 2 bj ++ leBytes 8 strip
    ++ leBytes 4 chunk ++ leBytes 2 row

/-- An event of a strand on its core. -/
def State.evStrand (s : State) (t : StrandId) (e : Ev) : Ev :=
  match s.pcore t.ctx t.vc with
  | some p => { s.evCore p e with ctx := t.ctx, vcore := t.vc, strand := t.st }
  | none => { e with ctx := t.ctx, vcore := t.vc, strand := t.st }

/-- The checksum event of a tile product with mismatches (R90): the core becomes suspect at its first
(R328). -/
def State.checksumEvent (s : State) (t : StrandId) (p : Nat) (r : MRun) (bad : List (Nat × Nat)) : State :=
  match bad.head? with
  | none => s
  | some (row, chunk) =>
    let f := foldOf r.latch
    let b := f.tileId r
    let s := s.updCore p fun k => { k with ctrs := { k.ctrs with mchkfail := k.ctrs.mchkfail + 1 } }
    let s := s.suspectCore p
    s.raise (s.evStrand t
      { event := 1, unit := 1, stream := 0, aquad := r.quad, pc := r.latch.pc.toNat, opc := f.opc
        fmtA := Desc.fmt (mOpd r.latch 1).d, fmtB := Desc.fmt (mOpd r.latch 2).d
        detail := tileDetail r.latch b.1 b.2 (if f.opc = 0x22 then r.i else r.s) chunk row
          ++ leBytes 4 bad.length })

/-- A tile product is numbered, and captured where the sampler selects it (R329, R330). -/
def State.sample (s : State) (t : StrandId) (p gid : Nat) (r : MRun) (ops check : List Num) : State × Bool :=
  let n := (s.core p).tileN
  let s' := s.updCore p fun k => { k with tileN := n + 1 }
  let smpl := s.smplNow t.ctx
  if smpl != 0 && (glzH s.fab.sseed n p false).toNat >>> (47 + smpl) = 0 then
    if (s.core p).captures.length < 4 then
      let f := foldOf r.latch
      let b := f.tileId r
      let c : Capture := ⟨n, t, gid, r.latch, b.1, b.2, if f.opc = 0x22 then r.i else r.s, ops, check, false, none⟩
      (s'.updCore p fun k => { k with captures := k.captures ++ [c] }, true)
    else
      (s'.updCore p fun k => { k with ctrs := { k.ctrs with smplskip := k.ctrs.smplskip + 1 } }, false)
  else (s', false)

/-- The hold a visit streams from, as it streams: the one loaded for it with what that load read, or one that its tag
lets it reuse. Reuse changes timing only, so the held elements take the values that the context's tables and the
instruction's scales give them now (R75, R76; DEDUCED, log 133). -/
def State.visitHold (s : State) (t : StrandId) (p : Nat) (f : Fold) (r : MRun) : Option (Nat × Hold) :=
  match r.hold with
  | some h => some (h, (s.core p).hold (holdKey r.quad h))
  | none => ((s.core p).findHold f r r.j r.i).map fun h =>
    (h, f.holdOf r (s.ctx t.ctx).cfg.fmt (s.core p).sp r.j r.i)

/-- What a visit streams and holds: the rows of A, the rows of B, and the checksum sums, each row or column of B summed
(R71, R87). -/
def State.visitVals (s : State) (t : StrandId) (p : Nat) (f : Fold) (r : MRun) (hd : Hold) :
    List (List Num) × List (List Num) × List Num :=
  let tab := (s.ctx t.ctx).cfg.fmt
  let m := (s.core p).sp
  let av := (f.aTile r).map fun l => l.map ((mOpd r.latch 1).value tab m)
  if f.opc = 0x22 then
    let bv := (f.bTile r).map fun l => l.map ((mOpd r.latch 2).value tab m)
    (av, bv, bv.map checkSum)
  else (av, rowsOf (f.block r.j r.i).2.2.2 hd.vals, if f.opc = 0x21 then hd.rsum else hd.csum)

/-- The products of a visit as the cells gave them, for each element of the group, and those of the checksum for each of
its rows (R87). -/
def Fold.visitProducts (f : Fold) (g : Group) (v : List (List Num) × List (List Num) × List Num) (upsets : List Upset) :
    List (List Num) × List (List Num) :=
  (upset upsets (fun n => (n / g.cols, some (n % g.cols))) (f.products g v.1 v.2.1),
   upset upsets (fun n => (n, none)) (f.checkProducts g v.1 v.2.2))

/-- TILE_PRODUCT_COMPLETE: one block visit over a strip, or one chunk of streamed rows in MOP: its products enter the
group, the checksum comparison is made, and the sampler may capture it (R71, R73, R87 to R90, R329). `upsets` names the
products that failing cells gave wrong. -/
def execTileProductComplete (t : StrandId) (upsets : List Upset) (s : State) : Out :=
  done <| match s.pcore t.ctx t.vc, (s.strand t).mrun with
  | some p, some r =>
    let f := foldOf r.latch
    let i := t.stream .m
    let h := if f.opc = 0x22 then none else s.visitHold t p f r
    match (s.core p).groupFor t.st r with
    | some g =>
      if r.granted && !r.ended && f.ni != 0 && (f.opc = 0x22 || h.isSome) then
        let a := mOpd r.latch 1
        let b := mOpd r.latch 2
        let ac := f.aTile r
        let bc := if f.opc = 0x22 then f.bTile r else []
        let s := s.readFinds (.scratch p) (a.addrs ac.flatten ++ b.addrs bc.flatten)
        let q := (s.core p).poison
        -- a reused block's scales are read as a load would read them (R76)
        let scales := if f.opc != 0x22 && r.hold.isNone then
            (b.poison q t.vc (f.blockCoords r.latch r.j r.i)).filter fun e => 0x10 ≤ e.operand
          else []
        match bestFault (orderFlts (a.poison q t.vc ac.flatten ++ b.poison q t.vc bc.flatten ++ scales)) with
        | some e => s.mFault t r.latch e
        | none =>
          let v := s.visitVals t p f r ((h.map Prod.snd).getD {})
          let ps := (f.visitProducts g v upsets).1
          let rc := rowChunks g ps (f.visitProducts g v upsets).2
          let mm := mismatches rc
          let accs := (List.zip g.accs ps).map fun (x, l) => x.enterAll l
          let check := (List.zip g.accs ps).flatMap fun (x, l) =>
            (chunkParts x.count l).map fun e => chunkValue e.2
          let (s, cap) := s.sample t p g.gid r (v.2.1.flatten ++ v.1.flatten) check
          let g := { g with
            accs := accs.map Prod.fst, poisoned := g.poisoned || !mm.isEmpty
            sampled := g.sampled + (if cap then 1 else 0) }
          let s := s.countEvents i r.latch.step (Desc.tag (mOpd r.latch 0).d)
            (List.replicate (accs.map Prod.snd).sum .accovf)
          let s := s.updStream i fun x =>
            { x with ctrs := { x.ctrs with
              mtile := x.ctrs.mtile + 1
              mchkskip := x.ctrs.mchkskip + BitVec.ofNat 64 (rc.filter fun e => e.2 = .skipped).length
              mblkreuse := x.ctrs.mblkreuse + (if f.opc != 0x22 && r.hold.isNone then 1 else 0) } }
          let s := s.checksumEvent t p r mm
          let ready := (s.ctx t.ctx).state.isReady
          let s := match h with
            | some (h, hd) => s.updCore p fun k =>
              { k.setHold (holdKey r.quad h) { hd with valid := (k.hold (holdKey r.quad h)).valid } with
                lastHold := SMap.set 1 k.lastHold r.quad h }
            | none => s
          (s.updStrand t fun x => x.nextVisit r g ready).mFinish t
      else s
    | none => s
  | _, _ => s

/-! ### Group close (R79) -/

/-- Writes, events of a group's close: each element's last chunk combined, rounded into D by the latch
of the group's last instruction (R79, R107, R113, R118). -/
def Ctx.closeWrites (x : Ctx) (g : Group) : List W × List NumEv :=
  let f := foldOf g.latch
  let vs := g.accs.map Acc.close
  let rs : List Res := (List.range vs.length).map fun k =>
    let r := g.row0 + k / g.cols
    let c := g.col0 + k % g.cols
    ⟨dCoord f g.latch r c, r * f.cols + c, .ofNum (vs.getD k (Num.zero, 0)).1⟩
  let w := (x.roundEnv g.latch).write (mOpd g.latch 0) rs
  (w.1, w.2 ++ List.replicate (vs.map Prod.snd).sum .accovf)

/-- `n` bytes that the spec leaves open (log 6). -/
def State.freeBytes (s : State) (n : Nat) : State × List Byte :=
  ({ s with freeCtr := s.freeCtr + n }, (List.range n).map fun k => (Config.freeWord (s.freeCtr + k)).setWidth 8)

/-- Changes every arbitration case. -/
def State.mapArbs (s : State) (f : Arb → Arb) : State :=
  { s with hub := { s.hub with arbs := s.hub.arbs.map f } }

/-- A granule that the closes of one instruction have written in full is no longer poisoned (R202). -/
def State.mCover (s : State) (t : StrandId) (p : Nat) (ws : List W) : State :=
  match (s.strand t).mrun with
  | some r =>
    let q := s.coverWrites r.cover (ws.map fun w => (.scratch p, w))
    q.1.updStrand t fun x => { x with mrun := x.mrun.map fun r => { r with cover := q.2 } }
  | none => s

/-- GROUP_CLOSE: the oldest closing group whose comparisons have ended is rounded and written; an
uncorrectable slot error, a checksum mismatch or a sampler disagreement poisons what it writes (R79, R90,
R198, R331). -/
def execGroupClose (t : StrandId) (errs : List MemErr) (bank : BankEnv) (s : State) : Out :=
  done <| match s.pcore t.ctx t.vc, (s.strand t).closing with
  | some p, g :: rest =>
    if g.sampled = 0 then
      let i := t.stream .m
      let errs := errs.filter (·.store = .slots p)
      let s := s.each errs fun s e => if e.correctable then s.corrected e else s.uncorrected e
      let other := g.poisoned || errs.any fun e => !e.correctable
      let dirty := other || s.hub.arbs.any fun a => a.checker = 0 && a.t = t && a.gid = g.gid && a.verdict != some 0
      let w := (s.ctx t.ctx).closeWrites g
      let ws := w.1.map fun x => { x with bad := dirty }
      let s := (s.addWaits bank).updStrand t fun x =>
        { x with
          closing := rest
          mrun := if g.own then x.mrun.map fun r => { r with closed := r.closed ++ [g.gid] } else x.mrun }
      let s := s.countEvents i g.latch.step (Desc.tag (mOpd g.latch 0).d) w.2
      -- the arbitration of this group learns which granules it alone left poisoned, and the parties' output bytes: those
      -- of the neighbour and the third are what the spec gives no value (R258, log 6)
      let mine := match s.pcore t.ctx t.vc with
        | some q => (wsGranules ws).flatMap fun n => Memory.readN (ws.foldl (fun m x => Memory.write m x.addr x.val) (s.core q).sp) (64 * n) 64
        | none => []
      let case (a : Arb) : Bool := a.checker = 0 && a.t = t && a.gid = g.gid
      let (s, free) := if s.hub.arbs.any case then s.freeBytes (2 * mine.length) else (s, [])
      let s := s.mapArbs fun a =>
        if case a then
          { a with
            granules := if other then [] else wsGranules ws
            outs := [mine, free.take mine.length, free.drop mine.length] }
        else a
      s.ownWriteOr i ws bank.lost
        (fun s e => if g.own then s.mFault t g.latch e else s.execFault i g.latch (wsGranules ws) e)
        fun s => (if g.own then s.mCover t p (keptWs (some .m) ws bank.lost) else s).mFinish t
    else s
  | _, _ => s

/-! ### The sampler (R330, R331) -/

/-- The neighbour: the core that follows the producer in its slice's core list, from position 15 to 0
(R330). -/
def State.neighbour (s : State) (p : Nat) : Nat :=
  match s.ownerOf p with
  | some (c, v) => ((s.ctx c).grid[v / 16 * 16 + (v % 16 + 1) % 16]?).getD p
  | none => p

/-- SAMPLER_REEXECUTE: the producer's oldest capture not yet re-executed runs on the neighbour (R330). -/
def execSamplerReexecute (pc : Nat) (s : State) : Out :=
  done <|
    if (s.core pc).captures.any fun c => !c.done then
      let s := s.updCore pc fun k =>
        let n := k.captures.findIdx fun c => !c.done
        { k with captures := k.captures.modify n fun c => { c with done := true } }
      s.updCore (s.neighbour pc) fun k => { k with ctrs := { k.ctrs with smplhost := k.ctrs.smplhost + 1 } }
    else s

/-- Changes the group that a capture names, wherever it stands. -/
def Strand.updGroup (x : Strand) (gid : Nat) (f : Group → Group) : Strand :=
  let g (a : Group) : Group := if a.gid = gid then f a else a
  { x with
    openGroup := x.openGroup.map g
    mrun := x.mrun.map fun r => { r with group := r.group.map g }
    closing := x.closing.map g }

/-- Bytes of a number for an operand digest. -/
def Num.ints : Num → List Int
  | .fin n m x => [if n then -(m : Int) else m, x]
  | .inf n => [if n then -1 else 1, 10000]
  | .nan => [0, 10000]

/-- SAMPLER_COMPARE: the oldest re-executed capture is compared; a disagreement poisons the close, raises
event 0x02 and opens an arbitration (R255, R331, R332). -/
def execSamplerCompare (pc : Nat) (differs : Option (Nat × Nat)) (s : State) : Out :=
  done <| match (s.core pc).captures.find? (·.done) with
  | none => s
  | some c =>
    let s := s.updCore pc fun k =>
      { k with
        captures := k.captures.erase c
        ctrs := { k.ctrs with
          smplrun := k.ctrs.smplrun + 1
          smplfail := k.ctrs.smplfail + (if differs.isSome then 1 else 0) } }
    let s := s.updStrand c.t fun x => x.updGroup c.gid fun g =>
      { g with sampled := g.sampled - 1 }
    match differs with
    | none => s
    | some (row, chunk) =>
      let n := s.aon.caseCounter + 1
      let a : Arb :=
        { case := n, checker := 0, ctx := c.t.ctx, producer := pc, checkerCore := s.neighbour pc
          third := none, t := c.t, gid := c.gid, granules := [], sealNo := 0, step := (s.ctx c.t.ctx).step
          verdict := none, captured := Config.captureBytes (c.ops.flatMap Num.ints), emulator := none }
      let s := { s with
        aon := { s.aon with caseCounter := n }
        hub := { s.hub with arbs := s.hub.arbs ++ [a] } }
      let l := c.latch
      s.raise (s.evStrand c.t
        { event := 2, unit := 1, stream := 0, case := BitVec.ofNat 64 n, opc := Word.opc l.word
          fmtA := Desc.fmt (mOpd l 1).d, fmtB := Desc.fmt (mOpd l 2).d
          opdigest := sha384 (Config.captureBytes (c.ops.flatMap Num.ints))
          detail := tileDetail l c.bi c.bj c.strip chunk row })

end Sys2Proof.Machine
end

