-- ==== Sys2Proof/Machine/Xfers.lean ====
section
/-! DEFINITION. X instructions in flight: fragments, queue entries, completion, the transfer log and
gather records (02 R54 to R56, 07 R204 to R207, 11 R310, R311). -/

namespace Sys2Proof.Machine

/-! ### Instructions in flight -/

def State.xfer (s : State) (t : StrandId) (id : Nat) : Option Xfer :=
  (s.strand t).x.xfers.find? (·.id = id)

def State.updXfer (s : State) (t : StrandId) (id : Nat) (f : Xfer → Xfer) : State :=
  s.updStream (t.stream .x) fun x =>
    { x with xfers := x.xfers.map fun y => if y.id = id then f y else y }

def State.updFrag (s : State) (t : StrandId) (id k : Nat) (f : Frag → Frag) : State :=
  s.updXfer t id fun x => { x with frags := x.frags.modify k f }

/-- The faulty-fragment mask of an instruction (R206). -/
def Xfer.failMask (x : Xfer) : Nat :=
  bitSet ((List.range x.frags.length).filter fun k =>
    match (x.frags[k]?).bind Frag.status with
    | some n => n != 0
    | none => false)

/-- The cause a fragment reports: the lowest code, and its first address (R206). -/
def Frag.report (f : Frag) : Nat × Nat × Bool :=
  f.causes.foldl (fun b c => if b.1 = 0 || c.1 < b.1 then c else b) (0, 0, false)

/-- Log records of an instruction: one for each fragment whose status is not OK, in fragment order
(R207, Table 7.10). -/
def Xfer.records (x : Xfer) (t : StrandId) (pcore : Nat) : List XlogRec :=
  (List.range x.frags.length).filterMap fun k =>
    match x.frags[k]? with
    | none => none
    | some f =>
      let r := f.report
      if r.1 = 0 then none
      else some
        { status := BitVec.ofNat 8 (r.1 + (if r.2.2 then 0x80 else 0)), frag := BitVec.ofNat 8 k
          strand := BitVec.ofNat 8 t.st, ctx := BitVec.ofNat 8 t.ctx, vcore := BitVec.ofNat 16 t.vc
          pcore := BitVec.ofNat 16 pcore, pc := x.latch.pc, mask := BitVec.ofNat 64 x.failMask
          addr := BitVec.ofNat 64 r.2.1 }

/-- Adds a record to a context's transfer log of 4,096 (R207). -/
def Ctx.addXlog (x : Ctx) (r : XlogRec) : Ctx :=
  if 4096 ≤ x.xlog.length then
    { x with xlog := x.xlog.drop 1 ++ [r], ctrs := { x.ctrs with xlogdrop := x.ctrs.xlogdrop + 1 } }
  else { x with xlog := x.xlog ++ [r] }

/-! ### Elements of XCOPY and XACC (R158) -/

/-- Poisons what an instruction wrote or would have written at points of width `w`, and the twin's granules among them
(R61, R201). -/
def State.poisonPts (s : State) (w : Nat) (l : List Pt) : State :=
  let s := s.poisonAll (ptGranules (l.filter fun p => p.place != .buddy))
  s.poisonFar (l.flatMap fun p => (p.ws w 0 true).map fun y => (p.place, y))

/-- The interface behind a point is in a reset of its own: new accesses wait (R421 rule 3). -/
def State.ptHeld (s : State) (p : Pt) : Bool := s.heldAt p.place p.off

/-- The interface behind a point failed to retrain: accesses complete with ISOLATED (R425). -/
def State.ptIsolated (s : State) (p : Pt) : Bool := s.isolatedAt p.place p.off

/-- The address that the record of a fragment cut off gives: the first granule behind an isolated interface,
else the fragment's first destination granule, and whether it is a destination (R207, R421). -/
def State.cutCause (s : State) (t : StrandId) (els : List XEl) : Nat × Bool :=
  let out (p : Pt) : Bool := s.ptHeld p || s.ptIsolated p
  match els.find? fun e => out e.dst || out e.src with
  | some e => if out e.dst then (s.ctxAddr t e.dst, true) else (s.ctxAddr t e.src, false)
  | none => match els.head? with
    | some e => (s.ctxAddr t e.dst, true)
    | none => (0, true)

/-- Granules of this device are poisoned; behind an interface in reset that is written as its first action after release
(R421). -/
def State.poisonOrPend (s : State) (l : List (Place × Nat)) : State :=
  s.each (l.filter fun q => q.1 != .buddy) fun s q =>
    if s.ptHeld ⟨q.1, 64 * q.2, 0, 0⟩ then
      { s with mem := { s.mem with pendPoison := s.mem.pendPoison ++ [(decide (q.1 = .hbm), q.2)] } }
    else s.markGranule q.1 q.2 true

/-- Poison that waits for interfaces is written (R421). -/
def State.flushPend (s : State) (f : PortId → Bool) : State :=
  let pl (e : Bool × Nat) : Place := if e.1 then .hbm else .ddr
  let mine (e : Bool × Nat) : Bool := (s.iface (pl e) (64 * e.2)).any f
  let l := s.mem.pendPoison.filter mine
  let s := { s with mem := { s.mem with pendPoison := s.mem.pendPoison.filter fun e => !mine e } }
  s.each l fun s e => s.markGranule (pl e) e.2 true

/-- Bytes of granules cut off hold open values: the part of a write that was done is not the spec's (R206; log
6). -/
def State.openSpots (s : State) (l : List (Place × W)) : State :=
  let l := l.filter fun x => x.1 != .buddy
  let r := s.freeWs (l.map Prod.snd)
  let ws := (List.zip (l.map Prod.fst) r.2.1).map fun x => (x.1, { x.2 with bad := false })
  r.1.storeSpots ws

/-- The GATH field (Table 6.6). -/
def gathOf (w : Word) : Nat := if Word.opc w = 0x60 then bits (Word.mod w) 2 2 else 0

/-- Terms of a gather glaze: element index, bits and poison as read from the source (R310). -/
def State.gatherTerms (s : State) (t : StrandId) (id : Nat) (l : Latch) (ts : List (Nat × Nat × Bool)) : State :=
  if gathOf l.word = 0 then s
  else s.updXfer t id fun x =>
    { x with
      gsum := ts.foldl (fun a e => a + glzH l.aEnt.tid e.1 e.2.1 e.2.2) x.gsum
      gcnt := x.gcnt + ts.length }

/-- The bits of an element. -/
def State.ptBits (s : State) (w : Nat) (p : Pt) : Nat :=
  let m := s.memAt p.place
  if w = 16 then leNat (Memory.readN m p.off 2)
  else if w = 8 then (Memory.read m p.off).toNat
  else bits (Memory.read m p.off).toNat (4 * p.nib) 4

/-! ### Interlock and issue (R32, R54, R55) -/

/-- The stream goes on past an X instruction that is in flight (R56, R286). -/
def State.xPass (s : State) (i : StreamId) : State := (s.updStream i fun x => x.pass x.pc).reach i

/-- Runs an X instruction that has reached its issue: the faults at issue with QUEUE_OVERFLOW among them,
the wait for queue entries, and then the instruction in flight with its addresses translated (R185), handed to `f` with
its number (R54, R55, R453). -/
def State.xIssue (s : State) (t : StrandId) (o : Nat) (sel : Word → Bool)
    (flts : State → Latch → List Flt) (frags : State → Latch → List Frag)
    (f : State → Latch → Nat → State) : State :=
  let i := t.stream .x
  let s := s.reach i
  if s.canIssue i o && sel (s.stream i).word then
    let l := s.latch i
    let bad := flts s l
    let fr := if bad.isEmpty then frags s l else []
    let bad := bad ++ if queueEntries < fr.length then [⟨7, 0xFF, fr.length⟩] else []
    s.atIssue i l bad fun s =>
      if queueEntries < (s.stream i).entries + fr.length || s.interlocked t l then s
      else
        let id := (s.stream i).nextId
        let pts := if fr.isEmpty then ([], []) else s.xPts t l
        let y : Xfer := { id := id, latch := l, frags := fr, at_ := s.now, dpts := pts.1, apts := pts.2 }
        let s := (s.granted i).updStream i fun x => { x with nextId := id + 1, xfers := x.xfers ++ [y] }
        (f s l id).xPass i
  else s

/-! ### Completion (R56, R206, R310, R311) -/

/-- A gather record stored: it replaces that of its TAG, and a 65th discards the oldest (R310). -/
def Strand.gatherStore (x : Strand) (r : GatherRec) : Strand :=
  let l := x.gather.filter fun y => y.tag != r.tag
  if 64 ≤ l.length then { x with gather := l.drop 1 ++ [r], gathEvict := x.gathEvict + 1 }
  else { x with gather := l ++ [r] }

/-- An instruction all of whose fragments are complete leaves the queue: log records, its gather record or check,
and its signal, whatever the fail mask holds (R56, R206, R207, R310, R311). -/
def State.finishXfer (s : State) (t : StrandId) (x : Xfer) : State :=
  let i := t.stream .x
  let s := s.updStream i fun y => { y with xfers := y.xfers.filter fun z => z.id != x.id }
  let s : State := { s with mem := { s.mem with
    xaccPend := s.mem.xaccPend.filter fun e => !(e.2.2.1 = t && e.2.2.2 = x.id) } }
  let s := s.updCtx t.ctx fun c =>
    (x.records t ((s.pcore t.ctx t.vc).getD 0xFFFF)).foldl Ctx.addXlog c
  let tag := Desc.tag (xA x.latch)
  let g := gathOf x.latch.word
  if g = 1 then
    (s.updStrand t fun y => y.gatherStore ⟨tag, x.gsum, x.gcnt⟩).signalOf i x.latch.word
  else if g = 2 then
    let r := (s.strand t).gather.find? fun r => r.tag = tag
    let s := s.updStrand t fun y => { y with gather := y.gather.filter fun r => r.tag != tag }
    if r = some ⟨tag, x.gsum, x.gcnt⟩ then s.signalOf i x.latch.word
    else
      let s := s.poisonPts (xWidth x.latch) x.dpts
      let s := s.faultRun i x.latch ⟨9, opA, x.gsum.toNat⟩
      -- Hokunuon adds the recorded glaze to the fault event
      s.tell 1 (t.ctx :: (match r with
        | some r => [r.glaze.toNat, r.count]
        | none => []))
  else s.signalOf i x.latch.word

/-- A cause a fragment has met. -/
def State.addCause (s : State) (t : StrandId) (id k code addr : Nat) (dst : Bool) : State :=
  s.updFrag t id k fun f => { f with causes := f.causes ++ [(code, addr, dst)] }

/-- An instruction in flight leaves the queue once every fragment of it is complete. -/
def State.xferDone (s : State) (t : StrandId) (id : Nat) : State :=
  match s.xfer t id with
  | none => s
  | some x => if x.frags.any fun f => f.status.isNone then s else s.finishXfer t x

/-- A fragment completes with the lowest cause it met (R206). -/
def State.fragDone (s : State) (t : StrandId) (id k : Nat) : State :=
  (s.updFrag t id k fun f =>
    if f.status.isNone then { f with status := some f.report.1 } else f).xferDone t id

/-- What a log record of an XRSIG gives for an address (Table 7.10). -/
def rsigAddr (w : Word) : Nat := bits (Word.imm w) 0 32

/-- One fragment fails as a whole with status ISOLATED (3) or LINK (4): what its bytes hold where it was cut off is open,
its destination is poisoned, every element adds its glaze term, and it completes (R206, R243; log 6). -/
def State.fragFail (s : State) (t : StrandId) (id k code : Nat) : State :=
  match s.xfer t id with
  | none => s
  | some x =>
    let l := x.latch
    let o := Word.opc l.word
    if ((x.frags[k]?).bind Frag.status).isSome then s
    else if o = 0x64 then (s.addCause t id k code (rsigAddr l.word) true).fragDone t id k
    else
      let w := dstWidth l
      let copy : Bool := o = 0x60 || o = 0x61
      let els := match x.frags[k]? with
        | some f => if copy then x.part f else []
        | none => []
      let ds := s.fragDst t x k
      let a := if copy then s.cutCause t els
        else (((ds.head?).map fun d => s.ctxAddr t d.pt).getD 0, true)
      let ws := ds.flatMap fun d => (d.pt.ws w 0 true).map fun y => (d.pt.place, y)
      let s := if copy then s.openSpots ws else s
      let s := (s.poisonOrPend (ptGranules (ds.map DstEl.pt))).poisonFar ws
      let s := s.gatherTerms t id l (els.map fun e => (e.e, 0, true))
      let glz : Bool := o = 0x60 || o = 0x62 || (o = 0x63 && bits (Word.mod l.word) 4 1 = 1)
      let s := if glz then
          s.glaze t l (Desc.tag (xD l)) ((ds.filter fun d => !d.done).map fun d => (d.e, 0, true))
        else s
      (s.addCause t id k code a.1 a.2).fragDone t id k

/-- The fragments that depend on what a frame carries: those of the contributions among its elements, every fragment of an
XDISP, or the one it names (R267). -/
def State.depFrags (s : State) (dep : Dep) : List Nat :=
  match s.xfer dep.t dep.id with
  | none => []
  | some x =>
    let o := Word.opc x.latch.word
    if o = 0x62 then
      distinct (((s.ctx dep.t.ctx).colls.flatMap (·.contribs)).filterMap fun n =>
        if n.t = dep.t && n.xfer = dep.id && dep.lo ≤ n.elem && n.elem < dep.lo + dep.n then some n.frag else none)
    else if o = 0x63 then List.range x.frags.length
    else [dep.frag]

/-- What depends on a frame fails with status ISOLATED (3) or LINK (4) (R206, R267). -/
def State.depFail (s : State) (dep : Dep) (code : Nat) : State :=
  s.each (s.depFrags dep) fun s k => s.fragFail dep.t dep.id k code

end Sys2Proof.Machine
end

