-- ==== Sys2Proof/Machine/Fabric.lean ====
section
/-! DEFINITION. The fabric: endpoints, frames, sending, acknowledgement and retransmission
(10_fabric R261 to R269). -/

namespace Sys2Proof

open Sys2Proof.Machine

/-- Header, payload and poison mask of a transport frame: what its CRC covers (R264, Table 10.3). -/
def FabFrame.bytes (f : FabFrame) : List Byte :=
  [f.ver, f.typ, f.flags, f.status] ++ leBytes 4 f.srcdev.toNat ++ leBytes 4 f.dstdev.toNat
    ++ leBytes 2 f.srcep.toNat ++ leBytes 2 f.dstep.toNat ++ [f.srcctx, f.dstctx]
    ++ leBytes 2 f.payload.length ++ leBytes 4 f.epoch.toNat ++ leBytes 4 f.psn.toNat
    ++ leBytes 4 f.apsn.toNat ++ leBytes 8 f.sack.toNat ++ leBytes 8 f.w0.toNat ++ leBytes 8 f.w1.toNat
    ++ leBytes 4 f.w2.toNat ++ leBytes 4 f.w3.toNat ++ f.payload ++ leBytes 16 f.mask.toNat

def FabFrame.crcOk (f : FabFrame) : Bool := f.crc = crc32c f.bytes
def FabFrame.sealed (f : FabFrame) : FabFrame := { f with crc := crc32c f.bytes }

/-- A frame that signals: RSIG, or an ARRIVE (Table 10.4). -/
def FabFrame.signals (f : FabFrame) : Bool := f.typ = 5 || (f.typ = 6 && !f.w0.getLsbD 8)

end Sys2Proof

namespace Sys2Proof.Machine

/-! ### Endpoints (R262) -/

def Ctx.endpoint (x : Ctx) (n : Nat) : BitVec 256 := SMap.get 0 x.cfg.endpoints n
def epDev (e : BitVec 256) : Nat := bits e.toNat 128 32
def epPeer (e : BitVec 256) : Nat := bits e.toNat 160 16
def epCtx (e : BitVec 256) : Nat := bits e.toNat 176 4
def epTwin (e : BitVec 256) : Bool := e.getLsbD 180
def epValid (e : BitVec 256) : Bool := e.getLsbD 181
def epMask (e : BitVec 256) : Nat := bits e.toNat 192 16
def epEpoch (e : BitVec 256) : Nat := bits e.toNat 224 32

/-- The endpoint is granted (R160, R262, R217). -/
def Ctx.granted (x : Ctx) (n : Nat) : Bool :=
  n < 8192 && epValid (x.endpoint n) && !x.withdrawn.contains n

def Ctx.conn (x : Ctx) (n : Nat) : Conn := SMap.get {} x.conns n
def State.updConn (s : State) (c ep : Nat) (f : Conn → Conn) : State :=
  s.updCtx c fun x => { x with conns := SMap.upd {} x.conns ep f }

def State.fport (s : State) (k : Nat) : FabPort := SMap.get {} s.fab.ports k
def State.updFport (s : State) (k : Nat) (f : FabPort → FabPort) : State :=
  { s with fab := { s.fab with ports := SMap.upd {} s.fab.ports k f } }

/-- Ports that may carry a connection: those of its PORTMASK whose link is up (R268). -/
def State.portsOf (s : State) (e : BitVec 256) : List Nat :=
  (List.range 16).filter fun k => bits (epMask e) k 1 = 1 && (s.fport k).up

/-- The port of the frame with number `psn`: the (psn mod m)-th port of the mask (R268). -/
def pickPort (l : List Nat) (psn : Nat) : Option Nat := l[psn % max 1 l.length]?

/-- SACK: bit i is 1 when PSN APSN + 1 + i has been received. -/
def Conn.sack (x : Conn) : U64 :=
  x.got.foldl (fun a p => let i := (p - x.apsn - 1).toNat; if i < 64 then a ||| BitVec.ofNat 64 (2 ^ i) else a) 0

/-- Unacknowledged frames a sender may hold on a connection (R267 rule 1). -/
def fabWindow : Nat := 4096

/-- The address of port Fk of a device whose F0 has address `a`: k more in the last 16 bits, or in the last octet for IPv4
(R261, R262). -/
def portAddr (a : BitVec 128) (k : Nat) : BitVec 128 :=
  let m := if isV6 a then 65536 else 256
  BitVec.ofNat 128 (a.toNat / m * m + (a.toNat % m + k) % m)

/-- The headers of a frame that leaves by port `k` to the peer's port `k`: next hop, addresses, hop limit, DF, DSCP, ECT(0)
and UDP ports (R261, R264, R268). -/
def State.ipHdr (s : State) (e : BitVec 256) (srcep : Nat) (psn : U32) (k : Nat) : IpHdr :=
  let p := s.fport k
  { nextHop := p.nexthop, src := p.addr, dst := portAddr (BitVec.ofNat 128 (bits e.toNat 0 128)) k, hops := 64
    df := !isV6 p.addr, dscp := s.fab.dscp, ecn := 2
    sport := BitVec.ofNat 16 (0xC000 + (srcep ^^^ psn.toNat) % 16384), dport := s.fab.udp }

/-- Puts a frame on the wire with its headers and the acknowledgement it carries; a connection with no port up sends
nothing, and its timer tries again. -/
def State.fabEmit (s : State) (c ep : Nat) (f : FabFrame) (port : Nat) : State :=
  let x := (s.ctx c).conn ep
  let ip := s.ipHdr ((s.ctx c).endpoint ep) ep f.psn port
  s.emit (.fab ({ f with apsn := x.apsn, sack := x.sack, port := port, ip := ip }).sealed)

/-- No signal leaves a context that has faulted; one that has left before is sent again (R62 step 3). -/
def State.mayLeave (s : State) (c : Nat) (u : Unacked) : Bool :=
  u.left || !u.frame.signals || (s.ctx c).state.isReady

/-- A frame of context `c` on endpoint `ep`, its acknowledgement fields still empty. -/
def State.fabFrame (s : State) (c ep : Nat) (typ flags status : Nat) (psn : U32) (w0 w1 : U64)
    (w2 w3 : U32) (payload : List Byte) (mask : BitVec 128) : FabFrame :=
  let e := (s.ctx c).endpoint ep
  { ver := 1, typ := BitVec.ofNat 8 typ, flags := BitVec.ofNat 8 flags, status := BitVec.ofNat 8 status
    srcdev := s.fab.fabdev, dstdev := BitVec.ofNat 32 (epDev e), srcep := BitVec.ofNat 16 ep
    dstep := BitVec.ofNat 16 (epPeer e), srcctx := BitVec.ofNat 8 c, dstctx := BitVec.ofNat 8 (epCtx e)
    epoch := BitVec.ofNat 32 (epEpoch e), psn := psn, apsn := 0, sack := 0, w0 := w0, w1 := w1, w2 := w2
    w3 := w3, payload := payload, mask := mask, crc := 0, ce := false, port := 0 }

/-- An ACK: it takes no PSN, and carries what is owed; with no port up it stays owed (R265, R267). -/
def State.fabAckOut (s : State) (c ep status : Nat) (psn : U32) : State :=
  let x := (s.ctx c).conn ep
  let f := s.fabFrame c ep 7 (if x.ceEcho then 2 else 0) status 0 0 0 psn 0 [] 0
  match pickPort (s.portsOf ((s.ctx c).endpoint ep)) 0 with
  | some p => (s.updConn c ep fun x => { x with owed := 0, ceEcho := false }).fabEmit c ep f p
  | none => s

/-! ### Sending (R267, R268, R269) -/

/-- Pieces of at most 4,096 bytes of a message on the twin link, numbered from 0 (R290). -/
def State.twinFab (s : State) (hdr : List Byte) (payload : List Byte) (mask : BitVec 128)
    (dep : Option Dep) : State :=
  let all := hdr ++ payload
  let ps := chunksOf 4096 (all.length + 1) all
  let m := mask.toNat * 2
  s.each (List.range ps.length) fun s k =>
    let last := k + 1 = ps.length
    s.twinSend 0x05 (BitVec.ofNat 64 (k + (if last then 65536 else 0))) (ps.getD k [])
      (BitVec.ofNat 64 (m >>> (64 * k))) (if last then dep else none)

/-- Sends one message of context `c` on endpoint `ep`; `last` marks the final frame of a message. A
fragment that depends on it fails at once on a connection that has failed (R267 rule 5). -/
def State.fabSend (s : State) (c ep typ : Nat) (last : Bool) (w0 w1 : U64) (w2 w3 : U32)
    (payload : List Byte) (mask : BitVec 128) (dep : Option Dep) : State :=
  let e := (s.ctx c).endpoint ep
  let flags := if last then 4 else 0
  if epTwin e then
    s.twinFab ((s.fabFrame c ep typ flags 0 0 w0 w1 w2 w3 payload mask).bytes.take 64) payload mask dep
  else
    let x := (s.ctx c).conn ep
    if x.failed then
      match dep with
      | some d => s.depFail d 4
      | none => s
    else
      let f := s.fabFrame c ep typ flags 0 x.psn w0 w1 w2 w3 payload mask
      let free := x.unacked.length < fabWindow && (!f.signals || (s.ctx c).state.isReady)
      let p := if free then pickPort (s.portsOf e) x.psn.toNat else none
      let u : Unacked := ⟨x.psn, f, 0, s.now, p.getD 0, false, p.isSome, dep⟩
      -- a frame that leaves carries the acknowledgement that is owed
      let s' := s.updConn c ep fun x =>
        { x with psn := x.psn + 1, unacked := x.unacked ++ [u], owed := if p.isSome then 0 else x.owed }
      match p with
      | some p => s'.fabEmit c ep f p
      | none => s'

/-! ### The connection's timers (R267, R268) -/

/-- 1 µs in cycles. -/
def usCycles : Nat := 940

/-- The wait before the next transmission: 16 µs, doubled by each retransmission up to 1,024 µs; 16 µs
after BUSY (R267 rules 4 and 6). -/
def Unacked.interval (u : Unacked) : Nat :=
  if u.busy then 16 * usCycles else min 1024 (16 * 2 ^ u.retx) * usCycles

/-- The next set port after the one used last (R268). -/
def nextPort (l : List Nat) (last : Nat) : Option Nat :=
  match l.find? fun k => last < k with
  | some k => some k
  | none => l.head?

/-- The sender stops: the fragments that depend on its frames complete with LINK, and Hokunuon has a path
event (R267 rule 5, R380). -/
def State.connFail (s : State) (c ep : Nat) : State :=
  let us := ((s.ctx c).conn ep).unacked
  let s := s.updConn c ep fun x => { x with failed := true, unacked := [] }
  let s := s.each us fun s u => match u.dep with
    | some d => s.depFail d 4
    | none => s
  s.noticeCtx c 0x24 0 0 0 (leBytes 2 ep)

/-- FABRIC_ACK_TIMER: what is owed is acknowledged within 2 µs (R267 rule 3). -/
def execFabricAckTimer (c ep : Nat) (s : State) : Out :=
  let x := (s.ctx c).conn ep
  done <| if 0 < x.owed && 2 * usCycles ≤ s.now - x.owedSince then s.fabAckOut c ep 0 (x.apsn - 1) else s

/-- FABRIC_RATE_RAISE: after 16 µs without an echo the rate rises by 1 % of port rate (R268). -/
def execFabricRateRaise (c ep : Nat) (s : State) : Out :=
  let x := (s.ctx c).conn ep
  done <|
    if x.rate < 1000000 && 16 * usCycles ≤ s.now - x.echoAt then
      s.updConn c ep fun x => { x with rate := min 1000000 (x.rate + 10000), echoAt := s.now }
    else s

/-- FABRIC_OTHER_FRAME: ARP, neighbour discovery and echo requests are answered; a transport frame of a reserved TYPE or
VER is dropped, and counted where it is misdirected or its CRC fails; any other frame is dropped and counted. A port whose
link is down carries nothing (R259 to R261, R266). -/
def execFabricOtherFrame (port : Nat) (o : OtherFrame) (s : State) : Out :=
  done <|
    if !(s.fport port).up then s
    else match o with
      | .bad => s.updFport port fun p => { p with fabother := p.fabother + 1 }
      | .transport f =>
        if f.ip.dport != s.fab.udp then s.updFport port fun p => { p with fabother := p.fabother + 1 }
        else if f.dstdev != s.fab.fabdev then s.updFport port fun p => { p with fabmisdir := p.fabmisdir + 1 }
        else if !f.crcOk then s.updFport port fun p => { p with fabcrc := p.fabcrc + 1 }
        else s
      | o => s.emit (.answer false port o)

/-- FABRIC_LINK_CHANGE: a port's link comes up or goes down; a port that is down leaves the mask of every
connection (R259, R268). It comes up once stage 7 has released it, and not while it is in reset (R420, R424). -/
def execFabricLinkChange (port : Nat) (up : Bool) (s : State) : Out :=
  done <|
    if up && (s.aon.stage < 7 || s.mem.inReset.contains (.fabric port) || s.pwr.dev = .standby) then s
    else s.updFport port fun p => { p with up := up }

/-! ### Acknowledgements received -/

/-- Frames that an APSN and SACK acknowledge. -/
def ackedBy (apsn : U32) (sack : U64) (psn : U32) : Bool :=
  let d := (psn - apsn).toNat
  2 ^ 31 ≤ d || (1 ≤ d && d ≤ 64 && bits sack.toNat (d - 1) 1 = 1)

/-- Accepts PSN `psn`: the receive point advances past every frame received (R267 rule 1). -/
def Conn.accept (x : Conn) (psn : U32) (now : Nat) : Conn :=
  let got := psn :: x.got
  let n := (List.range (got.length + 1)).foldl (fun a _ => if got.contains a then a + 1 else a) x.apsn
  { x with
    apsn := n, got := got.filter fun p => (p - n).toNat < 2 ^ 31
    owed := x.owed + 1, owedSince := if x.owed = 0 then now else x.owedSince }

/-- The PSN is new and within the window (R267 rule 1). -/
def Conn.isNew (x : Conn) (psn : U32) : Bool := (psn - x.apsn).toNat < fabWindow && !x.got.contains psn

end Sys2Proof.Machine
end

