-- ==== Sys2Proof/Machine/Transfer.lean ====
section
/-! DEFINITION. XCOPY, XACC and XRSIG, their fragments, and the patrol scrub (06 R158, R160; 07 R189 to
R191, R200 to R208; 11 R310, R311). -/

namespace Sys2Proof.Machine

/-! ### Checks at issue (R61, R158, R160) -/

/-- The DESC_RANGE an X operand meets over the elements of an XCOPY or XACC. -/
def State.xFlts (s : State) (t : StrandId) (d : Desc) (op w : Nat) (cs : List Coord) : List Flt :=
  if !Desc.valid d || !fmtOk (Desc.fmt d) then [⟨3, op, allOnes⟩]
  else match cs.find? fun c => (s.xSpot t d (Desc.elem d w c).byte).isNone with
    | some c => [⟨3, op, addrDetail (Desc.elem d w c).byte⟩]
    | none => []

/-- Faults of XCOPY at issue, D before A. -/
def State.copyFlts (s : State) (t : StrandId) (l : Latch) : List Flt :=
  let cs := Desc.coords (xD l)
  s.xFlts t (xD l) opD (xWidth l) cs ++ s.xFlts t (xA l) opA (xWidth l) cs

/-- Faults of XACC at issue: formats and places it has no path to, then ranges (R158). -/
def State.accFlts (s : State) (t : StrandId) (l : Latch) : List Flt :=
  let d := xD l
  let a := xA l
  let ok (f : Nat) : Bool := f = 0 || f = 1
  let wd := fmtWidth (Desc.fmt d)
  let cs := Desc.coords d
  let outside := cs.any fun c =>
    match s.xSpot t d (Desc.elem d wd c).byte with
    | some p => p.region != 1
    | none => false
  (if !ok (Desc.fmt d) || (Desc.valid d && outside) then [⟨2, opD, Desc.fmt d⟩] else [])
    ++ (if !ok (Desc.fmt a) then [⟨2, opA, Desc.fmt a⟩] else [])
    ++ s.xFlts t d opD wd cs ++ s.xFlts t a opA (fmtWidth (Desc.fmt a)) cs

/-- What an X instruction asks of the twin as it issues. -/
def State.askSources (s : State) (t : StrandId) (l : Latch) : State :=
  let w := xWidth l
  let all := s.xElems t l
  s.askBuddy (farBytes w (all.map XEl.src)
    ++ (s.copyFrags t l).flatMap fun f => halfBytes w (((all.drop f.lo).take (f.hi - f.lo)).map XEl.dst))

/-! ### Issue -/

/-- An instruction with no element is complete as it issues; another asks the twin for what it reads there. -/
def State.copyStart (s : State) (t : StrandId) (l : Latch) (id : Nat) : State :=
  if (s.copyFrags t l).isEmpty then s.finishXfer t { id := id, latch := l, frags := [] } else s.askSources t l

/-- An XCOPY with a GATH value. -/
def State.xcopy (s : State) (t : StrandId) (g : Nat) : State :=
  s.xIssue t 0x60 (fun w => gathOf w = g) (fun s l => s.copyFlts t l) (fun s l => s.copyFrags t l)
    fun s l id => s.copyStart t l id

/-- XCOPY: copies element bits from A to D in fragments (R158). -/
def execXcopy (t : StrandId) (s : State) : Out := done <| s.xcopy t 0
/-- XCOPY with GATH = 1 (R310). -/
def execGatherRecord (t : StrandId) (s : State) : Out := done <| s.xcopy t 1
/-- XCOPY with GATH = 2 (R311). -/
def execGatherCheck (t : StrandId) (s : State) : Out := done <| s.xcopy t 2

/-- XACC: accumulates A into D in the HBM stacks (R158, R189). -/
def execXacc (t : StrandId) (s : State) : Out :=
  done <| s.xIssue t 0x61 (fun _ => true) (fun s l => s.accFlts t l) (fun s l => s.copyFrags t l)
    fun s l id => s.copyStart t l id

/-- XRSIG: a remote signal to endpoint EP; it completes when the endpoint acknowledges it (R160). -/
def execXrsig (t : StrandId) (s : State) : Out :=
  done <| s.xIssue t 0x64 (fun _ => true)
    (fun s l =>
      let m := Word.imm l.word
      let ep := bits m 16 16
      if (s.ctx t.ctx).granted ep then [] else [⟨5, 7, bits m 0 16 + 2 ^ 16 * ep⟩])
    (fun _ _ => [{ lo := 0, hi := 1 }])
    fun s l id =>
      let m := Word.imm l.word
      s.fabSend t.ctx (bits m 16 16) 5 true (BitVec.ofNat 64 (bits m 0 16 + 2 ^ 16 * bits m 32 4)) 0 0 0 [] 0
        (some ⟨t, id, 0, 0, 0⟩)

/-! ### Fragments of XCOPY (R205, R206) -/

/-- Bits of a byte that later elements of the instruction write (R205: the highest e stands). -/
def laterMask (later : List (Place × W)) (pl : Place) (a : Nat) : Byte :=
  later.foldl (fun m x => if x.1 = pl && x.2.addr = a then m ||| x.2.msk else m) 0

/-- Writes without the bits that later elements write. -/
def dropLater (later : List (Place × W)) (ws : List (Place × W)) : List (Place × W) :=
  if later.isEmpty then ws
  else ws.filterMap fun x =>
    let m := x.2.msk &&& ~~~(laterMask later x.1 x.2.addr)
    if m = 0 then none else some (x.1, { x.2 with msk := m })

/-- An overlap of D and A other than an exact in-place copy is misuse (R205). -/
def xMisuse (w : Nat) (l : List XEl) : Bool :=
  !(l.all fun e => e.dst.place = e.src.place && e.dst.off = e.src.off && (w != 4 || e.dst.nib = e.src.nib))
    && l.any fun a => l.any fun b =>
      a.dst.place = b.src.place && (a.dst.bytes w).any (b.src.bytes w).contains && (w != 4 || a.dst.nib = b.src.nib)

/-- Stores what one fragment of an X instruction writes to this device through the ports that `port` names; landings of
the hub engines come through the window port, and what they lose is charged to the instruction (R181). Lost bits fault
in Reproducible mode, and what the instruction still writes then lands poisoned; in Arrival mode they are counted as
status LOST (R61, R180, R181, Table 7.9). -/
def State.xStore (s : State) (t : StrandId) (k : Nat) (x : Xfer) (port : Nat → Option Eng) (ws : List (Place × W))
    (lost : List LostWord) : State :=
  let i := t.stream .x
  let l := x.latch
  let ws := if x.faulted then ws.map fun y => (y.1, { y.2 with bad := true }) else ws
  let kept := spotsKept port ws lost
  let q := (s.storeSpots kept).coverWrites x.cover kept
  let s := q.1.updXfer t x.id fun y => { y with cover := q.2 }
  match spotsLost port ws lost with
  | [] => s
  | (pl, n) :: r =>
    if (s.ctx t.ctx).cfg.set.arrival then
      let s := s.updStream i fun y =>
        { y with ctrs := { y.ctrs with lostw := y.ctrs.lostw + BitVec.ofNat 64 (r.length + 1) } }
      s.addCause t x.id k 5 (s.ctxAddr t ⟨pl, 4 * n, 0, 0⟩) true
    else if x.faulted then s
    else
      let s := s.updXfer t x.id fun y => { y with faulted := true }
      let d := if x.dpts.isEmpty then (s.fragDst t x k).map DstEl.pt else x.dpts
      (s.poisonPts (dstWidth l) d).faultRun i l (lostFlt (((pl, n) :: r).map Prod.snd))

/-- Causes that a fragment's reads met: a granule already poisoned, or an error found in it (R206). -/
def State.srcCauses (s : State) (t : StrandId) (id k : Nat) (pre post : List Pt) : State :=
  let s := match pre.head? with
    | some p => s.addCause t id k 1 (s.ctxAddr t p) false
    | none => s
  match (post.filter fun p => !pre.contains p).head? with
  | some p => s.addCause t id k 2 (s.ctxAddr t p) false
  | none => s

/-- Reads of points find the errors their code words hold (R199). -/
def State.ptFinds (s : State) (w : Nat) (l : List Pt) : State :=
  if s.mem.latent.isEmpty then s
  else s.each (l.foldl (fun (a : List Place) p => if a.contains p.place then a else a ++ [p.place]) [])
    fun s pl => s.readFinds pl ((l.filter (·.place = pl)).flatMap (Pt.bytes w))

/-- Completes one fragment of an XCOPY: its data moves with its poison (R158, R204 to R206, R243). -/
def State.copyFrag (s : State) (t : StrandId) (id k : Nat) (x : Xfer) (f : Frag) (env : FragEnv) : State :=
  let l := x.latch
  let w := xWidth l
  let all := x.els
  let els := x.part f
  let srcs := els.map XEl.src
  let toBuddy := els.any fun e => e.dst.place = .buddy
  let fromBuddy := farBytes w srcs ++ halfBytes w (els.map XEl.dst)
  let s := s.addErrs env.errs
  if env.isolated || els.any fun e => s.ptIsolated e.src || s.ptIsolated e.dst then
    s.fragFail t id k 3
  else if els.any fun e => s.ptHeld e.src || s.ptHeld e.dst then s
  else if env.link && (toBuddy || !fromBuddy.isEmpty) then s.fragFail t id k 4
  else if !s.haveBuddy fromBuddy || f.arrived then s
  else
    let pre := srcs.filter fun p => s.bad p.place p.off
    let s := s.ptFinds w srcs
    let post := srcs.filter fun p => s.bad p.place p.off
    let s := s.srcCauses t id k pre post
    let vals := els.map fun e => (e, s.ptBits w e.src, s.bad e.src.place e.src.off)
    let s := s.gatherTerms t id l (vals.map fun v => (v.1.e, if v.2.2 then 0 else v.2.1, v.2.2))
    let ws := vals.flatMap fun v => (v.1.dst.ws w v.2.1 v.2.2).map fun y => (v.1.dst.place, y)
    let (s, ws) := if xMisuse w all then s.freeSpots ws else (s, ws)
    let later := (all.drop f.hi).flatMap fun e => (e.dst.ws w 0 false).map fun y => (e.dst.place, y)
    let ws := dropLater later ws
    if toBuddy then
      -- a granule of the twin's is poisoned by any poisoned byte that reaches it
      let bad := (vals.filter fun v => v.2.2 || x.faulted).map fun v => v.1.dst.off / 64
      let s := s.glaze t l (Desc.tag (xD l)) (vals.map fun v =>
        let p := bad.contains (v.1.dst.off / 64)
        (v.1.e, if p then 0 else v.2.1, p))
      let ws := if x.faulted then ws.map fun y => (y.1, { y.2 with bad := true }) else ws
      let s := s.updFrag t id k fun f => { f with arrived := true }
      if ws.isEmpty then s.fragDone t id k else s.sendBuddy (ws.map Prod.snd) fun _ => some ⟨t, id, k, 0, 0⟩
    else
      let s := (s.addWaits env.bank).xStore t k x (s.portOf (t.stream .x)) ws env.bank.lost
      let s := s.glaze t l (Desc.tag (xD l)) (vals.map fun v =>
        let p := s.bad v.1.dst.place v.1.dst.off
        (v.1.e, if p then 0 else v.2.1, p))
      s.fragDone t id k

/-! ### XACC in the stack (R189 to R191, R208) -/

/-- Pending 64-byte granules a stack holds at most (Table 7.11). -/
def stackPending : Nat := 4096

/-- The HBM granules of D that a fragment accumulates into. -/
def accGranules (els : List XEl) : List Nat := distinct (els.map fun e => e.dst.off / 64)

/-- An XACC fragment arrives at the base die: its granules become pending if the stacks have room, and otherwise it
waits; one that meets no others pending at its stacks enters whatever its size (DESIGN CHOICE, log 134). In Reproducible
mode a granule on which another instruction's fragment is pending is poisoned and not applied (R190, R208). -/
def State.xaccArrive (s : State) (t : StrandId) (id k : Nat) (els : List XEl) : State :=
  let gs := accGranules els
  let stack (g : Nat) : Nat := hbmStack s.mem.bandLocal (64 * g)
  let full := (distinct (gs.map stack)).any fun st =>
    let n := (s.mem.xaccPend.filter (·.1 = st)).length
    n != 0 && stackPending < n + (gs.filter fun g => stack g = st).length
  if full then s.updFrag t id k fun f => { f with waiting := true }
  else
    let arrival := (s.ctx t.ctx).cfg.set.arrival
    let met := if arrival then [] else
      gs.filter fun g => s.mem.xaccPend.any fun e => e.2.1 = g && !(e.2.2.1 = t && e.2.2.2 = id)
    let add := (gs.filter fun g => !met.contains g).map fun g => (stack g, g, t, id)
    let s := { s with mem := { s.mem with xaccPend := s.mem.xaccPend ++ add } }
    let s := s.poisonAll (met.map fun g => (Place.hbm, g))
    let s := s.updFrag t id k fun f => { f with waiting := false, arrived := true, met := met }
    match met.head? with
    | some g => s.addCause t id k 6 (s.ctxAddr t ⟨.hbm, 64 * g, 1, 0⟩) true
    | none => s

/-- The bytes of D an element's sum is formed onto: as they stood before the instruction (R189). -/
def State.accBase (s : State) (x : Xfer) (off : Nat) : Nat :=
  let b (a : Nat) : Byte := match x.orig.find? (·.1 = a) with
    | some e => e.2
    | none => s.byteAt .hbm a
  (b off).toNat + 256 * (b (off + 1)).toNat

/-- Errors the base die finds in D granules as it reads them: an uncorrectable one keeps its elements from
being applied (R191, R199). -/
def State.accFinds (s : State) (t : StrandId) (id k : Nat) (gs : List Nat) : State × List Nat :=
  let es := s.mem.latent.filter fun e => e.store = .hbm && gs.contains (e.addr / 64)
  let bad := distinct ((es.filter fun e => !e.correctable).map fun e => e.addr / 64)
  let s := s.each es State.foundErr
  (match bad.head? with
    | some g => s.addCause t id k 2 (s.ctxAddr t ⟨.hbm, 64 * g, 1, 0⟩) true
    | none => s, bad)

/-- Applies an arrived XACC fragment: each element is read, added, rounded and written (R189, R191). -/
def State.xaccApply (s : State) (t : StrandId) (id k : Nat) (x : Xfer) (f : Frag) : State :=
  let l := x.latch
  let all := x.els
  let els := x.part f
  let srcs := els.map XEl.src
  let pre := srcs.filter fun p => s.bad p.place p.off
  let s := s.ptFinds 16 srcs
  let post := srcs.filter fun p => s.bad p.place p.off
  let s := s.srcCauses t id k pre post
  let (s, dead) := s.accFinds t id k ((accGranules els).filter fun g => !f.met.contains g)
  let skip := f.met ++ dead
  let live := els.filter fun e => !skip.contains (e.dst.off / 64)
  let env := (s.ctx t.ctx).roundEnv l
  let fd := Desc.fmt (xD l)
  let fa := Desc.fmt (xA l)
  let rs := live.map fun e =>
    let v := (decodeElem [] fd (s.accBase x e.dst.off)).add (decodeElem [] fa (s.ptBits 16 e.src))
    let q := roundTo [] fd (.ofNum v) env.mode (env.rnd e.e)
    (e, q.1, q.2)
  let ws := rs.flatMap fun r => (r.1.dst.ws 16 r.2.1 (s.bad r.1.dst.place r.1.dst.off)).map fun y => (Place.hbm, y)
  -- an overlap of D and A that is no exact in-place update leaves open values (R205)
  let (s, ws) := if xMisuse 16 all then s.freeSpots ws else (s, ws)
  let later := (all.drop f.hi).flatMap fun e => (e.dst.ws 16 0 false).map fun y => (Place.hbm, y)
  let ws := dropLater later ws
  -- the D granules of poisoned sources keep no defined value
  let lost := distinct ((live.filter fun e => s.bad e.src.place e.src.off).map fun e => e.dst.off / 64)
  let (s, free) := s.freeSpots (lost.flatMap fun g =>
    (List.range 64).map fun o => (Place.hbm, { addr := 64 * g + o, val := 0, bad := true }))
  let orig := ws.foldl (fun (a : List (Nat × Byte)) y =>
    if a.any (·.1 = y.2.addr) then a else (y.2.addr, s.byteAt .hbm y.2.addr) :: a) x.orig
  let s := s.countEvents (t.stream .x) l.step (Desc.tag (xD l)) (rs.flatMap fun r => r.2.2)
  let s := s.storeSpots (ws ++ free)
  let mine := (accGranules els).map fun g => (hbmStack s.mem.bandLocal (64 * g), g, t, id)
  let s := { s with mem := { s.mem with xaccPend := mine.foldl List.erase s.mem.xaccPend } }
  (s.updXfer t id fun y => { y with orig := orig }).updFrag t id k fun f =>
    { f with applied := true }

/-- The fragment of an XACC in flight that is not yet applied or complete. -/
def State.accPart (s : State) (t : StrandId) (id k : Nat) : Option (Xfer × Frag) :=
  match s.xfer t id with
  | none => none
  | some x =>
    match x.frags[k]? with
    | none => none
    | some f => if Word.opc x.latch.word = 0x61 && f.status.isNone && !f.applied then some (x, f) else none

/-- XACC_WAIT_ROOM: a fragment enters the stack's pending granules once there is room (R208). -/
def execXaccWaitRoom (t : StrandId) (id frag : Nat) (s : State) : Out :=
  done <| match s.accPart t id frag with
  | none => s
  | some (x, f) => if f.arrived then s else s.xaccArrive t id frag (x.part f)

/-- XACC_APPLY: the base die applies an arriving fragment as one indivisible step (R189). -/
def execXaccApply (t : StrandId) (id frag : Nat) (errs : List MemErr) (s : State) : Out :=
  done <| match s.accPart t id frag with
  | none => s
  | some (x, f) =>
    let els := x.part f
    let from_ := farBytes 16 (els.map XEl.src)
    if !s.haveBuddy from_ || els.any (fun e => s.ptHeld e.src || s.ptHeld e.dst || s.ptIsolated e.src || s.ptIsolated e.dst) then s
    else
      let s := s.addErrs errs
      let s := if f.arrived then s else s.xaccArrive t id frag els
      match s.accPart t id frag with
      | none => s
      | some (x, f) => if f.arrived then s.xaccApply t id frag x f else s

/-! ### Completion -/

/-- FRAGMENT_COMPLETE: a fragment of an XCOPY moves its data and completes; one of an XACC completes once
the stack has applied it (R206). Fragments of XRSIG, XCOLL and XDISP complete by what
the fabric answers, or fail as a whole. -/
def execFragmentComplete (t : StrandId) (id frag : Nat) (env : FragEnv) (s : State) : Out :=
  done <| match s.xfer t id with
  | none => s
  | some x =>
    match x.frags[frag]? with
    | none => s
    | some f =>
      if f.status.isSome then s
      else
        let o := Word.opc x.latch.word
        if o = 0x60 then s.copyFrag t id frag x f env
        else if o = 0x61 then
          let els := x.part f
          if f.applied then s.fragDone t id frag
          else if env.isolated || els.any fun e => s.ptIsolated e.src || s.ptIsolated e.dst then
            s.fragFail t id frag 3
          else if els.any fun e => s.ptHeld e.src || s.ptHeld e.dst then s
          else if env.link && els.any fun e => e.src.place = .buddy then
            s.fragFail t id frag 4
          else s
        else if env.isolated then s.fragFail t id frag 3
        else if env.link then s.fragFail t id frag 4
        else s

/-- PATROL_SCRUB: a background read of all HBM, DDR5 and staging SRAM finds the errors they hold; errors of
other stores wait for a read (R199, R200, R455). -/
def execPatrolScrub (errs : List MemErr) (s : State) : Out :=
  let s := s.addErrs errs
  done <| s.each (s.mem.latent.filter fun e => e.store = .hbm || e.store = .ddr || e.store = .staging)
    State.foundErr

end Sys2Proof.Machine
end

