-- ==== Sys2Proof/Machine/Vector.lean ====
section
/-! DEFINITION. The vector engine (05_vector_engine). -/

namespace Sys2Proof.Machine

/-! ### Operands (R133 to R138) -/

/-- Operand `k` of a vector instruction (0 D, 1 A, 2 B, 3 C), with its scale descriptor SDX + k. -/
def vOpd (l : Latch) (k : Nat) : Opd :=
  let w := l.word
  let r := [Word.d w, Word.a w, Word.b w, Word.c w].getD k 0
  { d := l.desc r, sd := l.desc (bits (Word.imm w) 0 5 + k), op := k }

/-- A D that carries the crumb format (R138). -/
def crumbFlt (d : Desc) : List Flt := if Desc.fmt d = 12 then [⟨2, opD, 12⟩] else []

/-- Range checks of an operand and its scale bytes over the coordinates it is addressed at (R61). -/
def Opd.check (o : Opd) (cs : List Coord) : List Flt :=
  checkSp o.d o.op o.width cs ++ (if Desc.forbidden o.d then [] else checkScale o.d o.sd o.op cs)

/-- Nibble positions that elements in the scratchpad take, scales included (R34, R96). -/
def Opd.nibbles (o : Opd) (cs : List Coord) : List Nat :=
  ((cs.filter fun c => inSp (Desc.elem o.d o.width c).byte).flatMap fun c =>
    let a := Desc.elem o.d o.width c
    let n := 2 * a.byte.toNat
    if o.width = 16 then [n, n + 1, n + 2, n + 3] else if o.width = 8 then [n, n + 1] else [n + a.nib])
  ++ (if fmtMx (Desc.fmt o.d) then
        (scaleCoords cs).flatMap fun c => let n := 2 * (Desc.elem o.sd 8 c).byte.toNat; [n, n + 1]
      else [])

/-- D and a source have the same base, width, and strides over every dimension of size above 1
(R135). -/
def inPlace (d src : Opd) (z : Nat → Nat) : Bool :=
  d.width = src.width
    && Desc.elem d.d d.width ⟨0, 0, 0, 0⟩ = Desc.elem src.d src.width ⟨0, 0, 0, 0⟩
    && [0, 1, 2, 3].all fun k => z k ≤ 1 || Desc.stride d.d k = Desc.stride src.d k

/-- An overlap of D with a source that R135 calls misuse. -/
def misuse (d src : Opd) (dc sc : List Coord) (z : Nat → Nat) : Bool :=
  !inPlace d src z && (let n := d.nibbles dc; (src.nibbles sc).any n.contains)

/-- Special values an instruction copies or leaves: NaN and infinity count as they are written (R149). -/
def copyEvents : Num → List NumEv
  | .nan => [.nanw]
  | .inf _ => [.infw]
  | _ => []

/-- What an operation writes: element writes, their events, elements counted in VELEM, and indices out
of range. -/
structure VOut where
  ws : List W
  evs : List NumEv := []
  velem : Nat := 0
  oor : Nat := 0
deriving DecidableEq, Repr

/-- The writes of a vector instruction, free values where an overlap is misuse: they are counted, flagged and
made, and the instruction completes. -/
def State.vWrite (s : State) (t : StrandId) (l : Latch) (bank : BankEnv) (r : VOut) (bad : Bool) : State :=
  let i := t.stream .v
  let w := if bad then s.freeWs r.ws else (s, r.ws, r.evs)
  let s := w.1.countEvents i l.step (Desc.tag (vOpd l 0).d) w.2.2
  let s := (s.addWaits bank).updStream i fun x =>
    { x with ctrs := { x.ctrs with
      velem := x.ctrs.velem + BitVec.ofNat 64 r.velem
      permoor := x.ctrs.permoor + BitVec.ofNat 64 r.oor
      vintlk := x.ctrs.vintlk + BitVec.ofNat 64 bank.intlk } }
  s.ownWrite i l w.2.1 bank.lost fun s => s.complete i l

/-- Runs a vector instruction: checks at issue, held errors found, poison, then the writes (R61, R133,
R199, R201). `issueFlts` are the faults at issue, `srcs` the operands read with their coordinates, `bad`
tells an overlap that is misuse, `out` what is written. -/
def State.vRun (s : State) (t : StrandId) (o : Nat) (bank : BankEnv)
    (issueFlts : State → Latch → List Flt) (srcs : State → Latch → Memory → List (Opd × List Coord))
    (execFlts : State → Latch → Memory → List Flt) (bad : Latch → Bool)
    (out : State → Latch → Memory → VOut) : State :=
  let i := t.stream .v
  s.issue i o fun s l =>
    s.atIssue i l (issueFlts s l) fun s =>
      match s.pcore t.ctx t.vc with
      | none => s
      | some p =>
        let ss := srcs s l (s.core p).sp
        let s := s.readFinds (.scratch p) (ss.flatMap fun x => x.1.addrs x.2)
        let m := (s.core p).sp
        let r := out s l m
        let flts := ss.flatMap (fun x => x.1.poison (s.core p).poison t.vc x.2) ++ execFlts s l m
        s.inExec i l (wsGranules r.ws) flts fun s => s.vWrite t l bank r (bad l)

/-! ### Element-wise operations (R133, R139, R140) -/

/-- What an element-wise instruction writes: `f` of the values read at each coordinate of D. -/
def vElemOut (env : RoundEnv) (ks : List Nat) (f : List Num → Exact) (l : Latch) (m : Memory) : VOut :=
  let d := vOpd l 0
  let rs : List Res := (Desc.coords d.d).map fun c =>
    ⟨c, Desc.index d.d c, f (ks.map fun k => (vOpd l k).value env.tab m c)⟩
  let w := env.write d rs
  { ws := w.1, evs := w.2, velem := rs.length }

/-- An element-wise instruction over the operands `ks`, from the values read at each coordinate. -/
def State.vElem (s : State) (t : StrandId) (o : Nat) (bank : BankEnv) (ks : List Nat)
    (f : State → Latch → List Num → Exact) : State :=
  let cs (l : Latch) := Desc.coords (vOpd l 0).d
  s.vRun t o bank
    (fun _ l => crumbFlt (vOpd l 0).d ++ (0 :: ks).flatMap fun k => (vOpd l k).check (cs l))
    (fun _ l _ => ks.map fun k => (vOpd l k, cs l))
    (fun _ _ _ => [])
    (fun l => ks.any fun k => misuse (vOpd l 0) (vOpd l k) (cs l) (cs l) (Desc.size (vOpd l 0).d))
    (fun s l m => vElemOut ((s.ctx t.ctx).roundEnv l) ks (f s l) l m)

/-- The larger of two values; +0 against −0 gives 0 (R140). -/
def vMax (a b : Num) : Num :=
  if a = .nan || b = .nan then .nan else if a.lt b then b else if a.isZero && b.isZero then Num.zero else a
def vMin (a b : Num) : Num :=
  if a = .nan || b = .nan then .nan else if b.lt a then b else if a.isZero && b.isZero then Num.zero else a

/-- The k-th value read. -/
def nth (l : List Num) (k : Nat) : Num := l.getD k Num.zero

/-- VADD: A + B. -/
def execVadd (t : StrandId) (bank : BankEnv) (s : State) : Out :=
  done <| s.vElem t 0x40 bank [1, 2] fun _ _ v => .ofNum ((nth v 0).add (nth v 1))
/-- VSUB: A − B. -/
def execVsub (t : StrandId) (bank : BankEnv) (s : State) : Out :=
  done <| s.vElem t 0x41 bank [1, 2] fun _ _ v => .ofNum ((nth v 0).sub (nth v 1))
/-- VMUL: A × B. -/
def execVmul (t : StrandId) (bank : BankEnv) (s : State) : Out :=
  done <| s.vElem t 0x42 bank [1, 2] fun _ _ v => .ofNum ((nth v 0).mul (nth v 1))
/-- VFMA: A × B + C, rounded once. -/
def execVfma (t : StrandId) (bank : BankEnv) (s : State) : Out :=
  done <| s.vElem t 0x43 bank [1, 2, 3] fun _ _ v => .ofNum (((nth v 0).mul (nth v 1)).add (nth v 2))
/-- VDIV: A / B. -/
def execVdiv (t : StrandId) (bank : BankEnv) (s : State) : Out :=
  done <| s.vElem t 0x44 bank [1, 2] fun _ _ v => (nth v 0).div (nth v 1)
/-- VRCP: 1 / A. -/
def execVrcp (t : StrandId) (bank : BankEnv) (s : State) : Out :=
  done <| s.vElem t 0x45 bank [1] fun _ _ v => (nth v 0).rcp
/-- VSQRT: √A. -/
def execVsqrt (t : StrandId) (bank : BankEnv) (s : State) : Out :=
  done <| s.vElem t 0x46 bank [1] fun _ _ v => (nth v 0).sqrt
/-- VRSQRT: 1 / √A. -/
def execVrsqrt (t : StrandId) (bank : BankEnv) (s : State) : Out :=
  done <| s.vElem t 0x47 bank [1] fun _ _ v => (nth v 0).rsqrt
/-- VMAX: the larger of A and B. -/
def execVmax (t : StrandId) (bank : BankEnv) (s : State) : Out :=
  done <| s.vElem t 0x48 bank [1, 2] fun _ _ v => .ofNum (vMax (nth v 0) (nth v 1))
/-- VMIN: the smaller of A and B. -/
def execVmin (t : StrandId) (bank : BankEnv) (s : State) : Out :=
  done <| s.vElem t 0x49 bank [1, 2] fun _ _ v => .ofNum (vMin (nth v 0) (nth v 1))
/-- VABS: |A|. -/
def execVabs (t : StrandId) (bank : BankEnv) (s : State) : Out :=
  done <| s.vElem t 0x4A bank [1] fun _ _ v => .ofNum (nth v 0).abs
/-- VNEG: −A. -/
def execVneg (t : StrandId) (bank : BankEnv) (s : State) : Out :=
  done <| s.vElem t 0x4B bank [1] fun _ _ v => .ofNum (nth v 0).neg
/-- VSEL: A where B > 0, otherwise C. -/
def execVsel (t : StrandId) (bank : BankEnv) (s : State) : Out :=
  done <| s.vElem t 0x4C bank [1, 2, 3] fun _ _ v =>
    .ofNum (if Num.zero.lt (nth v 1) then nth v 0 else nth v 2)
/-- VCVT: A in D's format. -/
def execVcvt (t : StrandId) (bank : BankEnv) (s : State) : Out :=
  done <| s.vElem t 0x4D bank [1] fun _ _ v => .ofNum (nth v 0)
/-- VCURVE: curve CID of A + B (R144). -/
def execVcurve (t : StrandId) (bank : BankEnv) (s : State) : Out :=
  done <| s.vElem t 0x4E bank [1, 2] fun s l v =>
    .ofNum (curveEval (s.ctx t.ctx).cfg.curves (bits (Word.imm l.word) 5 3) ((nth v 0).add (nth v 1)))

/-! ### Reductions (R141) -/

/-- Coordinates of a reduction's results: A's sizes with dimension 0 reduced. -/
def redCoords (a : Desc) : List Coord := coordsOf 1 (Desc.size a 1) (Desc.size a 2) (Desc.size a 3)

/-- What a reduction writes, in D's element order (R136): `f` of each row of A along dimension 0, and the events of its
arithmetic. -/
def vRedOut (env : RoundEnv) (f : List Num → Num × List NumEv) (l : Latch) (m : Memory) : VOut :=
  let d := vOpd l 0
  let a := vOpd l 1
  let rs := (redCoords a.d).map fun c =>
    let r := f ((List.range (Desc.size a.d 0)).map fun k => a.value env.tab m { c with i0 := k })
    ((⟨c, Desc.index d.d c, .ofNum r.1⟩ : Res), r.2)
  let w := env.write d (sortBy Res.e (rs.map Prod.fst))
  { ws := w.1, evs := w.2 ++ rs.flatMap Prod.snd, velem := rs.length }

/-- A reduction along dimension 0 of A. -/
def State.vRed (s : State) (t : StrandId) (o : Nat) (bank : BankEnv) (f : List Num → Num × List NumEv) :
    State :=
  let dc (l : Latch) := redCoords (vOpd l 1).d
  let ac (l : Latch) := Desc.coords (vOpd l 1).d
  s.vRun t o bank
    (fun _ l => crumbFlt (vOpd l 0).d ++ (vOpd l 0).check (dc l) ++ (vOpd l 1).check (ac l))
    (fun _ l _ => [(vOpd l 1, ac l)])
    (fun _ _ _ => [])
    (fun l => misuse (vOpd l 0) (vOpd l 1) (dc l) (ac l) (Desc.size (vOpd l 1).d))
    (fun s l m => vRedOut ((s.ctx t.ctx).roundEnv l) f l m)

/-- Sum of a row by chunks of 128 (R104 to R106). -/
def rowSum (l : List Num) : Num × List NumEv :=
  let r := combineAll Num.zero ((chunksOf 128 (l.length + 1) l).map chunkValue)
  (r.1, List.replicate r.2 .accovf)

/-- The maximum or minimum of a row; 0 for an empty one. -/
def rowFold (f : Num → Num → Num) : List Num → Num
  | [] => Num.zero
  | x :: l => l.foldl f x

/-- VRSUM: the sum along dimension 0. -/
def execVrsum (t : StrandId) (bank : BankEnv) (s : State) : Out := done <| s.vRed t 0x4F bank rowSum
/-- VRMAX: the maximum along dimension 0. -/
def execVrmax (t : StrandId) (bank : BankEnv) (s : State) : Out :=
  done <| s.vRed t 0x50 bank fun l => (rowFold vMax l, [])
/-- VRMIN: the minimum along dimension 0. -/
def execVrmin (t : StrandId) (bank : BankEnv) (s : State) : Out :=
  done <| s.vRed t 0x51 bank fun l => (rowFold vMin l, [])

/-! ### VAMAX (R148) -/

/-- The format code TFMT. -/
def vamaxFmt (l : Latch) : Nat := bits (Word.imm l.word) 8 4

/-- D's coordinates, each with the elements of A it covers: one for all of A, or one for each block of an MX
TFMT. -/
def vamaxBlocks (l : Latch) : List (Coord × List Coord) :=
  let ac := Desc.coords (vOpd l 1).d
  if fmtMx (vamaxFmt l) then (scaleCoords ac).map fun k => (k, ac.filter fun c => scaleCoord c = k)
  else [(⟨0, 0, 0, 0⟩, ac)]

/-- D as bytes, whatever its format code. -/
def vamaxD (l : Latch) : Opd := { vOpd l 0 with d := Desc.put (vOpd l 0).d 208 4 6 }

def vamaxFlts (l : Latch) : List Flt :=
  (if Desc.forbidden (vOpd l 0).d then [⟨3, opD, allOnes⟩]
    else checkSp (vamaxD l).d opD 8 ((vamaxBlocks l).map Prod.fst))
    ++ (vOpd l 1).check (Desc.coords (vOpd l 1).d)

def vamaxBad (l : Latch) : Bool :=
  misuse (vamaxD l) (vOpd l 1) ((vamaxBlocks l).map Prod.fst) (Desc.coords (vOpd l 1).d)
    (Desc.size (vOpd l 1).d)

/-- The scale exponents chosen for TFMT, as bytes at D, in D's element order (R136). -/
def vamaxOut (env : RoundEnv) (l : Latch) (m : Memory) : VOut :=
  let rs := (sortBy (fun b => Desc.index (vamaxD l).d b.1) (vamaxBlocks l)).map fun (k, cs) =>
    let vs := cs.map ((vOpd l 1).value env.tab m)
    let e := chooseScale env.tab env.margin (vamaxFmt l) vs
    let b := if fmtMx (vamaxFmt l) then mxByte e else wrap 8 (clampI8 e)
    (elemWs 8 (Desc.elem (vamaxD l).d 8 k) b false, (vs.filter fun v => !v.finite).length)
  { ws := rs.flatMap Prod.fst, evs := List.replicate (rs.map Prod.snd).sum .amaxskip, velem := rs.length }

/-- VAMAX: the scale exponent of A for format TFMT, of all of A or block by block. -/
def execVamax (t : StrandId) (bank : BankEnv) (s : State) : Out :=
  done <| s.vRun t 0x52 bank
    (fun _ l => vamaxFlts l)
    (fun _ l _ => [(vOpd l 1, Desc.coords (vOpd l 1).d)])
    (fun _ _ _ => [])
    vamaxBad
    (fun s l m => vamaxOut ((s.ctx t.ctx).roundEnv l) l m)

/-! ### VPERM (R149) -/

/-- An integer from 0 to `n` − 1, if the value is one. -/
def Num.index (n : Nat) (v : Num) : Option Nat :=
  match v with
  | .fin neg m x =>
    if m = 0 then (if 0 < n then some 0 else none)
    else if neg then none
    else
      let k := v.floorNat
      if (Num.fin false k 0).eqv (.fin false m x) && k < n then some k else none
  | _ => none

/-- The coordinate of A that a coordinate of D names through B, if its index is in range. -/
def vpermPick (tab : SMap U32) (l : Latch) (m : Memory) (c : Coord) : Option Coord :=
  (((vOpd l 2).value tab m c).index (Desc.size (vOpd l 1).d 0)).map fun j => { c with i0 := j }

/-- The coordinates of A that are read. -/
def vpermPicked (tab : SMap U32) (l : Latch) (m : Memory) : List Coord :=
  (Desc.coords (vOpd l 0).d).filterMap (vpermPick tab l m)

def vpermFlts (l : Latch) : List Flt :=
  let cs := Desc.coords (vOpd l 0).d
  crumbFlt (vOpd l 0).d ++ (vOpd l 0).check cs
    ++ (if Desc.forbidden (vOpd l 1).d then [⟨3, opA, allOnes⟩] else [])
    ++ (vOpd l 2).check cs
    ++ (if fmtMx (Desc.fmt (vOpd l 1).d) && Desc.forbidden (vOpd l 1).sd then [⟨3, 0x11, allOnes⟩] else [])

/-- B whole, and of A the elements picked that lie in the scratchpad. -/
def vpermSrcs (tab : SMap U32) (l : Latch) (m : Memory) : List (Opd × List Coord) :=
  let a := vOpd l 1
  [(vOpd l 2, Desc.coords (vOpd l 0).d),
   (a, (vpermPicked tab l m).filter fun c => inSp (Desc.elem a.d a.width c).byte)]

/-- D overlaps B, or an element of A that an index could name (R135; that unnamed elements count: DESIGN CHOICE, log 153). -/
def vpermBad (l : Latch) : Bool :=
  let cs := Desc.coords (vOpd l 0).d
  misuse (vOpd l 0) (vOpd l 2) cs cs (Desc.size (vOpd l 0).d)
    || misuse (vOpd l 0) (vOpd l 1) cs
        (cs.flatMap fun c => (List.range (Desc.size (vOpd l 1).d 0)).map fun j => { c with i0 := j })
        (Desc.size (vOpd l 0).d)

/-- Elements of A copied bit for bit where the formats agree and are not MX, converted otherwise; 0 where the
index is out of range, which counts in PERMOOR alone. -/
def vpermOut (env : RoundEnv) (l : Latch) (m : Memory) : VOut :=
  let d := vOpd l 0
  let a := vOpd l 1
  let ps := (Desc.coords d.d).map fun c => (c, vpermPick env.tab l m c)
  let oor := (ps.filter fun p => p.2.isNone).length
  if Desc.fmt d.d = Desc.fmt a.d && !fmtMx (Desc.fmt d.d) then
    let ws := ps.map fun (c, p) => match p with
      | some k =>
        let v := a.raw m k
        (d.ws c v, copyEvents (decodeElem env.tab (Desc.fmt d.d) v))
      | none => (d.ws c (env.conv d.d 0 (Desc.index d.d c) (.ofNum Num.zero)).1, [])
    { ws := ws.flatMap Prod.fst, evs := ws.flatMap Prod.snd, velem := ps.length - oor, oor := oor }
  else
    let res (l : List (Coord × Option Coord)) : List Res := l.map fun (c, p) =>
      ⟨c, Desc.index d.d c, .ofNum (match p with
        | some k => a.value env.tab m k
        | none => Num.zero)⟩
    { ws := (env.write d (res ps)).1, evs := (env.write d (res (ps.filter fun p => p.2.isSome))).2, velem := ps.length - oor, oor := oor }

/-- VPERM: gathers along dimension 0 of A by the indices in B. Of an MX operand A the form of the scale descriptor is checked
at issue, and the scale bytes in execution, for the elements picked (DESIGN CHOICE, log 153: R149 speaks of A's elements). -/
def execVperm (t : StrandId) (bank : BankEnv) (s : State) : Out :=
  done <| s.vRun t 0x53 bank
    (fun _ l => vpermFlts l)
    (fun s l m => vpermSrcs (s.ctx t.ctx).cfg.fmt l m)
    (fun s l m => (vOpd l 1).check (vpermPicked (s.ctx t.ctx).cfg.fmt l m))
    vpermBad
    (fun s l m => vpermOut ((s.ctx t.ctx).roundEnv l) l m)

/-! ### VAPPLY (R145 to R147) -/

/-- RND 1 selects apply-with-crumb (R145). -/
def vapplyCrumb (l : Latch) : Bool := Word.rnd l.word = 1

/-- The operands read: D and A, and the crumbs of B. -/
def vapplyKs (l : Latch) : List Nat := if vapplyCrumb l then [0, 1, 2] else [0, 1]

def vapplyFlts (l : Latch) : List Flt :=
  let fd := Desc.fmt (vOpd l 0).d
  let fb := Desc.fmt (vOpd l 2).d
  (if fd = 0 || fd = 1 then [] else [⟨2, opD, fd⟩])
    ++ (if vapplyCrumb l && fb != 12 then [⟨2, opB, fb⟩] else [])
    ++ (vapplyKs l).flatMap fun k => (vOpd l k).check (Desc.coords (vOpd l 0).d)

def vapplyBad (l : Latch) : Bool :=
  let cs := Desc.coords (vOpd l 0).d
  let z := Desc.size (vOpd l 0).d
  misuse (vOpd l 0) (vOpd l 1) cs cs z
    || (vapplyCrumb l && (misuse (vOpd l 0) (vOpd l 2) cs cs z || misuse (vOpd l 2) (vOpd l 1) cs cs z))

/-- D and its crumbs after the update is applied (R146, R147), or D + A rounded. -/
def vapplyOut (env : RoundEnv) (l : Latch) (m : Memory) : VOut :=
  let cs := Desc.coords (vOpd l 0).d
  let d := vOpd l 0
  let a := vOpd l 1
  let b := vOpd l 2
  if vapplyCrumb l then
    let ws := cs.map fun c =>
      let r := applyCrumb (Desc.fmt d.d) (d.raw m c) ((a.value env.tab m c).shift (-(Desc.scale d.d))) (b.raw m c)
      (d.ws c r.1 ++ b.ws c r.2.1, r.2.2)
    { ws := ws.flatMap Prod.fst, evs := ws.flatMap Prod.snd, velem := 2 * ws.length }
  else
    let rs : List Res := cs.map fun c =>
      ⟨c, Desc.index d.d c, .ofNum ((d.value env.tab m c).add (a.value env.tab m c))⟩
    let w := env.write d rs
    { ws := w.1, evs := w.2, velem := rs.length }

/-- VAPPLY: apply-with-crumb at RND 1, otherwise w + Δ rounded. -/
def execVapply (t : StrandId) (bank : BankEnv) (s : State) : Out :=
  done <| s.vRun t 0x54 bank
    (fun _ l => vapplyFlts l)
    (fun _ l _ => (vapplyKs l).map fun k => (vOpd l k, Desc.coords (vOpd l 0).d))
    (fun _ _ _ => [])
    vapplyBad
    (fun s l m => vapplyOut ((s.ctx t.ctx).roundEnv l) l m)

end Sys2Proof.Machine
end

