-- ==== Sys2Proof/Machine/Collective.lean ====
section
/-! DEFINITION. Collectives: XCOLL, contributions at the owner, results at the landing ranks, and the early
end of an instance (10_fabric R263, R270 to R278). -/

namespace Sys2Proof.Machine

/-- The plan check of COLL frames: low 8 bits of the CRC-32C over OP, RED, NRANK, ROOT and LEN (R271). -/
def Plan.check (p : Plan) : Nat :=
  let b := leBytes 64 p.toNat
  (crc32c (slice b 0 2 ++ slice b 8 2 ++ slice b 12 2 ++ slice b 24 8)).toNat % 256

/-- Shard `k`: first element and the element after its last (R272). -/
def Plan.shard (p : Plan) (k : Nat) : Nat × Nat :=
  (k * Plan.len p / Plan.nrank p, (k + 1) * Plan.len p / Plan.nrank p)

/-- The owner of element `i` (R272). -/
def Plan.owner (p : Plan) (i : Nat) : Nat := ((i + 1) * Plan.nrank p - 1) / Plan.len p

/-- Elements this rank contributes, and those it lands (Table 10.6). -/
def Plan.sets (p : Plan) : (Nat × Nat) × (Nat × Nat) :=
  let all := (0, Plan.len p)
  let mine := Plan.shard p (Plan.myrank p)
  match Plan.op p with
  | 1 => (all, all)
  | 2 => (all, mine)
  | 3 => (mine, all)
  | _ => if Plan.myrank p = Plan.root p then (all, (0, 0)) else ((0, 0), all)

/-- Rank `r` lands element `i`. -/
def Plan.lands (p : Plan) (i r : Nat) : Bool :=
  match Plan.op p with
  | 2 => r = Plan.owner p i
  | 4 => r != Plan.root p
  | _ => true

/-- The block of 256 elements of its owner's shard that holds element `i` (R278). -/
def Plan.block (p : Plan) (i : Nat) : Nat := (i - (Plan.shard p (Plan.owner p i)).1) / 256

/-- The rank map's entry of rank `r` of a plan whose first rank is entry `rmbase`: none where this context
hosts the rank, else its endpoint (R263). -/
def Ctx.rankEp (x : Ctx) (rmbase r : Nat) : Option Nat :=
  let e := (SMap.get 0xFFFF x.cfg.rankmap (rmbase + r)).toNat
  if e = 0xFFFF then none else some e

def Plan.rmbase (p : Plan) : Nat := Plan.fld p 128 32

/-- The plan entry of this context with identifier `id` and rank `rank`. -/
def Ctx.collOf (x : Ctx) (id rank : Nat) : Option Nat :=
  (x.cfg.collPlans.find? fun e => Plan.op e.2 != 0 && Plan.id e.2 = id && Plan.myrank e.2 = rank).map Prod.fst

/-- The plan entries of this context with identifier `id`. -/
def Ctx.collsOf (x : Ctx) (id : Nat) : List Nat :=
  (x.cfg.collPlans.filter fun e => Plan.op e.2 != 0 && Plan.id e.2 = id).map Prod.fst

/-! ### Instances (R273) -/

/-- Number of the open instance of a plan entry: the instances that have ended. -/
def Ctx.collNow (x : Ctx) (plan : Nat) : Nat := SMap.get 0 x.collCount plan

def Ctx.coll (x : Ctx) (plan num : Nat) : Option CollInst := x.colls.find? fun y => y.plan = plan && y.num = num

def State.updColl (s : State) (c plan num : Nat) (f : CollInst → CollInst) : State :=
  s.updCtx c fun x => { x with colls := x.colls.map fun y => if y.plan = plan && y.num = num then f y else y }

/-- The instance exists: one that has not ended and is not there yet is opened. -/
def State.openColl (s : State) (c plan num : Nat) : State :=
  let x := s.ctx c
  if (x.coll plan num).isSome || num < x.collNow plan then s
  else
    let y : CollInst := { collid := BitVec.ofNat 32 (Plan.id (x.collPlan plan)), plan := plan, num := num }
    s.updCtx c fun x => { x with colls := x.colls ++ [y] }

/-- The instance number that a frame's 32 bits name: the open one or one ahead of it; none for one that has
ended. -/
def Ctx.collNum (x : Ctx) (plan : Nat) (n : Nat) : Option Nat :=
  let k := x.collNow plan
  let d := (n + 2 ^ 32 - k % 2 ^ 32) % 2 ^ 32
  if d < 2 ^ 31 then some (k + d) else none

/-! ### Issue (R61, R273, R276) -/

/-- Faults of XCOLL at issue: none under the null plan; MX formats in OP 1 and 2; ranges of D, then A. -/
def State.collFlts (s : State) (t : StrandId) (l : Latch) : List Flt :=
  let p := (s.ctx t.ctx).collPlan (planOf l.word)
  if Plan.op p = 0 then []
  else
    let mx (d : Desc) (op : Nat) : List Flt :=
      if (Plan.op p = 1 || Plan.op p = 2) && fmtMx (Desc.fmt d) then [⟨2, op, Desc.fmt d⟩] else []
    let rng (d : Desc) (op : Nat) := s.xFlts t d op (fmtWidth (Desc.fmt d)) (Desc.coords d)
    mx (xD l) opD ++ mx (xA l) opA ++ rng (xD l) opD ++ rng (xA l) opA

/-- Vector index of a descriptor's element in a region of `len` elements that starts at `base` (R273). -/
def vecIndex (t : StrandId) (d : Desc) (base len : Nat) (c : Coord) : Option Nat :=
  let w := fmtWidth (Desc.fmt d)
  let e := Desc.elem d w c
  let a : Int := if Desc.space d = 0 then (0x280000000000 + t.vc * 2 ^ 24 : Nat) + e.byte else e.byte
  let b := a - base
  let i : Option Int :=
    if w = 16 then (if b % 2 = 0 then some (b / 2) else none)
    else if w = 8 then some b
    else some (2 * b + e.nib)
  i.bind fun i => if 0 ≤ i && i < len then some i.toNat else none

/-- Elements joined while neighbours belong together. -/
def runsBy {α : Type} (join : α → α → Bool) : List α → List (List α)
  | [] => []
  | a :: r =>
    match runsBy join r with
    | (b :: g) :: gs => if join a b then (a :: b :: g) :: gs else [a] :: (b :: g) :: gs
    | _ => [[a]]

/-- Elements packed densely, two 4-bit elements a byte (R96, R265). -/
def packElems (w : Nat) (l : List Nat) : List Byte :=
  if w = 16 then l.flatMap fun v => leBytes 2 v
  else if w = 8 then l.map fun v => BitVec.ofNat 8 v
  else (chunksOf 2 (l.length + 1) l).map fun p => BitVec.ofNat 8 (p.headD 0 % 16 + 16 * (p.getD 1 0 % 16))

/-- Elements of a payload. -/
def unpackElems (w : Nat) (b : List Byte) : List Nat :=
  if w = 16 then (chunksOf 2 (b.length + 1) b).map leNat
  else if w = 8 then b.map BitVec.toNat
  else b.flatMap fun x => [x.toNat % 16, x.toNat / 16]

/-- A run of 4-bit elements in pieces whose payloads say how many elements they hold: a payload of one byte holds one, a
longer one two a byte (DESIGN CHOICE, log 135: a frame counts bytes, and the spec does not say how an odd run ends). -/
def nibblePieces {α : Type} (l : List α) : List (List α) :=
  let e := l.take (l.length / 2 * 2)
  let r := l.drop (l.length / 2 * 2)
  (if e.isEmpty then [] else if e.length = 2 then e.map fun v => [v] else [e]) ++ r.map fun v => [v]

/-- A run of consecutive elements in the pieces that frames carry: what stands before the first granule boundary of the
vector's stream goes by itself, so that every other payload starts at one (R264). -/
def collPieces (w : Nat) (l : List CollVal) : List (List CollVal) :=
  match l with
  | [] => []
  | v :: _ =>
    let per := 512 / w
    let k := (per - v.elem % per) % per
    let ps := if k = 0 || l.length ≤ k then [l] else [l.take k, l.drop k]
    if w = 4 then ps.flatMap nibblePieces else ps

/-- Sends a run of consecutive elements in COLL frames: `res` for results (Table 10.4). `dep` is the X instruction whose
contributions they are. -/
def State.collFrame (s : State) (c ep : Nat) (p : Plan) (num : Nat) (res : Bool) (src dst : Nat)
    (l : List CollVal) (dep : Option (StrandId × Nat)) : State :=
  match l with
  | [] => s
  | v :: _ =>
    let w := fmtWidth v.fmt
    s.each (collPieces w l) fun s l =>
      let lo := (l.head?.map CollVal.elem).getD 0
      let dep : Option Dep := dep.map fun d => ⟨d.1, d.2, 0, lo, l.length⟩
      let groups := chunksOf (512 / w) (l.length + 1) l
      let mask := bitSet ((List.range groups.length).filter fun g => (groups.getD g []).any (·.poison))
      if !(s.ctx c).granted ep then
        match dep with
        | some d => s.depFail d 4
        | none => s
      else
        s.fabSend c ep 1 true (BitVec.ofNat 64 (Plan.id p + 2 ^ 32 * num))
          (BitVec.ofNat 64 (lo + if res then 2 ^ 48 else 0)) (BitVec.ofNat 32 (src + 2 ^ 16 * dst))
          (BitVec.ofNat 32 (Plan.check p + 256 * v.fmt)) (packElems w (l.map (·.bits))) (BitVec.ofNat 128 mask) dep

/-- A fragment of an X instruction has not completed. -/
def State.fragOpen (s : State) (t : StrandId) (id k : Nat) : Bool :=
  match s.xfer t id with
  | some x => match x.frags[k]? with
    | some f => f.status.isNone
    | none => false
  | none => false

/-- A named element needs no more: it is done, or its fragment has completed otherwise. -/
def State.settled (s : State) (n : Named) : Bool := n.done || !s.fragOpen n.t n.xfer n.frag

/-! ### The owner (R274, R275, R278) -/

/-- The fixed tree of R274: neighbours are combined at each level. -/
def pairUp {α : Type} (f : α → α → α) : List α → List α
  | a :: b :: r => f a b :: pairUp f r
  | l => l

def treeFold {α : Type} (f : α → α → α) : Nat → List α → List α
  | 0, l => l
  | n + 1, l => if l.length ≤ 1 then l else treeFold f n (pairUp f l)

/-- A wire value with the events of the steps that formed it. -/
abbrev WireEv := BitVec 40 × List NumEv

/-- One combining step of operator RED (R121, R141, R274). -/
def wireComb (red : Nat) (a b : WireEv) : WireEv :=
  let ev := a.2 ++ b.2
  if red = 0 then
    let r := wireSum a.1 b.1
    (r.1, ev ++ r.2)
  else
    let f := if red = 1 then vMax else vMin
    ((toWire (f (ofWire a.1) (ofWire b.1))).1, ev)

/-- The combination of all ranks' values, in rank order by the tree or in arrival order (R274). -/
def combineWires (arrival : Bool) (red : Nat) (l : List WireEv) : WireEv :=
  if arrival then
    match l with
    | [] => (0, [])
    | a :: r => r.foldl (wireComb red) a
  else (treeFold (wireComb red) l.length l).headD (0, [])

/-- The latched copy under which an instance's XCOLL runs. -/
def CollInst.latch (y : CollInst) (t : StrandId) (id : Nat) : Latch :=
  match y.latches.find? fun e => e.1 = t && e.2.1 = id with
  | some e => e.2.2
  | none => {}

/-- An exact value rounded into a format for an XCOLL landing: SCALE and block scales take no part. A result
into the crumb format is one the spec does not state (log 6). -/
def State.landBits (s : State) (x : Ctx) (l : Latch) (f e : Nat) (v : Num) : State × Nat × List NumEv :=
  if f = 12 then (s.takeFree, (Config.freeWord s.freeCtr).toNat % 256, [])
  else
    let r := x.roundEnv l
    let q := roundTo r.tab f (Exact.ofNum v) r.mode (r.rnd e)
    (s, q.1, q.2)

/-- The result of element `e` at its owner, once every contribution it needs is there and, for OP 1 and 2, the owner's own
XCOLL names it (R275). The wire values that an instance holds in its plan's staging area stand in CollInst alone; no byte of
the staging SRAM is written for them (DESIGN CHOICE, log 137: R278 gives their size and no layout). A UFL of a combining
step, which writes nothing by itself, sets the UFL flag of the owner's D tensor as one of its write would (DESIGN CHOICE,
log 138: R121 and R123 do not say). -/
def State.collResult (s : State) (c : Nat) (p : Plan) (y : CollInst) (e : Nat) : State × Option CollVal :=
  let x := s.ctx c
  let vs := y.vals.filter (·.elem = e)
  if Plan.op p = 1 || Plan.op p = 2 then
    let byRank := (List.range (Plan.nrank p)).filterMap fun r => vs.find? (·.rank = r)
    match y.landings.find? (·.elem = e) with
    | none => (s, none)
    | some n =>
      if byRank.length < Plan.nrank p then (s, none)
      else
        let l := y.latch n.t n.xfer
        let arr := x.cfg.set.arrival
        let ws := (if arr then vs else byRank).map fun v =>
          ((toWire (decodeElem x.cfg.fmt v.fmt v.bits)).1, ([] : List NumEv))
        let w := combineWires arr (Plan.red p) ws
        let f := Desc.fmt (xD l)
        let (s, b, ev) := s.landBits x l f e (ofWire w.1)
        let s := s.countEvents (n.t.stream .x) l.step (Desc.tag (xD l)) (w.2 ++ ev)
        (s, some ⟨e, Plan.myrank p, b, f, vs.any (·.poison)⟩)
  else
    let src := if Plan.op p = 3 then Plan.owner p e else Plan.root p
    (s, vs.find? (·.rank = src))

/-- Blocks in flight of a plan at its owner: those that hold contributions (R278). -/
def Ctx.collBlocks (x : Ctx) (plan : Nat) : List (Nat × Nat) :=
  let p := x.collPlan plan
  x.colls.flatMap fun y =>
    if y.plan = plan then (distinct (y.vals.map fun v => Plan.block p v.elem)).map fun b => (y.num, b) else []

/-- The owner has room for a contribution to element `e` of instance `num`. -/
def Ctx.collRoom (x : Ctx) (plan num e : Nat) : Bool :=
  let p := x.collPlan plan
  let l := x.collBlocks plan
  l.contains (num, Plan.block p e) || l.length < Plan.blks p

/-- The elements of a rank of this device have been acknowledged by their owner. -/
def State.collAck (s : State) (c id num rank lo n : Nat) : State :=
  match (s.ctx c).collOf id rank with
  | none => s
  | some k => s.updColl c k num fun y =>
    { y with contribs := y.contribs.map fun m => if lo ≤ m.elem && m.elem < lo + n then { m with done := true } else m }

/-- Takes this device's own contributions into the blocks that have room. -/
def State.collAdmit (s : State) (c plan num : Nat) : State :=
  match (s.ctx c).coll plan num with
  | none => s
  | some y =>
    let p := (s.ctx c).collPlan plan
    s.each y.waiting fun s v =>
      if (s.ctx c).collRoom plan num v.elem then
        (s.updColl c plan num fun y =>
          { y with waiting := y.waiting.erase v, vals := y.vals ++ [v] }).collAck c (Plan.id p) num v.rank v.elem 1
      else s

/-- Results go to every rank that lands them (R275). -/
def State.collSpread (s : State) (c plan num : Nat) (rs : List CollVal) : State :=
  let p := (s.ctx c).collPlan plan
  s.each (List.range (Plan.nrank p)) fun s r =>
    let mine := rs.filter fun v => Plan.lands p v.elem r
    match (s.ctx c).rankEp (Plan.rmbase p) r with
    | some ep =>
      let runs := runsBy (fun a b => b.elem = a.elem + 1 && a.fmt = b.fmt
        && Plan.owner p a.elem = Plan.owner p b.elem && Plan.block p a.elem = Plan.block p b.elem) mine
      s.each runs fun s g => s.collFrame c ep p num true (Plan.myrank p) r g none
    | none =>
      match (s.ctx c).collOf (Plan.id p) r with
      | none => s
      | some k => (s.openColl c k num).updColl c k num fun y => { y with results := y.results ++ mine }

/-- Forms every result that can be formed; results of elements formed leave their blocks. -/
def State.collForm (s : State) (c plan num : Nat) : State :=
  match (s.ctx c).coll plan num with
  | none => s
  | some y =>
    let p := (s.ctx c).collPlan plan
    let es := distinct (y.vals.map (·.elem))
    let r := es.foldl (fun (a : State × List CollVal) e =>
      let q := a.1.collResult c p y e
      match q.2 with
      | some v => (q.1, a.2 ++ [v])
      | none => (q.1, a.2)) (s, [])
    let gone := r.2.map (·.elem)
    (r.1.updColl c plan num fun y =>
      { y with vals := y.vals.filter fun v => !gone.contains v.elem, formed := y.formed ++ gone }).collSpread
        c plan num r.2

/-- The owner's work: contributions enter as blocks have room, and results are formed. -/
def State.collPump (s : State) (c plan num : Nat) : Nat → State
  | 0 => s
  | n + 1 => (((s.collAdmit c plan num).collForm c plan num)).collPump c plan num n

/-! ### Landing (R275, R276) -/

/-- A contribution or landing met an isolated interface: its fragment has status ISOLATED, and every destination granule of
it is poisoned (R206, R276). -/
def State.collIsolated (s : State) (n : Named) (q : Pt) (dst : Bool) : State :=
  match s.xfer n.t n.xfer with
  | some x =>
    (s.poisonPts (dstWidth x.latch) ((s.fragDst n.t x n.frag).map DstEl.pt)).addCause n.t n.xfer n.frag 3 (s.ctxAddr n.t q) dst
  | none => s

/-- The place of a landing, as its XCOLL was translated (R185). -/
def State.landPt (s : State) (n : Named) : Pt :=
  (((s.xfer n.t n.xfer).bind fun x => x.dpts[n.ord]?).getD ⟨.buddy, 0, 0, 0⟩)

/-- A fragment that met ISOLATED lands every element poisoned (R206). -/
def State.fragIsolated (s : State) (t : StrandId) (id k : Nat) : Bool :=
  match (s.xfer t id).bind fun x => x.frags[k]? with
  | some f => f.causes.any fun c => c.1 = 3
  | none => false

/-- Lands the results that have come for one XCOLL; those behind an interface in reset wait (R275, R276, R421). -/
def State.collLandX (s : State) (c plan num : Nat) (y : CollInst) (t : StrandId) (id : Nat) : State :=
  let l := y.latch t id
  let f := Desc.fmt (xD l)
  let w := fmtWidth f
  let ready := (y.landings.filter fun n => n.t = t && n.xfer = id && !s.settled n && !s.ptHeld (s.landPt n)).filterMap
    fun n => (y.results.find? (·.elem = n.elem)).map fun v => (n, v)
  if ready.isEmpty then s
  else
    let x := s.ctx c
    let r := ready.foldl (fun (a : State × List (Named × Nat × Bool)) nv =>
      let (n, v) := nv
      if 1 < (y.landings.filter (·.elem = n.elem)).length then
        -- an element named twice is misuse: its value is open (R34, R273)
        (a.1.takeFree, a.2 ++ [(n, (Config.freeWord a.1.freeCtr).toNat % 2 ^ w, v.poison)])
      else if v.fmt = f then (a.1, a.2 ++ [(n, v.bits, v.poison)])
      else
        let q := a.1.landBits x l f v.elem (decodeElem x.cfg.fmt v.fmt v.bits)
        (q.1.countEvents (t.stream .x) l.step (Desc.tag (xD l)) q.2.2, a.2 ++ [(n, q.2.1, v.poison)])) (s, [])
    let s := r.1.takeWaits
    -- an isolated interface: every destination granule of its fragment is poisoned
    let s := s.each (ready.filter fun e => s.ptIsolated (s.landPt e.1)) fun s e => s.collIsolated e.1 (s.landPt e.1) true
    let pts := r.2.map fun e => (e, s.landPt e.1)
    let s := s.each (distinct (pts.map fun e => e.1.1.frag)) fun s k =>
      let iso := s.fragIsolated t id k
      let ws := (pts.filter fun e => e.1.1.frag = k).flatMap fun e =>
        (e.2.ws w e.1.2.1 (e.1.2.2 || iso)).map fun z => (e.2.place, z)
      match s.xfer t id with
      | some xf =>
        let far := (ws.filter fun z => z.1 = .buddy).map Prod.snd
        let s := s.xStore t k xf (fun _ => none) (ws.filter fun z => z.1 != .buddy) s.bank.lost
        if far.isEmpty then s else s.sendBuddy far fun _ => none
      | none => s
    let s := s.glaze t l (Desc.tag (xD l)) (pts.map fun e =>
      let b := if e.2.place = .buddy then
          pts.any fun z => z.2.place = .buddy && z.2.off / 64 = e.2.off / 64 && z.1.2.2
        else s.bad e.2.place e.2.off
      (e.1.1.elem, if b then 0 else e.1.2.1, b))
    let s := s.each (pts.filter fun e => e.1.2.2) fun s e => s.addCause t id e.1.1.frag 1 (s.ctxAddr t e.2) true
    s.updColl c plan num fun y =>
      { y with landings := y.landings.map fun n =>
          if ready.any fun e => e.1.ord = n.ord && n.t = t && n.xfer = id then { n with done := true } else n }

def State.collLand (s : State) (c plan num : Nat) : State :=
  match (s.ctx c).coll plan num with
  | none => s
  | some y => s.each y.latches fun s e => s.collLandX c plan num y e.1 e.2.1

/-- Fragments whose landings are written and whose contributions are acknowledged complete (R276). -/
def State.collFinish (s : State) (c plan num : Nat) : State :=
  match (s.ctx c).coll plan num with
  | none => s
  | some y => s.each y.latches fun s e =>
    match s.xfer e.1 e.2.1 with
    | none => s
    | some x => s.each (List.range x.frags.length) fun s k =>
      let mine (n : Named) : Bool := n.t = e.1 && n.xfer = e.2.1 && n.frag = k
      if s.fragOpen e.1 e.2.1 k && (y.contribs.all fun n => !mine n || n.done)
          && y.landings.all fun n => !mine n || n.done then
        s.fragDone e.1 e.2.1 k
      else s

/-- One round of work on an instance of a collective at every rank of this device. -/
def State.collWork (s : State) (c id num : Nat) : State :=
  let ks := (s.ctx c).collsOf id
  let s := s.each ks fun s k =>
    s.collPump c k num ((((s.ctx c).coll k num).map fun y => y.waiting.length).getD 0 + 1)
  let s := s.each ks fun s k => s.collLand c k num
  s.each ks fun s k => s.collFinish c k num

/-! ### Joining an instance (R273) -/

/-- Every element of both sets has been named. -/
def CollInst.full (y : CollInst) (p : Plan) : Bool :=
  let q := Plan.sets p
  q.1.2 - q.1.1 ≤ (distinct (y.contribs.map (·.elem))).length
    && q.2.2 - q.2.1 ≤ (distinct (y.landings.map (·.elem))).length

/-- Reads an XCOLL's contributions: held errors are found, poison travels with the values, and one behind an isolated
interface is open and poisoned (R276; log 6). -/
def State.collRead (s : State) (t : StrandId) (xf : Xfer) (p : Plan) (num : Nat) :
    State × List (Named × CollVal) × Nat :=
  let l := xf.latch
  let id := xf.id
  let a := xA l
  let w := fmtWidth (Desc.fmt a)
  let cs := Desc.coords a
  let q := (Plan.sets p).1
  let e := collE l
  let f := collF (fragMax (xWidth l)) e
  let idx := (List.zip (List.range cs.length) (List.zip cs xf.apts)).map fun oc =>
    (oc.1, oc.2.2, (vecIndex t a (Plan.src p) (Plan.len p) oc.2.1).bind fun i => if q.1 ≤ i && i < q.2 then some i else none)
  let named := idx.filterMap fun z => z.2.2.map fun i => (z.1, i, z.2.1)
  let pts := named.map fun z => z.2.2
  let pre := pts.filter fun z => s.bad z.place z.off
  let s := s.ptFinds w pts
  let s := s.each (named.filter fun z => s.bad z.2.2.place z.2.2.off) fun s z =>
    s.addCause t id (fragOf f e z.1) (if pre.contains z.2.2 then 1 else 2) (s.ctxAddr t z.2.2) false
  let before := (((s.ctx t.ctx).coll (planOf l.word) num).map fun y => y.contribs.map (·.elem)).getD []
  let r := named.foldl (fun (z : State × List (Named × CollVal)) n =>
    let iso := s.ptIsolated n.2.2
    let free := iso || before.contains n.2.1 || z.2.any fun v => v.1.elem = n.2.1
    let b := if free then (Config.freeWord z.1.freeCtr).toNat % 2 ^ w else s.ptBits w n.2.2
    let m : Named := ⟨n.2.1, t, id, fragOf f e n.1, n.1, false⟩
    let s' := if free then z.1.takeFree else z.1
    (if iso then s'.addCause t id m.frag 3 (s.ctxAddr t n.2.2) false else s',
     z.2 ++ [(m, ⟨n.2.1, Plan.myrank p, b, Desc.fmt a, iso || s.bad n.2.2.place n.2.2.off⟩)])) (s, [])
  (r.1, r.2, (idx.filter fun z => z.2.2.isNone).length)

/-- Hands contributions to their owners; a rank that is hosted here and has no plan entry takes none, and they wait
until the instance ends (R272, R276, R277; DEDUCED, log 125). -/
def State.collSend (s : State) (t : StrandId) (id : Nat) (p : Plan) (num : Nat) (l : List (Named × CollVal)) :
    State :=
  let c := t.ctx
  let runs := runsBy (fun a b : Named × CollVal => b.2.elem = a.2.elem + 1
    && Plan.owner p a.2.elem = Plan.owner p b.2.elem && Plan.block p a.2.elem = Plan.block p b.2.elem) l
  s.each runs fun s g =>
    match g with
    | [] => s
    | h :: _ =>
      let k := Plan.owner p h.2.elem
      match (s.ctx c).rankEp (Plan.rmbase p) k with
      | some ep => s.collFrame c ep p num false (Plan.myrank p) k (g.map Prod.snd) (some (t, id))
      | none =>
        match (s.ctx c).collOf (Plan.id p) k with
        | none => s
        | some o =>
          if Plan.check ((s.ctx c).collPlan o) != Plan.check p then
            s.depFail ⟨t, id, 0, h.2.elem, g.length⟩ 4
          else (s.openColl c o num).updColl c o num fun y => { y with waiting := y.waiting ++ g.map Prod.snd }

/-- An XCOLL joins the open instance of its plan, or waits for the next one; one whose operands lie behind an interface in
reset waits for that (R273, R421 rule 3). The instance's time runs from the issue of its first XCOLL (R277). -/
def State.collStart (s : State) (t : StrandId) (id : Nat) : State :=
  match s.xfer t id with
  | none => s
  | some xf =>
    let l := xf.latch
    let c := t.ctx
    let plan := planOf l.word
    let p := (s.ctx c).collPlan plan
    let num := (s.ctx c).collNow plan
    let s := s.openColl c plan num
    match (s.ctx c).coll plan num with
    | none => s
    | some y =>
      if y.full p then s.updColl c plan num fun y => { y with defer := y.defer ++ [(t, id)] }
      else if (xf.apts ++ xf.dpts).any s.ptHeld then s
      else
        let r := s.collRead t xf p num
        let d := xD l
        let q := (Plan.sets p).2
        let cs := Desc.coords d
        let e := collE l
        let f := collF (fragMax (xWidth l)) e
        let idx := (List.zip (List.range cs.length) cs).map fun oc =>
          (oc.1, (vecIndex t d (Plan.dst p) (Plan.len p) oc.2).bind fun i =>
            if q.1 ≤ i && i < q.2 then some i else none)
        let lands : List Named := idx.filterMap fun z => z.2.map fun i => ⟨i, t, id, fragOf f e z.1, z.1, false⟩
        let skip := r.2.2 + (idx.filter fun z => z.2.isNone).length
        let s := r.1.updCtx c fun x =>
          { x with ctrs := { x.ctrs with xcollskip := x.ctrs.xcollskip + BitVec.ofNat 64 skip } }
        let s := s.updColl c plan num fun y =>
          { y with
            since := some (y.since.getD xf.at_), latches := y.latches ++ [(t, id, l)]
            contribs := y.contribs ++ r.2.1.map Prod.fst, landings := y.landings ++ lands }
        -- the fragments that met an isolated interface
        let s := s.each (r.2.1.filter fun n => s.fragIsolated t id n.1.frag) fun s n =>
          match s.xfer t id with
          | some x => s.poisonPts (dstWidth l) ((s.fragDst t x n.1.frag).map DstEl.pt)
          | none => s
        (s.collSend t id p num r.2.1).collWork c (Plan.id p) num

/-- Every element is named, acknowledged and landed, and the owner holds no open work. -/
def State.collComplete (s : State) (c : Nat) (y : CollInst) : Bool :=
  y.full ((s.ctx c).collPlan y.plan) && y.num = (s.ctx c).collNow y.plan && y.waiting.isEmpty && y.vals.isEmpty
    && y.contribs.all s.settled && y.landings.all s.settled

/-- Takes an instance away; the next one opens, and the XCOLLs that waited for it start. -/
def State.collClose (s : State) (c : Nat) (y : CollInst) : State :=
  let s := s.updCtx c fun x =>
    { x with
      colls := x.colls.filter fun z => !(z.plan = y.plan && z.num = y.num)
      collCount := SMap.set 0 x.collCount y.plan (max (x.collNow y.plan) (y.num + 1)) }
  s.each y.defer fun s e => s.collStart e.1 e.2

/-- Closes instances that are complete, as long as there are any. -/
def State.collSettle (s : State) (c : Nat) : Nat → State
  | 0 => s
  | n + 1 =>
    match (s.ctx c).colls.find? (s.collComplete c) with
    | some y => (s.collClose c y).collSettle c n
    | none => s

/-- Rounds that suffice: one for each instance and each deferred XCOLL. -/
def State.collFuel (s : State) (c : Nat) : Nat :=
  ((s.ctx c).colls.map fun y => 1 + y.defer.length).sum + 1

def State.collDone (s : State) (c : Nat) : State := s.collSettle c (s.collFuel c)

/-- Counts an X instruction under the null plan (R159). -/
def State.countNull (s : State) (t : StrandId) : State :=
  s.updStream (t.stream .x) fun x => { x with ctrs := { x.ctrs with xnull := x.ctrs.xnull + 1 } }

/-- An X instruction under the null plan has no fragments: it is complete as it issues (R159, R276). -/
def State.xNull (s : State) (t : StrandId) (l : Latch) (id : Nat) : State :=
  (s.countNull t).finishXfer t { id := id, latch := l, frags := [] }

/-- XCOLL: contributes to, and lands from, an instance of a collective plan (R273, R276, R286). -/
def execXcoll (x : BankedStrand) (s : State) : Out :=
  let t := x.t
  done <| s.withBank x.bank fun s => s.xIssue t 0x62 (fun _ => true) (fun s l => s.collFlts t l) (fun s l => s.collFrags t l) fun s l id =>
    if Plan.op ((s.ctx t.ctx).collPlan (planOf l.word)) = 0 then s.xNull t l id
    else (s.collStart t id).collDone t.ctx

/-! ### Ending early (R277) -/

/-- Ends an instance: landings not written are poisoned with LINK and add their glaze terms, its XCOLLs complete, and it
counts in ABANDONS (R243, R277). -/
def State.collEnd (s : State) (c : Nat) (y : CollInst) : State :=
  let s := s.each (y.landings.filter fun n => !s.settled n) fun s n =>
    let l := y.latch n.t n.xfer
    let pt := s.landPt n
    let s := (s.poisonPts (dstWidth l) [pt]).addCause n.t n.xfer n.frag 4 (s.ctxAddr n.t pt) true
    s.glaze n.t l (Desc.tag (xD l)) [(n.elem, 0, true)]
  let s := s.each y.latches fun s e =>
    match s.xfer e.1 e.2.1 with
    | none => s
    | some x => s.each (List.range x.frags.length) fun s k => s.fragDone e.1 e.2.1 k
  let s := s.updCtx c fun x => { x with ctrs := { x.ctrs with abandons := x.ctrs.abandons + 1 } }
  (s.collClose c y).collDone c

/-- XCOLLs and instances that an interface in reset kept waiting go on (R421). -/
def State.pokeColls (s : State) : State :=
  s.each (List.range 16) fun s c =>
    if !s.exists_ c then s
    else
      let s := s.each (s.strandsOf c) fun s t => s.each (s.strand t).x.xfers fun s x =>
        let joined := (s.ctx c).colls.any fun y =>
          y.defer.contains (t, x.id) || y.latches.any fun z => z.1 = t && z.2.1 = x.id
        if Word.opc x.latch.word = 0x62 && !joined then s.collStart t x.id else s
      (s.each (s.ctx c).colls fun s y => s.collWork c y.collid.toNat y.num).collDone c

end Sys2Proof.Machine
end

