-- ==== Sys2Proof/Machine/Experts.lean ====
section
/-! DEFINITION. Expert dispatch and combine (10_fabric R279 to R286). -/

namespace Sys2Proof.Machine

/-! ### Plan entries (Table 10.8) and the directory (Table 10.7) -/

/-- The dispatch plan entry of this context with identifier `id` and rank `rank`. -/
def Ctx.dispOf (x : Ctx) (id rank : Nat) : Option Nat :=
  (x.cfg.dispPlans.find? fun e => Plan.kind e.2 != 0 && Plan.id e.2 = id && Plan.myrank e.2 = rank).map Prod.fst

/-- A directory entry of a context: expert number within its range, in the phase table named (R279). -/
def State.dirEntry (s : State) (c : Nat) (phase1 : Bool) (e : Nat) : Option U64 :=
  let x := s.ctx c
  if e < x.dirSize then
    let w : U64 := SMap.get 0 (if phase1 then s.mem.dir1 else s.mem.dir0) (x.stageHub * 1048576 + x.dirBase + e)
    if w.getLsbD 63 then some w else none
  else none

/-! ### Instances -/

def State.updDisp (s : State) (c plan num : Nat) (f : DispInst → DispInst) : State :=
  s.updCtx c fun x => { x with disps := x.disps.map fun y => if y.plan = plan && y.num = num then f y else y }

/-- The instance exists, unless it is over. -/
def State.openDisp (s : State) (c plan num : Nat) : State :=
  let x := s.ctx c
  if (x.disp plan num).isSome || num < x.dispNow plan then s
  else
    let y : DispInst := { dispid := BitVec.ofNat 32 (Plan.id (x.dispPlan plan)), plan := plan, num := num }
    s.updCtx c fun x => { x with disps := x.disps ++ [y] }

/-- The instance number that a frame's 32 bits name: one that is there, or one to come; none for one that
is over. -/
def Ctx.dispNum (x : Ctx) (plan : Nat) (n : Nat) : Option Nat :=
  match x.disps.find? fun y => y.plan = plan && y.num % 2 ^ 32 = n with
  | some y => some y.num
  | none =>
    let k := x.dispNow plan
    let d := (n + 2 ^ 32 - k % 2 ^ 32) % 2 ^ 32
    if d < 2 ^ 31 then some (k + d) else none

/-! ### Issue (R61, R282, R284, R285) -/

/-- The first address of `n` bytes at a context address, or at an own-scratchpad offset, that lies in no
granted region; regions change only at multiples of 64 KiB. -/
def State.firstOut (s : State) (t : StrandId) (d : Desc) (a : Int) (n : Nat) : Option Int :=
  let first := a.fdiv 65536 * 65536
  ((List.range (n / 65536 + 2)).map fun (k : Nat) => max a (first + 65536 * k)).find? fun b =>
    b < a + n && (s.xSpot t d b).isNone

/-- A DESC_RANGE for bytes that an XDISP operand takes. -/
def State.bytesFlt (s : State) (t : StrandId) (d : Desc) (op : Nat) (l : List (Int × Nat)) : List Flt :=
  if !Desc.valid d || !fmtOk (Desc.fmt d) then [⟨3, op, allOnes⟩]
  else match l.findSome? fun e => s.firstOut t d e.1 e.2 with
    | some a => [⟨3, op, addrDetail a⟩]
    | none => []

/-- Faults of a dispatch at issue, A before B. Under the null plan, which gives no layout of tokens or records, A and B are
not checked at all (DESIGN CHOICE, log 139: R61 and R159 do not say whether VALID and the format still are). -/
def dispFlts (s : State) (t : StrandId) (l : Latch) : List Flt :=
  let p := (s.ctx t.ctx).dispPlan (planOf l.word)
  if Plan.kind p = 0 then []
  else
    let a := xA l
    let b := l.desc (Word.b l.word)
    let w := fmtWidth (Plan.fmt p)
    let ts := List.range (Desc.size a 1)
    s.bytesFlt t a opA (ts.map fun k => let e := rowStart a w k; (e.byte, rowBytes w (Plan.h p) e))
      ++ s.bytesFlt t b opB (ts.flatMap fun k => (List.range (Plan.k p)).map fun j => (recordAddr b k j, 8))

/-- Faults of a combine at issue. Under the null plan only the MX check of D is made, which R284 asks for; D and A are not
checked otherwise (DESIGN CHOICE, log 139). -/
def combFlts (s : State) (t : StrandId) (l : Latch) : List Flt :=
  let x := s.ctx t.ctx
  let plan := planOf l.word
  let p := x.dispPlan plan
  let d := xD l
  let mx : List Flt := if fmtMx (Desc.fmt d) then [⟨2, opD, Desc.fmt d⟩] else []
  if Plan.kind p = 0 then mx
  else
    let a := xA l
    let w := fmtWidth (Desc.fmt d)
    let wo := fmtWidth (Plan.ofmt p)
    let a0 := Desc.elem a wo ⟨0, 0, 0, 0⟩
    mx ++ s.bytesFlt t d opD ((List.range (x.combTokens plan (x.dispNow plan))).map fun k =>
          let e := rowStart d w k; (e.byte, rowBytes w (Plan.h p) e))
      ++ s.bytesFlt t a opA [(a0.byte, Plan.nlocal p * Plan.cap p * Plan.outBytes p)]

/-! ### Counts, placement and tokens at the home (R283) -/

/-- A message in pieces that end has arrived whole: every earlier frame of its connection has come. -/
def Ctx.ended (x : Ctx) : Nat × Option (Nat × U32) → Bool
  | (_, none) => true
  | (_, some (ep, psn)) => ((x.conn ep).apsn - psn - 1).toNat < 2 ^ 31

/-- Sends a message of pairs in frames of at most FABPAY bytes, the last one marked: `src` and `home` are the dispatch's
source and home rank, whichever way it goes (R264, Table 10.4). A dispatch depends on the counts it sends (R267). -/
def State.dcnt (s : State) (c ep : Nat) (p : Plan) (num : Nat) (accepted : Bool) (src home : Nat)
    (pairs : List (Nat × Nat)) (dep : Option Dep) : State :=
  let bs := pairs.flatMap fun q => leBytes 4 q.1 ++ leBytes 4 q.2
  let ps := match chunksOf (s.fab.fabpay / 8 * 8) (bs.length + 1) bs with
    | [] => [[]]
    | l => l
  if !(s.ctx c).granted ep then
    match dep with
    | some d => s.depFail d 4
    | none => s
  else s.each (List.range ps.length) fun s k =>
    s.fabSend c ep 3 (k + 1 = ps.length) (BitVec.ofNat 64 (Plan.id p + 2 ^ 32 * num)) (if accepted then 1 else 0)
      (BitVec.ofNat 32 (src + 2 ^ 16 * home)) 0 (ps.getD k []) 0 dep

/-- A rank's counts reach the home. -/
def State.takeCounts (s : State) (c plan num r : Nat) (pairs : List (Nat × Nat))
    (last : Option (Option (Nat × U32))) : State :=
  (s.openDisp c plan num).updDisp c plan num fun y =>
    { y with
      counts := y.counts ++ pairs.map fun q => (r, q.1, q.2)
      ends := match last with
        | some e => y.ends ++ [(r, e)]
        | none => y.ends }

/-- A home's accepted counts reach the source. -/
def State.takeAccepted (s : State) (c plan num h : Nat) (pairs : List (Nat × Nat))
    (last : Option (Option (Nat × U32))) : State :=
  s.updDisp c plan num fun y =>
    { y with
      acc := y.acc ++ pairs.map fun q => (h, q.1, q.2)
      accEnds := match last with
        | some e => y.accEnds ++ [(h, e)]
        | none => y.accEnds }

/-- A destination of a fragment lies behind an isolated interface: the fragment has status ISOLATED and every destination
granule of it is poisoned (R206, R285, R425). -/
def State.dispIsolated (s : State) (t : StrandId) (id k : Nat) (p : Option Pt) : State :=
  match p, s.xfer t id with
  | some q, some x =>
    (s.poisonPts (dstWidth x.latch) ((s.fragDst t x k).map DstEl.pt)).addCause t id k 3 (s.ctxAddr t q) true
  | _, _ => s

/-- The receive slots or counts of a plan lie behind an interface in reset or in a core that moves: writes there wait (R334,
R421). -/
def State.rxHeld (s : State) (c : Nat) (p : Plan) : Bool :=
  let at_ (a n : Nat) : Bool := (List.range (ceilDiv (a % 64 + n) 64)).any fun (k : Nat) =>
    (s.spot c ((a / 64 * 64 + 64 * k : Nat) : Int)).any fun q => s.heldAt q.place q.off
  s.anyHeld && (at_ (Plan.rxbase p) (Plan.nlocal p * Plan.cap p * Plan.tokBytes p)
    || at_ (Plan.cntbase p) (4 * Plan.nlocal p))

/-- Writes of an instance's dispatch at context addresses: bytes with poison and the fragment they belong to. They come
through the window port, and what they lose is charged to the dispatch (R181); once that has completed nothing more is
written for it. -/
def State.engineWrite (s : State) (c plan num : Nat) (l : List (Nat × Byte × Bool × Nat)) : State :=
  match ((s.ctx c).disp plan num).bind (·.disp) with
  | none => s
  | some (t, id) => s.takeWaits.each (distinct (l.map fun e => e.2.2.2)) fun s k =>
    let ws := (l.filter fun e => e.2.2.2 = k).filterMap fun e =>
      (s.spot c (e.1 : Nat)).map fun q => (q.place, ({ addr := q.off, val := e.2.1, bad := e.2.2.1 } : W))
    let s := s.dispIsolated t id k ((ws.find? fun z => s.isolatedAt z.1 z.2.addr).map fun z => ⟨z.1, z.2.addr, 0, 0⟩)
    let iso := s.fragIsolated t id k
    match s.xfer t id with
    | some x => s.xStore t k x (fun _ => none) (ws.map fun z => (z.1, { z.2 with bad := z.2.bad || iso })) s.bank.lost
    | none => s

/-- Once the counts of every rank are there, the home fixes acceptance, answers each rank and writes its
token counts (R283 step 4). -/
def State.place (s : State) (c plan num : Nat) : State :=
  let x := s.ctx c
  match x.disp plan num with
  | none => s
  | some y =>
    let p := x.dispPlan plan
    let n := Plan.nrank p
    if y.placed || s.rxHeld c p || !((List.range n).all fun r => y.ends.any fun e => e.1 = r && x.ended e) then s
    else
      let s := s.updDisp c plan num fun y => { y with placed := true }
      let s := s.each (List.range n) fun s r =>
        let xs := distinct ((y.counts.filter fun e => e.1 = r && e.2.2 != 0).map fun e => e.2.1)
        let pairs := xs.map fun e => (e, y.accept p r e)
        match x.rankEp (Plan.drmbase p) r with
        | some ep => s.dcnt c ep p num true r (Plan.myrank p) pairs none
        | none => match x.dispOf (Plan.id p) r with
          | some k => s.takeAccepted c k num (Plan.myrank p) pairs (some none)
          | none => s
      s.engineWrite c plan num ((List.range (Plan.nlocal p)).flatMap fun e =>
        let v := min (((y.counts.filter fun q => q.2.1 = e).map fun q => q.2.2).sum) (Plan.cap p)
        let b := leBytes 4 v
        (List.range 4).map fun i => (Plan.cntbase p + 4 * e + i, b.getD i 0, false, 0))

/-- Slot of token `q` of rank `r` for local expert `x`: none for a token that is discarded. -/
def DispInst.slot (y : DispInst) (p : Plan) (r x q : Nat) : Option Nat :=
  if q < y.accept p r x then some (y.before r x + q) else none

/-- Token bytes reach a home that has placed: accepted tokens go to their slots, the rest are discarded and
counted (R283 step 4, R285). -/
def State.takeTokens (s : State) (c plan num : Nat) (z : Strip) : State :=
  match (s.ctx c).disp plan num with
  | none => s
  | some y =>
    let p := (s.ctx c).dispPlan plan
    let tb := max 1 (Plan.tokBytes p)
    let bs := (List.zip (List.range z.data.length) z.data).map fun e => (z.off + e.1, e.2)
    let ws := bs.filterMap fun e =>
      (y.slot p z.r z.x (e.1 / tb)).map fun k => ((z.x * Plan.cap p + k) * tb + e.1 % tb, e.2)
    let drop := (bs.filter fun e => e.1 % tb = 0 && (y.slot p z.r z.x (e.1 / tb)).isNone).length
    let s := match y.disp.bind fun d => (s.xfer d.1 d.2).map fun xf => (d.1, xf) with
      | some (t, xf) =>
        let ws : List (Nat × (Byte × Bool) × Nat) := ws.map fun (e : Nat × (Byte × Bool)) =>
          (e.1, e.2, slotFrag p xf.latch e.1)
        let s := s.engineWrite c plan num (ws.map fun (e : Nat × (Byte × Bool) × Nat) =>
          (Plan.rxbase p + e.1, e.2.1.1, e.2.1.2, e.2.2))
        -- the first poisoned byte that reaches each fragment
        let bad : List (Nat × (Byte × Bool) × Nat) := ws.filter fun (e : Nat × (Byte × Bool) × Nat) => e.2.1.2
        s.each (distinct (bad.map fun (e : Nat × (Byte × Bool) × Nat) => e.2.2)) fun s k =>
          match bad.find? fun (e : Nat × (Byte × Bool) × Nat) => e.2.2 = k with
          | some e => s.addCause t xf.id k 1 ((Plan.rxbase p + e.1) / 64 * 64) true
          | none => s
      | none => s
    let s := s.updCtx c fun x => { x with ctrs := { x.ctrs with dispdrop := x.ctrs.dispdrop + BitVec.ofNat 64 drop } }
    s.updDisp c plan num fun y =>
      { y with tokRuns := y.tokRuns ++ [(z.r, z.x, z.off, z.data.length)] }

/-- Token bytes of this device's own ranks reach a home that has placed. -/
def State.takeWaiting (s : State) (c plan num : Nat) : State :=
  match (s.ctx c).disp plan num with
  | none => s
  | some y =>
    if y.placed && !s.rxHeld c ((s.ctx c).dispPlan plan) then
      s.each y.waiting fun s z => (s.takeTokens c plan num z).updDisp c plan num fun y =>
        { y with waiting := y.waiting.erase z }
    else s

/-! ### Completion of a dispatch (R283 step 5) -/

/-- Bytes of tokens, accepted or not, that the home receives in all. -/
def DispInst.tokAll (y : DispInst) (p : Plan) : Nat := ((y.counts.map fun e => e.2.2).sum) * Plan.tokBytes p

/-- Token bytes received so far. -/
def DispInst.tokGot (y : DispInst) : Nat := (y.tokRuns.map fun e => e.2.2.2).sum

/-- Every fragment of an X instruction that is still open completes. -/
def State.fragsDone (s : State) (t : StrandId) (id : Nat) : State :=
  match s.xfer t id with
  | some x => s.each (List.range x.frags.length) fun s k => s.fragDone t id k
  | none => s

/-- A dispatch that has all of R283 step 5 completes; one that failed is complete as it is. -/
def State.dispFinish (s : State) (c plan num : Nat) : State :=
  let x := s.ctx c
  match x.disp plan num with
  | none => s
  | some y =>
    let p := x.dispPlan plan
    match y.disp with
    | none => s
    | some (t, id) =>
      if !y.dispDone && (s.xfer t id).isNone then s.updDisp c plan num fun y => { y with dispDone := true }
      else if !y.dispDone && y.placed && y.tokGot = y.tokAll p && y.waiting.isEmpty && y.acked = y.sent
          && (List.range (Plan.nrank p)).all fun h => y.accEnds.any fun e => e.1 = h && x.ended e then
        (s.updDisp c plan num fun y => { y with dispDone := true }).fragsDone t id
      else s

/-! ### Combine (R284) -/

/-- Outputs a source expects from home `h` for local expert `x`: the accepted count. -/
def DispInst.accOf (y : DispInst) (h x : Nat) : Nat :=
  ((y.acc.filter fun e => e.1 = h && e.2.1 = x).map fun e => e.2.2).sum

/-- A byte of the outputs that came from home `h`, local expert `x`. -/
def DispInst.out (y : DispInst) (h x o : Nat) : Option (Byte × Bool) :=
  (y.outs.find? fun z => z.h = h && z.x = x && z.off ≤ o && o < z.off + z.data.length).bind fun z =>
    z.data[o - z.off]?

/-- Every output of every accepted token has come. -/
def DispInst.outsIn (y : DispInst) (p : Plan) : Bool :=
  y.acc.all fun e =>
    ((y.outs.filter fun z => z.h = e.1 && z.x = e.2.1).map fun z => z.data.length).sum
      = y.accOf e.1 e.2.1 * Plan.outBytes p

/-- The position of record (t, j) in its list (R283 step 1). -/
def DispInst.pos (y : DispInst) (r : DispRec) : Nat :=
  (y.recs.takeWhile fun z => z != r).countP fun z => z.home = r.home && z.x = r.x

/-- Distinct pairs, in order of first appearance. -/
def distinctPairs (l : List (Nat × Nat)) : List (Nat × Nat) :=
  l.foldl (fun a q => if a.contains q then a else a ++ [q]) []

/-- Bytes of the outputs of the slots written for rank `r` at local expert `e`. -/
def State.slotPts (s : State) (t : StrandId) (l : Latch) (p : Plan) (y : DispInst) (r e : Nat) : List Pt :=
  let a := xA l
  let a0 := (Desc.elem a (fmtWidth (Plan.ofmt p)) ⟨0, 0, 0, 0⟩).byte
  let first := (e * Plan.cap p + y.before r e) * Plan.outBytes p
  (List.range (y.accept p r e * Plan.outBytes p)).map fun i =>
    match s.xSpot t a (a0 + (first + i : Nat)) with
    | some q => ⟨q.place, q.off, q.region, 0⟩
    | none => ⟨.buddy, 0, 0, 0⟩

/-- Bytes of the buddy window that a combine needs: outputs it reads there, and bytes it writes half of. -/
def State.combFar (s : State) (t : StrandId) (l : Latch) (p : Plan) (y : DispInst) : List Nat :=
  ((distinctPairs (y.counts.map fun e => (e.1, e.2.1))).flatMap fun rx => farBytes 8 (s.slotPts t l p y rx.1 rx.2))
    ++ halfBytes (fmtWidth (Desc.fmt (xD l))) ((List.range y.tokens).flatMap fun k => (s.tokenPts t l p k).map Prod.snd)

/-- What an XDISP reads is checked, and its poison, held errors and isolated interfaces are causes of its first fragment
(R199, R285, R425). -/
def State.dispSource (s : State) (t : StrandId) (id w : Nat) (pts : List Pt) : State :=
  let pre := pts.filter fun q => s.bad q.place q.off
  let s := s.ptFinds w pts
  let s := s.srcCauses t id 0 pre (pts.filter fun q => s.bad q.place q.off)
  match pts.find? s.ptIsolated with
  | some q => s.addCause t id 0 3 (s.ctxAddr t q) false
  | none => s

/-- The bytes of a token vector, its elements packed densely (R265), each with the poison of what it was read from. What an
isolated interface answers is open and poisoned (log 6). -/
def State.tokenBytes (s : State) (w : Nat) (pts : List Pt) : State × List (Byte × Bool) :=
  let per := if w = 4 then 2 else 1
  (chunksOf per (pts.length + 1) pts).foldl (fun (a : State × List (Byte × Bool)) g =>
    let iso := g.any a.1.ptIsolated
    let bad := iso || g.any fun q => (Pt.bytes w q).any fun o => a.1.bad q.place o
    let bs := if iso then (packElems w (g.map (a.1.ptBits w))).map fun _ => BitVec.ofNat 8 (Config.freeWord a.1.freeCtr).toNat
      else packElems w (g.map (a.1.ptBits w))
    ((if iso then a.1.takeFree else a.1), a.2 ++ bs.map fun b => (b, bad))) (s, [])

/-- As home, returns the output of each written slot to its source rank (R284). -/
def State.returnOuts (s : State) (c plan num : Nat) (t : StrandId) (id : Nat) (l : Latch) : State :=
  match (s.ctx c).disp plan num with
  | none => s
  | some y =>
    let x := s.ctx c
    let p := x.dispPlan plan
    let lists := distinctPairs (y.counts.map fun e => (e.1, e.2.1))
    let s := s.updDisp c plan num fun y => { y with returned := true }
    s.each lists fun s rx =>
      let (r, e) := rx
      let n := y.accept p r e
      let pts := s.slotPts t l p y r e
      let s := s.dispSource t id 8 pts
      let r' := s.tokenBytes 8 pts
      let s := r'.1
      let data := r'.2
      let me := Plan.myrank p
      if n = 0 then s
      else match x.rankEp (Plan.drmbase p) r with
      | none => match x.dispOf (Plan.id p) r with
        | some k => s.updDisp c k num fun y => { y with outs := y.outs ++ [⟨r, me, e, 0, data⟩] }
        | none => s
      | some ep =>
        let ps := chunksOf s.fab.fabpay (data.length + 1) data
        s.each (List.range ps.length) fun s k =>
          let d := ps.getD k []
          let dep : Dep := ⟨t, id, 0, 0, d.length⟩
          if !x.granted ep then s.depFail dep 4
          else
            let s := s.updDisp c plan num fun y => { y with sent := y.sent + d.length }
            s.fabSend c ep 4 (k + 1 = ps.length) (BitVec.ofNat 64 (Plan.id p + 2 ^ 32 * num))
              (BitVec.ofNat 64 (k * s.fab.fabpay)) (BitVec.ofNat 32 (r + 2 ^ 16 * me)) (BitVec.ofNat 32 e)
              (d.map Prod.fst) (BitVec.ofNat 128 (maskOf (d.map Prod.snd))) (some dep)

/-- Element `h` of the output of record `r`: its exact value and poison (R97, R284). -/
def DispInst.outElem (y : DispInst) (x : Ctx) (p : Plan) (r : DispRec) (h : Nat) : Num × Bool :=
  let w := fmtWidth (Plan.ofmt p)
  let o := y.pos r * Plan.outBytes p + h * w / 8
  let b (k : Nat) : Byte × Bool := (y.out r.home r.x (o + k)).getD (0, false)
  let v := if w = 16 then (b 0).1.toNat + 256 * (b 1).1.toNat
    else if w = 8 then (b 0).1.toNat else bits (b 0).1.toNat (4 * (h % 2)) 4
  (decodeElem x.cfg.fmt (Plan.ofmt p) v, (b 0).2 || (w = 16 && (b 1).2))

/-- The combined tokens of a rank are written, each element rounded once (R284, R285). -/
def State.combWrite (s : State) (c plan num : Nat) (t : StrandId) (id : Nat) (l : Latch) : State :=
  let x := s.ctx c
  match x.disp plan num with
  | none => s
  | some y =>
    let p := x.dispPlan plan
    let d := xD l
    let f := Desc.fmt d
    let w := fmtWidth f
    let e := collE l
    let nf := combF l
    let r := (List.range y.tokens).foldl (fun (a : State × List (Nat × Nat × Bool) × List NumEv) k =>
      let recs := y.recs.filter fun z => z.t = k && y.pos z < y.accOf z.home z.x
      let bad := y.badTokens.contains k
      (List.range (Plan.h p)).foldl (fun a h =>
        let els := recs.map fun z => (decodeElem [] 1 z.gate.toNat, y.outElem x p z h)
        let v := chunkValue (els.map fun g => g.1.mul g.2.1)
        let ei := h + Desc.size d 0 * k
        let q := a.1.landBits x l f ei (combine Num.zero v).1
        (q.1, a.2.1 ++ [(ei, q.2.1, bad || els.any fun g => g.2.2)], a.2.2 ++ q.2.2)) a) (s, [], [])
    let s := r.1.countEvents (t.stream .x) l.step (Desc.tag d) r.2.2
    let at_ := ((s.xfer t id).map Xfer.dpts).getD []
    -- place, element index, bits, poison, fragment
    let pts : List (Pt × Nat × Nat × Bool × Nat) :=
      (List.zip at_ r.2.1).map fun z => (z.1, z.2.1, z.2.2.1, z.2.2.2, fragOf nf e z.2.1)
    let wsOf (z : Pt × Nat × Nat × Bool × Nat) : List (Place × W) :=
      (z.1.ws w z.2.2.1 z.2.2.2.1).map fun u => (z.1.place, u)
    let s := s.takeWaits.each (List.range nf) fun s k =>
      let mine := pts.filter fun z => z.2.2.2.2 = k && z.1.place != .buddy
      let s := s.dispIsolated t id k ((mine.find? fun z => s.ptIsolated z.1).map fun z => z.1)
      let iso := s.fragIsolated t id k
      match s.xfer t id with
      | some xf => s.xStore t k xf (fun _ => none)
          ((mine.flatMap wsOf).map fun z => (z.1, { z.2 with bad := z.2.bad || iso })) s.bank.lost
      | none => s
    let far := ((pts.filter fun z => z.1.place = .buddy).flatMap wsOf).map Prod.snd
    let s := s.updDisp c plan num fun y => { y with written := true, sent := y.sent + (joinWs far).length }
    let s := s.sendBuddy far fun n => some ⟨t, id, 0, 0, n⟩
    let s := s.glaze t l (Desc.tag d) (pts.map fun z =>
      let b := if z.1.place = .buddy then pts.any fun v => v.1.place = .buddy && v.1.off / 64 = z.1.off / 64 && v.2.2.2.1
        else s.bad z.1.place z.1.off
      (z.2.1, if b then 0 else z.2.2.1, b))
    s.each (pts.filter fun z => z.2.2.2.1) fun s z => s.addCause t id z.2.2.2.2 1 (s.ctxAddr t z.1) true

/-- An instance of a plan entry leaves the engine. -/
def State.dispClose (s : State) (c plan num : Nat) : State :=
  s.updCtx c fun x => { x with disps := x.disps.filter fun y => !(y.plan = plan && y.num = num) }

/-- An interface in reset, or a core that moves, keeps a combine from its outputs or its destination (R334, R421). -/
def State.combHeld (s : State) (c plan num : Nat) (t : StrandId) (id : Nat) (l : Latch) (p : Plan) : Bool :=
  s.anyHeld && match (s.ctx c).disp plan num with
    | some y => (((s.xfer t id).map Xfer.dpts).getD []).any s.ptHeld
        || (distinctPairs (y.counts.map fun e => (e.1, e.2.1))).any fun rx => (s.slotPts t l p y rx.1 rx.2).any s.ptHeld
    | none => false

/-- What a combine can do: return the outputs once the bytes it needs of the twin have come, write its tokens once all
outputs are there, and end once what it sent is acknowledged (R284, R291). -/
def State.combStep (s : State) (c plan num : Nat) (t : StrandId) (id : Nat) (l : Latch) (p : Plan) (need : List Nat) :
    State :=
  if !s.haveBuddy need || s.combHeld c plan num t id l p then s
  else
    let s := match (s.ctx c).disp plan num with
      | some y => if y.returned then s else s.returnOuts c plan num t id l
      | none => s
    let s := match (s.ctx c).disp plan num with
      | some y => if !y.written && y.outsIn p && y.acked = y.sent then s.combWrite c plan num t id l else s
      | none => s
    match (s.ctx c).disp plan num with
    | some y => if y.written && y.acked = y.sent then (s.fragsDone t id).dispClose c plan num else s
    | none => s

/-- A combine starts once the dispatch of its instance has completed on its rank; it ends when its outputs
are back at their sources and its own tokens are written. -/
def State.combRun (s : State) (c plan num : Nat) : State :=
  match (s.ctx c).disp plan num with
  | none => s
  | some y =>
    match y.comb with
    | none => s
    | some (t, id) =>
      match s.xfer t id with
      | none => s.dispClose c plan num
      | some xf =>
        let p := (s.ctx c).dispPlan plan
        if y.ended then
          -- the dispatch ended early: nothing can be combined
          (s.each (List.range xf.frags.length) fun s k => s.fragFail t id k 4).dispClose c plan num
        else if !y.dispDone then s
        else
          let need := s.combFar t xf.latch p y
          if !y.asked then
            let s := s.updDisp c plan num fun y => { y with asked := true }
            (s.askBuddy need).combStep c plan num t id xf.latch p need
          else s.combStep c plan num t id xf.latch p need

/-- Bytes `o` to `o + 7` of a routing record. -/
def recordOf (s : State) (t : StrandId) (b : Desc) (k j : Nat) : List Pt :=
  (List.range 8).filterMap fun (i : Nat) =>
    (s.xSpot t b (recordAddr b k j + i)).map fun q => (⟨q.place, q.off, q.region, 0⟩ : Pt)

/-- The routing records in the order the engine reads them: those accepted for a list, tokens with a
poisoned record, and how many were skipped (R283 step 1). -/
def State.readRecords (s : State) (t : StrandId) (l : Latch) (p : Plan) : State × List DispRec × List Nat × Nat :=
  let b := l.desc (Word.b l.word)
  let ks := (List.range (Desc.size (xA l) 1)).flatMap fun k => (List.range (Plan.k p)).map fun j => (k, j)
  let s := s.ptFinds 8 (ks.flatMap fun kj => recordOf s t b kj.1 kj.2)
  ks.foldl (fun a kj =>
    let pts := recordOf s t b kj.1 kj.2
    let v := leNat (pts.map fun q => s.byteAt q.place q.off)
    if pts.any fun q => s.bad q.place q.off || s.ptIsolated q then (a.1, a.2.1, a.2.2.1 ++ [kj.1], a.2.2.2 + 1)
    else if Plan.tmax p ≤ kj.1 || bits v 31 1 = 1 then (a.1, a.2.1, a.2.2.1, a.2.2.2 + 1)
    else match s.dirEntry t.ctx l.phase1 (bits v 0 20) with
      | none => (a.1, a.2.1, a.2.2.1, a.2.2.2 + 1)
      | some e =>
        (a.1, a.2.1 ++ [⟨kj.1, kj.2, bits e.toNat 0 16, bits e.toNat 16 12, BitVec.ofNat 16 (bits v 32 16)⟩],
         a.2.2.1, a.2.2.2)) (s, [], [], 0)

/-- The points of token `k`'s elements: H elements of FMT from A's element (0, t) on (R282). -/
def State.tokenData (s : State) (t : StrandId) (l : Latch) (p : Plan) (k : Nat) : List Pt :=
  let a := xA l
  let w := fmtWidth (Plan.fmt p)
  let st := rowStart a w k
  (List.range (Plan.h p)).map fun (h : Nat) =>
    let e : El := if w = 16 then ⟨st.byte + 2 * h, 0⟩ else if w = 8 then ⟨st.byte + h, 0⟩
      else ⟨st.byte + ((st.nib + h) / 2 : Nat), (st.nib + h) % 2⟩
    match s.xSpot t a e.byte with
    | some q => ⟨q.place, q.off, q.region, e.nib⟩
    | none => ⟨.buddy, 0, 0, 0⟩

/-- Bytes of the buddy window that a dispatch reads: tokens and records. -/
def State.dispFar (s : State) (t : StrandId) (l : Latch) (p : Plan) : List Nat :=
  let ks := List.range (Desc.size (xA l) 1)
  farBytes (fmtWidth (Plan.fmt p)) (ks.flatMap (s.tokenData t l p))
    ++ farBytes 8 (ks.flatMap fun k => (List.range (Plan.k p)).flatMap fun j => recordOf s t (l.desc (Word.b l.word)) k j)

/-- Every point that a dispatch reads. -/
def State.dispPts (s : State) (t : StrandId) (l : Latch) (p : Plan) : List Pt :=
  let ks := List.range (Desc.size (xA l) 1)
  ks.flatMap (s.tokenData t l p)
    ++ ks.flatMap fun k => (List.range (Plan.k p)).flatMap fun j => recordOf s t (l.desc (Word.b l.word)) k j

/-- XDISP with DIR = 0 runs: counts to every rank, tokens to their homes (R283 steps 1 to 3). -/
def State.dispRun (s : State) (c plan num : Nat) (t : StrandId) (l : Latch) (id : Nat) : State :=
  let p := (s.ctx c).dispPlan plan
  let r := s.readRecords t l p
  let s := r.1.updCtx c fun x =>
    { x with ctrs := { x.ctrs with dispinv := x.ctrs.dispinv + BitVec.ofNat 64 r.2.2.2 } }
  let recs := r.2.1
  let s := s.updDisp c plan num fun y =>
    { y with begun := true, recs := recs, badTokens := r.2.2.1 }
  let me := Plan.myrank p
  let x := s.ctx c
  let s := s.each (List.range (Plan.nrank p)) fun s h =>
    let xs := distinct ((recs.filter fun z => z.home = h).map fun z => z.x)
    let pairs := xs.map fun e => (e, recs.countP fun z => z.home = h && z.x = e)
    match x.rankEp (Plan.drmbase p) h with
    | some ep => s.dcnt c ep p num false me h pairs (some ⟨t, id, 0, 0, 0⟩)
    | none => match x.dispOf (Plan.id p) h with
      | some k => s.takeCounts c k num me pairs (some none)
      | none => s
  let lists := recs.foldl (fun (a : List (Nat × Nat)) z =>
    if a.contains (z.home, z.x) || Plan.nrank p ≤ z.home then a else a ++ [(z.home, z.x)]) []
  s.each lists fun s hx =>
    let toks := (recs.filter fun z => z.home = hx.1 && z.x = hx.2).map fun z => z.t
    let w := fmtWidth (Plan.fmt p)
    let pts := toks.flatMap (s.tokenData t l p)
    let s := s.dispSource t id w pts
    let r := toks.foldl (fun (a : State × List (Byte × Bool)) k =>
      let z := a.1.tokenBytes w (s.tokenData t l p k)
      (z.1, a.2 ++ z.2)) (s, [])
    let s := r.1
    let data := r.2
    match x.rankEp (Plan.drmbase p) hx.1 with
    | none => match x.dispOf (Plan.id p) hx.1 with
      | some k => s.updDisp c k num fun y => { y with waiting := y.waiting ++ [⟨me, hx.1, hx.2, 0, data⟩] }
      | none => s
    | some ep =>
      let ps := chunksOf s.fab.fabpay (data.length + 1) data
      s.each (List.range ps.length) fun s k =>
        let d := ps.getD k []
        let dep : Dep := ⟨t, id, 0, 0, d.length⟩
        if !x.granted ep then s.depFail dep 4
        else
          let s := s.updDisp c plan num fun y => { y with sent := y.sent + d.length }
          s.fabSend c ep 2 (k + 1 = ps.length) (BitVec.ofNat 64 (Plan.id p + 2 ^ 32 * num))
            (BitVec.ofNat 64 (k * s.fab.fabpay)) (BitVec.ofNat 32 (me + 2 ^ 16 * hx.1)) (BitVec.ofNat 32 hx.2)
            (d.map Prod.fst) (BitVec.ofNat 128 (maskOf (d.map Prod.snd))) (some dep)

/-- A dispatch begins once the bytes that it reads in the buddy window have come. -/
def State.dispBegin (s : State) (c plan num : Nat) : State :=
  match (s.ctx c).disp plan num with
  | some y =>
    match y.disp with
    | some (t, id) =>
      match s.xfer t id with
      | some xf =>
        let p := (s.ctx c).dispPlan plan
        if !y.begun && !y.ended && s.haveBuddy (s.dispFar t xf.latch p)
            && !(s.anyHeld && (s.dispPts t xf.latch p).any s.ptHeld) then
          s.dispRun c plan num t xf.latch id
        else s
      | none => s
    | none => s
  | none => s

/-! ### Work on an instance -/

/-- Plan entries of this context with identifier `id`. -/
def Ctx.dispsOf (x : Ctx) (id : Nat) : List Nat :=
  (x.cfg.dispPlans.filter fun e => Plan.kind e.2 != 0 && Plan.id e.2 = id).map Prod.fst

/-- One round of work on an instance at every rank of this device. -/
def State.dispWork (s : State) (c id num : Nat) : State :=
  let ks := (s.ctx c).dispsOf id
  let s := s.each ks fun s k => s.dispBegin c k num
  let s := s.each ks fun s k => s.place c k num
  let s := s.each ks fun s k => s.takeWaiting c k num
  let s := s.each ks fun s k => s.dispFinish c k num
  -- outputs of every rank first, then the sums that need them
  let s := s.each ks fun s k => s.combRun c k num
  s.each ks fun s k => s.combRun c k num

/-- Dispatches and combines go on with bytes of the twin that have come. -/
def State.pokeDisps (s : State) : State :=
  s.each (List.range 16) fun s c => s.each (s.ctx c).disps fun s y => s.dispWork c y.dispid.toNat y.num

/-- What a dispatch has not written of an instance that has ended is poisoned with LINK, and its XDISP completes (R277). -/
def State.dispFail (s : State) (t : StrandId) (id : Nat) : State :=
  match s.xfer t id with
  | some x => s.each (List.range x.frags.length) fun s k =>
      let ds := (s.fragDst t x k).filter fun d => !d.done
      let s := s.poisonPts 8 (ds.map DstEl.pt)
      (s.addCause t id k 4 (((ds.head?).map fun d => s.ctxAddr t d.pt).getD 0) true).fragDone t id k
  | none => s

/-- XDISP with DIR = 0 opens the instance it dispatches: the n-th one of a plan is instance n (R282). One that an ABANDON
has ended already ends it too (R285). -/
def State.dispStart (s : State) (t : StrandId) (l : Latch) (id : Nat) : State :=
  let c := t.ctx
  let plan := planOf l.word
  let p := (s.ctx c).dispPlan plan
  let num := SMap.get 0 (s.ctx c).dispCount plan
  let s := s.updCtx c fun x => { x with dispCount := SMap.set 0 x.dispCount plan (num + 1) }
  let s := (s.openDisp c plan num).updDisp c plan num fun y =>
    { y with since := some (y.since.getD s.now), disp := some (t, id), tokens := Desc.size (xA l) 1 }
  if (((s.ctx c).disp plan num).map (·.ended)).getD false then s.dispFail t id
  else (s.askBuddy (s.dispFar t l p)).dispWork c (Plan.id p) num

/-- XDISP with DIR = 1 joins the instance it combines: the n-th combine of a plan is of instance n. -/
def State.combStart (s : State) (t : StrandId) (l : Latch) (id : Nat) : State :=
  let c := t.ctx
  let plan := planOf l.word
  let p := (s.ctx c).dispPlan plan
  let num := (s.ctx c).dispNow plan
  let s := s.openDisp c plan num
  let s := s.updDisp c plan num fun y => { y with since := some (y.since.getD s.now), comb := some (t, id) }
  let s := s.updCtx c fun x => { x with combCount := SMap.set 0 x.combCount plan (num + 1) }
  s.dispWork c (Plan.id p) num

def dirOf (w : Word) : Nat := bits (Word.mod w) 4 1

/-- XDISP_DISPATCH: routes tokens through the directory to their homes (R282, R283). -/
def execXdispDispatch (x : BankedStrand) (s : State) : Out :=
  let t := x.t
  done <| s.withBank x.bank fun s => s.xIssue t 0x63 (fun w => dirOf w = 0) (fun s l => dispFlts s t l) (fun s l => dispFrags s t l)
    fun s l id =>
      if Plan.kind ((s.ctx t.ctx).dispPlan (planOf l.word)) = 0 then s.xNull t l id
      else s.dispStart t l id

/-- XDISP_COMBINE: gathers expert outputs back and writes the gate-weighted sums (R284). -/
def execXdispCombine (x : BankedStrand) (s : State) : Out :=
  let t := x.t
  done <| s.withBank x.bank fun s => s.xIssue t 0x63 (fun w => dirOf w = 1) (fun s l => combFlts s t l) (fun s l => combFrags s t l)
    fun s l id =>
      if Plan.kind ((s.ctx t.ctx).dispPlan (planOf l.word)) = 0 then s.xNull t l id
      else s.combStart t l id

/-! ### Ending early (R277, R285) -/

/-- Ends a dispatch instance: what it has not written is poisoned with LINK and its XDISPs complete. A
combine that comes later finds it ended. -/
def State.dispEnd (s : State) (c : Nat) (y : DispInst) : State :=
  let s := match y.disp with
    | some (t, id) => s.dispFail t id
    | none => s
  let s := s.updDisp c y.plan y.num fun y => { y with ended := true, waiting := [] }
  let s := s.updCtx c fun x => { x with ctrs := { x.ctrs with abandons := x.ctrs.abandons + 1 } }
  s.combRun c y.plan y.num

end Sys2Proof.Machine
end

