-- ==== Sys2Proof/Machine/Sync.lean ====
section
/-! DEFINITION. Events of streams and semaphores (02_strands R31, R36, R41; 08_semaphores R212, R218;
07 R198). -/

namespace Sys2Proof.Machine

/-- WAIT_RELEASE: a wait whose semaphore has reached its target releases (R35, R212). -/
def execWaitRelease (i : StreamId) (s : State) : Out :=
  let x := s.stream i
  done <| match x.phase with
  | .waitSem n t =>
    if (s.ctx i.ctx).state.isReady && x.state = .waiting && released (s.sem i.ctx n) t then
      s.updStream i fun x => { x.leaveWait s.now with state := .running, phase := .released, syncAt := some s.now }
    else s
  | _ => s

/-- Cycles of a wait limit unit (R41). -/
def wlimUnit : Nat := 2 ^ 20

/-- The WAIT_TIMEOUT record's operand and detail for what a stream waits for (Table 2.5). A barrier unit is named by its
number 0 to 63 within the context, as the BAR names it (DESIGN CHOICE, log 142). -/
def waitFlt : Phase → Option Flt
  | .waitSem n t => some ⟨10, 4, n + 2 ^ 32 * t.toNat⟩
  | .waitBar b g => some ⟨10, 8, b + 2 ^ 16 + 2 ^ 32 * g.toNat⟩
  | _ => none

/-- WAIT_TIMEOUT: a stream that has stayed in Waiting for the context's wait limit faults (R41). -/
def execWaitTimeout (i : StreamId) (s : State) : Out :=
  let x := s.stream i
  let lim := (s.ctx i.ctx).cfg.set.wlim.toNat
  let met := match x.phase with
    | .waitSem n t => released (s.sem i.ctx n) t
    | _ => false
  done <| match waitFlt x.phase with
  | some f =>
    if (s.ctx i.ctx).state.isReady && x.state = .waiting && lim != 0 && !met
        && lim * wlimUnit ≤ s.now - x.waitSince then
      s.faultAt i x.word false f
    else s
  | none => s

/-- LOCAL_SIGNAL: an instruction whose effects are complete makes its signal, and its stream goes on to
the next instruction, or stops there if a strand stop waited for it (R30, R36). -/
def execLocalSignal (i : StreamId) (s : State) : Out :=
  let x := s.stream i
  done <|
    if x.phase = .complete && !(s.ctx i.ctx).held.contains i then
      let s := s.signalOf i x.latch.word
      if x.state = .done then s.updStream i fun x => { x with phase := .boundary }
      else if x.state = .faulted then s.updStream i fun x => { x with phase := .boundary }
      else
        let s := s.updStream i fun x =>
          let x := x.pass x.pc
          if x.stopReq then { x with state := .stopped, stopReq := false } else x
        s.reach i
    else s

/-- SEMAPHORE_DEFERRED_INCREMENT: deferred increments are applied in a later cycle, ahead of new ones
and at most four in a cycle; those that wait on are deferred again (R218). -/
def execSemaphoreDeferredIncrement (pc : Nat) (s : State) : Out :=
  done <| s.updCore pc fun k => k.applyDeferred s.now

/-- The instruction word that stands at `pc` of a stream's code segment. -/
def State.codeWord (s : State) (p : Spot) : Word :=
  BitVec.ofNat 128 (leNat (Memory.readN (s.memAt p.place) p.off 16))

/-- Fetches up to `n` words from `pc` on: the words, and whether it met a poisoned granule (R31). -/
def State.fetchFrom (s : State) (i : StreamId) : Nat → Nat → List (U32 × Word) × Bool
  | 0, _ => ([], false)
  | n + 1, pc =>
    if (s.stream i).codeLen.toNat ≤ pc then ([], false)
    else match s.codeSpot i pc with
      | none => ([], false)
      | some p =>
        if s.bad p.place p.off then ([], true)
        else
          let r := s.fetchFrom i n (pc + 1)
          ((BitVec.ofNat 32 pc, s.codeWord p) :: r.1, r.2)

/-- A control error stops a context with no fault record; the event is recorded for one that has stopped already too
(R327). -/
def State.controlError (s : State) (c : Nat) (e : Ev) : State :=
  if s.exists_ c then
    (if (s.ctx c).state.isReady then s.beginStop c true else s).raise { e with event := 9, ctx := c }
  else s

/-- INSTRUCTION_FETCH: fills a stream's issue queue. A poisoned granule that the stream has reached holds
it, raises a memory event and stops the context as a control error (R31, R327, Table 7.8). Behind an interface in
reset it waits (R421). -/
def execInstructionFetch (i : StreamId) (s : State) : Out :=
  let x := s.stream i
  done <|
    if (s.ctx i.ctx).state.isReady && (x.state = .running || x.state = .waiting) then
      let next := match x.queue.getLast? with
        | some (pc, _) => pc.toNat + 1
        | none => x.pc.toNat
      let n := 32 - x.queue.length
      let spots := (List.range n).filterMap fun k =>
        if next + k < x.codeLen.toNat then s.codeSpot i (next + k) else none
      if spots.any fun p => s.heldAt p.place p.off || s.isolatedAt p.place p.off then s else
      let s := s.readFinds .hbm (spots.flatMap fun p => [p.off, p.off + 8])
      let r := s.fetchFrom i n next
      let s := s.updStream i fun x => { x with queue := x.queue ++ r.1 }
      if r.2 && next = x.pc.toNat && r.1.isEmpty then
        let s := s.updStream i fun x => { x with held := true }
        let o := ((s.codeSpot i next).map Spot.off).getD 0
        let s := s.raise (s.memEv 6 .hbm o)
        s.controlError i.ctx (s.evCore ((s.pcore i.ctx i.vc).getD 0)
          { event := 9, strand := i.st, stream := i.eng.num })
      else s.reach i
    else s

/-- LIBRARY_RELOAD: the library is loaded again into a core's routine memory, and held routines may start
(R198). -/
def execLibraryReload (pc : Nat) (s : State) : Out :=
  done <|
    if (s.core pc).routineErr then
      s.updCore pc fun k =>
        let free (x : Stream) : Stream := { x with held := false }
        allStrands.foldl (fun k t => k.updStrand t fun x =>
          { x with m := free x.m, v := free x.v, x := free x.x }) { k with routineErr := false }
    else s

end Sys2Proof.Machine
end

