-- ==== Sys2Proof/Machine/FabricIn.lean ====
section
/-! DEFINITION. Fabric frames received: the checks of R266, acknowledgements, contributions and results,
dispatch messages, remote signals, and the timers that need them (10_fabric R266 to R268, R274 to R285;
08_semaphores R217, R232). -/

namespace Sys2Proof

open Sys2Proof.Machine

/-! ### Fields of collective and dispatch messages (Table 10.4) -/

def FabFrame.collid (f : FabFrame) : Nat := bits f.w0.toNat 0 32
def FabFrame.inst (f : FabFrame) : Nat := bits f.w0.toNat 32 32
def FabFrame.srcRank (f : FabFrame) : Nat := bits f.w2.toNat 0 16
def FabFrame.dstRank (f : FabFrame) : Nat := bits f.w2.toNat 16 16

/-- Elements of a COLL frame: element, bits and poison; none beyond the end of the vector. Of 4-bit elements a payload of
one byte holds one (DESIGN CHOICE, log 135). -/
def FabFrame.elems (f : FabFrame) (p : Plan) : List CollVal :=
  let fmt := bits f.w3.toNat 8 4
  let w := fmtWidth fmt
  let first := bits f.w1.toNat 0 48
  let v := unpackElems w f.payload
  -- a payload of one byte of 4-bit elements holds one of them (log 135)
  let l := if w = 4 && f.payload.length = 1 then v.take 1 else v
  (List.range l.length).filterMap fun i =>
    if first + i < Plan.len p then
      some ⟨first + i, FabFrame.srcRank f, l.getD i 0, fmt, f.mask.getLsbD (i * w / 512)⟩
    else none

/-- Pairs of a DCNT payload. -/
def FabFrame.pairs (f : FabFrame) : List (Nat × Nat) :=
  (chunksOf 8 (f.payload.length + 1) f.payload).map fun b => (leNat (b.take 4), leNat (b.drop 4))

/-- Bytes of a payload with the poison of their granules. -/
def FabFrame.data (f : FabFrame) : List (Byte × Bool) :=
  (List.range f.payload.length).map fun i => (f.payload.getD i 0, f.mask.getLsbD (i / 64))

end Sys2Proof

namespace Sys2Proof.Machine

/-! ### Acknowledgements (R267) -/

/-- A frame that a fragment depends on has been acknowledged: the fragment completes once it needs nothing
more (R160, R276, R283, R284). -/
def State.depAcked (s : State) (d : Dep) : State :=
  match s.xfer d.t d.id with
  | none => s
  | some x =>
    let o := Word.opc x.latch.word
    let c := d.t.ctx
    let plan := planOf x.latch.word
    if o = 0x64 then s.fragDone d.t d.id d.frag
    else if o = 0x62 then
      match (s.ctx c).colls.find? fun y => y.plan = plan && y.latches.any fun e => e.1 = d.t && e.2.1 = d.id with
      | none => s
      | some y =>
        let s := s.updColl c plan y.num fun y =>
          { y with contribs := y.contribs.map fun m =>
              if m.t = d.t && m.xfer = d.id && d.lo ≤ m.elem && m.elem < d.lo + d.n then { m with done := true } else m }
        (s.collFinish c plan y.num).collDone c
    else if o = 0x63 then
      match (s.ctx c).disps.find? fun y => y.disp = some (d.t, d.id) || y.comb = some (d.t, d.id) with
      | none => s
      | some y =>
        (s.updDisp c y.plan y.num fun y => { y with acked := y.acked + d.n }).dispWork c
          (Plan.id ((s.ctx c).dispPlan y.plan)) y.num
    else
      -- data to the buddy window: complete with its last frame
      if s.twin.unsent fun _ _ p => p.any fun e => e.t = d.t && e.id = d.id && e.frag = d.frag then s
      else s.fragDone d.t d.id d.frag

/-- A fragment that depends on a frame fails, and collectives it was part of go on. -/
def State.depLost (s : State) (d : Dep) (code : Nat) : State := (s.depFail d code).collDone d.t.ctx

/-- Hokunuon declares an endpoint of a context lost: every open instance of a plan that maps a rank to it ends (R277). It
does so when the connection fails or its twin is lost (DESIGN CHOICE, log 136). -/
def State.endpointLost (s : State) (c ep : Nat) : State :=
  let x := s.ctx c
  let uses (rmbase n : Nat) : Bool := (List.range n).any fun r => x.rankEp rmbase r = some ep
  let s := s.each (x.colls.filter fun y => let p := x.collPlan y.plan; uses (Plan.rmbase p) (Plan.nrank p)) fun s y =>
    match (s.ctx c).colls.find? fun z => z.plan = y.plan && z.num = y.num with
    | some z => s.collEnd c z
    | none => s
  let s := s.each (x.disps.filter fun y => let p := x.dispPlan y.plan; !y.ended && uses (Plan.drmbase p) (Plan.nrank p))
    fun s y => match (s.ctx c).disp y.plan y.num with
      | some z => if z.ended then s else s.dispEnd c z
      | none => s
  s.collDone c

/-- Frames that came within the window when others were acknowledged go out (R267 rule 1); a signal of a context that has
faulted does not (R62 step 3). -/
def State.fabFlush (s : State) (c ep : Nat) (before : List U32) : State :=
  let x := (s.ctx c).conn ep
  s.each ((x.unacked.take fabWindow).filter fun u => !before.contains u.psn && s.mayLeave c u) fun s u =>
    match pickPort (s.portsOf ((s.ctx c).endpoint ep)) u.psn.toNat with
    | none => s
    | some p =>
      let s := s.updConn c ep fun x =>
        { x with unacked := x.unacked.map fun v => if v.psn = u.psn then { v with sentAt := s.now, lastPort := p, left := true } else v }
      s.fabEmit c ep u.frame p

/-- Takes frames away from those unacknowledged, and tells the fragments that depend on them. -/
def State.ackFrames (s : State) (c ep : Nat) (p : Unacked → Bool) (f : State → Dep → State) : State :=
  let x := (s.ctx c).conn ep
  let gone := x.unacked.filter p
  if gone.isEmpty then s
  else
    let before := (x.unacked.take fabWindow).map (·.psn)
    let s := s.updConn c ep fun x => { x with unacked := x.unacked.filter fun u => !p u }
    let s := s.fabFlush c ep before
    s.each gone fun s u => match u.dep with
      | some d => f s d
      | none => s

/-- APSN and SACK of a frame received (Table 10.3). -/
def State.ackIn (s : State) (c ep : Nat) (f : FabFrame) : State :=
  s.ackFrames c ep (fun u => ackedBy f.apsn f.sack u.psn) State.depAcked

/-! ### What a message does at its endpoint -/

/-- The answer to a message. -/
inductive FabRes where
  | ok | busy | planmiss | isolated
deriving DecidableEq, Repr

/-- Where a message came from: its endpoint, and the PSN on a connection; the twin link keeps order. -/
abbrev Origin := Nat × Option U32

/-- A remote signal is dropped: its virtual core is outside the context, or its grant is withdrawn (R217,
R230). -/
def Ctx.dropsSignal (x : Ctx) (sem : Nat) : Bool :=
  x.grid.length ≤ sem / 256 || x.withdrawnCores.contains (sem / 256)

/-- The plan entry that a message is for: its kind by type, its rank by what it carries. -/
def Ctx.planFor (x : Ctx) (f : FabFrame) : Option Nat :=
  if f.typ = 1 then x.collOf f.collid f.dstRank
  else if f.typ = 2 then x.dispOf f.collid f.dstRank
  else if f.typ = 3 then x.dispOf f.collid (if f.w1.getLsbD 0 then f.srcRank else f.dstRank)
  else if f.typ = 4 then x.dispOf f.collid f.srcRank
  else none

/-- How a message will be answered, before it has any effect (R217, R267, R271, R278, R283). -/
def State.fabCheck (s : State) (c : Nat) (f : FabFrame) : FabRes :=
  let x := s.ctx c
  if f.typ = 5 then (if x.dropsSignal (bits f.w0.toNat 0 16) then .isolated else .ok)
  else if f.typ = 1 then
    match x.planFor f with
    | none => .planmiss
    | some k =>
      let p := x.collPlan k
      if Plan.check p != bits f.w3.toNat 0 8 then .planmiss
      else if f.w1.getLsbD 48 then .ok
      else match x.collNum k f.inst with
        | none => .ok
        | some n => if (f.elems p).all fun v => x.collRoom k n v.elem then .ok else .busy
  else if f.typ = 2 then
    match x.planFor f with
    | none => .planmiss
    | some k => match (x.dispNum k f.inst).bind (x.disp k) with
      | some y => if y.placed || y.ended then .ok else .busy
      | none => if (x.dispNum k f.inst).isSome then .busy else .ok
  else if f.typ = 3 || f.typ = 4 then (if (x.planFor f).isSome then .ok else .planmiss)
  else .ok

/-- A contribution reaches the owner (R274). -/
def State.takeContribution (s : State) (c : Nat) (f : FabFrame) : State :=
  match (s.ctx c).planFor f with
  | none => s
  | some k => match (s.ctx c).collNum k f.inst with
    | none => s
    | some n =>
      let s := s.openColl c k n
      let s := s.updColl c k n fun y =>
        let new := (f.elems ((s.ctx c).collPlan k)).filter fun v =>
          !y.formed.contains v.elem && !(y.vals.any fun u => u.elem = v.elem && u.rank = v.rank)
        { y with vals := y.vals ++ new }
      (s.collWork c f.collid n).collDone c

/-- A result reaches a landing rank (R275). -/
def State.takeResult (s : State) (c : Nat) (f : FabFrame) : State :=
  match (s.ctx c).planFor f with
  | none => s
  | some k => match (s.ctx c).collNum k f.inst with
    | none => s
    | some n =>
      let s := s.openColl c k n
      let s := s.updColl c k n fun y =>
        { y with results := y.results ++ (f.elems ((s.ctx c).collPlan k)).filter fun v =>
            !(y.results.any fun u => u.elem = v.elem) }
      (s.collWork c f.collid n).collDone c

/-- An ABANDON ends the instance it names (R277, R285). -/
def State.takeAbandon (s : State) (c : Nat) (f : FabFrame) : State :=
  if f.w1.getLsbD 0 then
    s.each ((s.ctx c).disps.filter fun y => y.dispid.toNat = f.collid && y.num % 2 ^ 32 = f.inst && !y.ended)
      fun s y => s.dispEnd c y
  else
    s.each ((s.ctx c).colls.filter fun y => y.collid.toNat = f.collid && y.num % 2 ^ 32 = f.inst)
      fun s y => s.collEnd c y

/-- A dispatch message reaches the rank it is for (R283, R284). -/
def State.takeDispatch (s : State) (c : Nat) (f : FabFrame) (from_ : Origin) : State :=
  match (s.ctx c).planFor f with
  | none => s
  | some k => match (s.ctx c).dispNum k f.inst with
    | none => s
    | some n =>
      let s := s.openDisp c k n
      let last : Option (Option (Nat × U32)) :=
        if f.flags.getLsbD 2 then some (from_.2.map fun p => (from_.1, p)) else none
      let z : Strip := ⟨f.srcRank, f.dstRank, bits f.w3.toNat 0 12, f.w1.toNat, f.data⟩
      let s :=
        if f.typ = 2 then s.takeTokens c k n z
        else if f.typ = 3 then
          if f.w1.getLsbD 0 then s.takeAccepted c k n f.dstRank f.pairs last
          else s.takeCounts c k n f.srcRank f.pairs last
        else s.updDisp c k n fun y => { y with outs := y.outs ++ [z] }
      s.dispWork c f.collid n

/-- A remote signal at its home: applied, or held while its core's state is copied (R217, R218, R232). -/
def State.takeSignal (s : State) (c ep : Nat) (f : FabFrame) : State :=
  let sem := bits f.w0.toNat 0 16
  let r := bits f.w0.toNat 16 4
  let inc := if r = 0 then 16 else r
  if (s.ctx c).dropsSignal sem then
    s.updCtx c fun x => { x with ctrs := { x.ctrs with rsigdrop := x.ctrs.rsigdrop + 1 } }
  else match s.pcore c (sem / 256) with
    | none => s
    | some p =>
      if s.coreMoves p then
        s.updCtx c fun x =>
          { x with heldIncs := x.heldIncs ++ [(p, { cell := sem % 256, inc := inc, key := remoteKey ep, cycle := s.now })] }
      else s.signal c sem inc (remoteKey ep)

/-! ### A frame arrives (R266 to R268) -/

/-- Endpoint DSTEP of context DSTCTX is granted and names the sender in the sender's epoch (R266). -/
def State.epOk (s : State) (f : FabFrame) : Bool :=
  let c := f.dstctx.toNat
  let x := s.ctx c
  let e := x.endpoint f.dstep.toNat
  c < 16 && s.exists_ c && x.granted f.dstep.toNat && !epTwin e && epDev e = f.srcdev.toNat
    && epCtx e = f.srcctx.toNat && epPeer e = f.srcep.toNat && epEpoch e = f.epoch.toNat

/-- An ACK of status ISOLATED to a frame that no granted endpoint takes; it goes back out of the port the
frame came in by, to the address it came from. -/
def State.isolatedAck (s : State) (f : FabFrame) : State :=
  let p := s.fport f.port
  let ip : IpHdr :=
    { nextHop := p.nexthop, src := p.addr, dst := f.ip.src, hops := 64, df := !isV6 p.addr, dscp := s.fab.dscp, ecn := 2
      sport := BitVec.ofNat 16 (0xC000 + f.dstep.toNat % 16384), dport := s.fab.udp }
  s.emit (.fab
    { ver := 1, typ := 7, flags := 0, status := 3, srcdev := s.fab.fabdev, dstdev := f.srcdev, srcep := f.dstep
      dstep := f.srcep, srcctx := f.dstctx, dstctx := f.srcctx, epoch := f.epoch, psn := 0, apsn := 0, sack := 0
      w0 := 0, w1 := 0, w2 := f.psn, w3 := 0, payload := [], mask := 0, crc := 0, ce := false
      port := f.port, ip := ip : FabFrame }.sealed)

/-- A frame that passes the checks of R260 and R266 up to its endpoint's, or the state those checks leave. An ACK that
names no granted endpoint is answered like any other frame, as R266 has it. -/
def State.fabPre (s : State) (f : FabFrame) (body : State → Nat → Nat → State) : State :=
  if !(s.fport f.port).up then s
  else if f.ip.dport != s.fab.udp then s.updFport f.port fun p => { p with fabother := p.fabother + 1 }
  else if f.dstdev != s.fab.fabdev then s.updFport f.port fun p => { p with fabmisdir := p.fabmisdir + 1 }
  else if !f.crcOk then s.updFport f.port fun p => { p with fabcrc := p.fabcrc + 1 }
  else if f.ver != 1 || f.typ = 0 || 9 ≤ f.typ.toNat then s
  else if f.typ = 7 && !([0, 3, 0x80, 0x81].contains f.status.toNat) then
    s.updFport f.port fun p => { p with fabother := p.fabother + 1 }
  else if !s.epOk f then
    let c := f.dstctx.toNat
    let s := if (f.typ = 5 || f.typ = 6) && c < 16 && s.exists_ c then
      s.updCtx c fun x => { x with ctrs := { x.ctrs with rsigdrop := x.ctrs.rsigdrop + 1 } } else s
    s.isolatedAck f
  else body s f.dstctx.toNat f.dstep.toNat

/-- The acknowledgement a frame is owed goes out after 16 frames, or at once where asked for (R267 rule 3). -/
def State.ackDue (s : State) (c ep : Nat) (f : FabFrame) : State :=
  let x := (s.ctx c).conn ep
  if 16 ≤ x.owed || f.flags.getLsbD 0 then s.fabAckOut c ep 0 f.psn else s

/-- A frame that takes a PSN arrives; `apply` is the effect of its message. A frame that the command does
not name leaves the state unchanged (log 1). -/
def State.fabIn (s : State) (f : FabFrame) (sel : Bool) (apply : State → Nat → Origin → State) : State :=
  if !sel then s
  else s.fabPre f fun s c ep =>
    let s := s.updConn c ep fun x => { x with ceEcho := x.ceEcho || f.ce }
    let s := s.ackIn c ep f
    let x := (s.ctx c).conn ep
    if (f.psn - x.apsn).toNat < fabWindow && !x.got.contains f.psn then
      match s.fabCheck c f with
      | .busy => s.fabAckOut c ep 0x80 f.psn
      | .planmiss => (s.updConn c ep fun x => x.accept f.psn s.now).fabAckOut c ep 0x81 f.psn
      | .isolated =>
        (apply (s.updConn c ep fun x => x.accept f.psn s.now) c (ep, some f.psn)).fabAckOut c ep 3 f.psn
      | .ok => (apply (s.updConn c ep fun x => x.accept f.psn s.now) c (ep, some f.psn)).ackDue c ep f
    else
      -- a duplicate is discarded and acknowledged again as before; a frame beyond the window is discarded
      if x.isNew f.psn || fabWindow ≤ (f.psn - x.apsn).toNat && (f.psn - x.apsn).toNat < 2 ^ 31 then s
      else match s.fabCheck c f with
        | .isolated => s.fabAckOut c ep 3 f.psn
        | .planmiss => s.fabAckOut c ep 0x81 f.psn
        | _ => (s.updConn c ep fun x =>
          { x with owed := x.owed + 1, owedSince := if x.owed = 0 then s.now else x.owedSince }).ackDue c ep f

/-- COLL_CONTRIBUTION: a contribution reaches the owner of its elements (R274, R278). -/
def execCollContribution (x : BankedFab) (s : State) : Out :=
  let f := x.f
  done <| s.withBank x.bank fun s => s.fabIn f (f.typ = 1 && !f.w1.getLsbD 48) fun s c _ => s.takeContribution c f

/-- COLL_RESULT: results reach a rank that lands them (R275, R276). -/
def execCollResult (x : BankedFab) (s : State) : Out :=
  let f := x.f
  done <| s.withBank x.bank fun s => s.fabIn f (f.typ = 1 && f.w1.getLsbD 48) fun s c _ => s.takeResult c f

/-- ABANDON: a peer ends an instance (R277, R285). -/
def execAbandon (f : FabFrame) (s : State) : Out :=
  done <| s.fabIn f (f.typ = 8) fun s c _ => s.takeAbandon c f

/-- DTOK: token bytes reach a home, which places or discards them (R283). -/
def execDtok (x : BankedFab) (s : State) : Out :=
  let f := x.f
  done <| s.withBank x.bank fun s => s.fabIn f (f.typ = 2) fun s c o => s.takeDispatch c f o

/-- DCNT with counts reaches a home (R283 steps 2 and 4). -/
def execDcntCounts (x : BankedFab) (s : State) : Out :=
  let f := x.f
  done <| s.withBank x.bank fun s => s.fabIn f (f.typ = 3 && !f.w1.getLsbD 0) fun s c o => s.takeDispatch c f o

/-- DCNT with accepted counts returns to a source rank (R283 steps 4 and 5). -/
def execDcntAccepted (x : BankedFab) (s : State) : Out :=
  let f := x.f
  done <| s.withBank x.bank fun s => s.fabIn f (f.typ = 3 && f.w1.getLsbD 0) fun s c o => s.takeDispatch c f o

/-- DCMB: expert outputs return to the source rank (R284). -/
def execDcmb (x : BankedFab) (s : State) : Out :=
  let f := x.f
  done <| s.withBank x.bank fun s => s.fabIn f (f.typ = 4) fun s c o => s.takeDispatch c f o

/-- RSIG: a remote signal increments a semaphore at its home, or is dropped (R217). -/
def execRsig (f : FabFrame) (s : State) : Out :=
  done <| s.fabIn f (f.typ = 5) fun s c o => s.takeSignal c o.1 f

/-- FABRIC_ACK: acknowledges PSNs, echoes congestion, and answers one frame with BUSY, PLANMISS or ISOLATED
(R266 to R268). -/
def execFabricAck (f : FabFrame) (s : State) : Out :=
  done <|
    if f.typ != 7 then s
    else s.fabPre f fun s c ep =>
      let s := s.updConn c ep fun x => { x with ceEcho := x.ceEcho || f.ce }
      let s := if f.flags.getLsbD 1 then
          (s.updConn c ep fun x => { x with rate := x.rate * 7 / 8, echoAt := s.now }).updCtx c fun x =>
            { x with ctrs := { x.ctrs with fabce := x.ctrs.fabce + 1 } }
        else s
      let st := f.status.toNat
      -- the frame a status refers to is answered by that status
      let s := if st = 3 || st = 0x81 then
          s.ackFrames c ep (fun u => u.psn = f.w2) fun s d => s.depLost d (if st = 3 then 3 else 4)
        else s
      let s := s.ackIn c ep f
      if st = 0x80 then
        s.updConn c ep fun x =>
          { x with unacked := x.unacked.map fun u => if u.psn = f.w2 then { u with busy := true, sentAt := s.now } else u }
      else s

/-! ### Timers -/

/-- FABRIC_RETRANSMIT_TIMER: an unacknowledged frame is sent again, or the sender stops after the eighth
retransmission (R267). -/
def execFabricRetransmitTimer (c ep : Nat) (psn : U32) (s : State) : Out :=
  let x := (s.ctx c).conn ep
  done <| match (x.unacked.take fabWindow).find? (·.psn = psn) with
  | none => s
  | some u =>
    if s.now - u.sentAt < u.interval then s
    else if !u.busy && 8 ≤ u.retx then ((s.connFail c ep).collDone c).endpointLost c ep
    else if !s.mayLeave c u then s
    else
      let p := nextPort (s.portsOf ((s.ctx c).endpoint ep)) u.lastPort
      let u' := { u with retx := if u.busy then u.retx else u.retx + 1, sentAt := s.now
                         lastPort := p.getD u.lastPort, busy := false, left := u.left || p.isSome }
      let s := s.updConn c ep fun x =>
        { x with unacked := x.unacked.map fun v => if v.psn = psn then u' else v }
      match p with
      | some p =>
        let s := if u.left then s.updCtx c fun y => { y with ctrs := { y.ctrs with fabretx := y.ctrs.fabretx + 1 } } else s
        s.fabEmit c ep u.frame p
      | none => s

/-- COLL_INSTANCE_TIMEOUT: the wait limit has passed since an instance's first local XCOLL or XDISP (R277,
R285). -/
def execCollInstanceTimeout (c : Nat) (dispatch : Bool) (id : U32) (inst : Nat) (s : State) : Out :=
  let x := s.ctx c
  let lim := x.cfg.set.wlim.toNat * wlimUnit
  let late (since : Option Nat) : Bool := match since with
    | some t => lim != 0 && lim ≤ s.now - t
    | none => false
  done <|
    if dispatch then
      s.each (x.disps.filter fun y => y.dispid = id && y.num = inst && !y.ended && late y.since) fun s y => s.dispEnd c y
    else
      s.each (x.colls.filter fun y => y.collid = id && y.num = inst && late y.since) fun s y => s.collEnd c y

/-! ### A context comes to rest (R62, R277) -/

/-- ABANDON of one instance to every rank endpoint of its plan. -/
def State.sendAbandon (s : State) (c : Nat) (p : Plan) (rmbase num : Nat) (dispatch : Bool) : State :=
  let x := s.ctx c
  let eps := distinct ((List.range (Plan.nrank p)).filterMap fun r => x.rankEp rmbase r)
  s.each (eps.filter x.granted) fun s ep =>
    s.fabSend c ep 8 true (BitVec.ofNat 64 (Plan.id p + 2 ^ 32 * (num % 2 ^ 32))) (if dispatch then 1 else 0) 0 0 [] 0 none

/-- Every open instance of a context ends, with an ABANDON to its peers (R277, R285). -/
def State.abandonAll (s : State) (c : Nat) : State :=
  let x := s.ctx c
  let s := s.each x.colls fun s y => s.sendAbandon c (x.collPlan y.plan) (Plan.rmbase (x.collPlan y.plan)) y.num false
  let s := s.each (x.disps.filter fun y => !y.ended) fun s y =>
    s.sendAbandon c (x.dispPlan y.plan) (Plan.drmbase (x.dispPlan y.plan)) y.num true
  let s := s.each x.colls fun s y => s.collEnd c y
  let s := s.each (x.disps.filter fun y => !y.ended) fun s y => s.dispEnd c y
  s.updCtx c fun x => { x with colls := [], disps := [] }

/-- An instruction of the context is still running (R62 step 5). -/
def State.ctxBusy (s : State) (c : Nat) : Bool :=
  (s.streamsOf c).any (fun i => (s.stream i).phase = .executing)
    || (s.strandsOf c).any fun t =>
      let x := s.strand t
      !x.x.xfers.isEmpty || x.mrun.isSome || !x.closing.isEmpty

/-! ### Consumed poison (R342) -/

/-- Fields of a manifest. -/
def manStep (m : List Byte) : Nat := fld m 0x10 8
def manCtx (m : List Byte) : Nat := fld m 0x18 2
def manFlags (m : List Byte) : Nat := fld m 6 2
def manVcores (m : List Byte) : Nat := fld m 0x1A 2
def manShards (m : List Byte) : Nat := fld m 0x1C 4
def manKey (m : List Byte) : List Byte := slice m 0x30 48
def manLen (m : List Byte) : Nat := 0x1B0 + 64 * manShards m + 96
def manCsig (m : List Byte) : Nat := fld m 0x90 16
def manEntry (m : List Byte) (i : Nat) : List Byte := slice m (0x1B0 + 64 * i) 64

/-! ### Slots (R307) -/

def Slot.valid (x : Slot) : Bool :=
  x.commit.getLsbD 63 && bits x.commit.toNat 0 63 = manStep x.manifest % 2 ^ 63 && !x.manifest.isEmpty

/-- Slot B holds the newest valid manifest, or slot A does, or none. -/
def CkptState.newest (k : CkptState) : Option Bool :=
  match k.slotA.valid, k.slotB.valid with
  | false, false => none
  | true, false => some false
  | false, true => some true
  | true, true => some (decide (manStep k.slotA.manifest < manStep k.slotB.manifest))

def CkptState.slot (k : CkptState) (b : Bool) : Slot := if b then k.slotB else k.slotA
/-- The event that a consumed poison comes from, among the context's memory, control-error, checksum and sampler events since
the fence of its newest valid manifest: the latest that names the granule, or else the latest (R342; DESIGN CHOICE, log 156). -/
def State.poisonSource (s : State) (c : Nat) (r : FaultRec) : Option Cper :=
  let k := (s.ctx c).ckpt
  let since := (k.newest.map fun b => manStep (k.slot b).manifest).getD 0
  let l := s.hub.cper.filter fun e => e.ctx.toNat = c && [1, 2, 6, 8, 9].contains e.event.toNat && since ≤ e.step.toNat
  let hit := l.filter fun e => (e.event = 6 || e.event = 8) && fld e.detail 0 8 / 64 = r.detail.toNat / 64
  (if hit.isEmpty then l else hit).getLast?

/-- The CASE that a POISON_CONSUMED fault and its source share: the source's own, or a new one that both get. Where the
source is a fragment of the transfer log, or none is found, the fault's record alone carries it, and no unit is suspected
(R342). -/
def State.poisonCase (s : State) (c : Nat) (r : FaultRec) : State × U64 :=
  let src := s.poisonSource c r
  match src.bind fun e => if e.case = 0 then none else some e.case with
  | some n => (s, n)
  | none =>
    let n : U64 := BitVec.ofNat 64 (s.aon.caseCounter + 1)
    let put (e : Cper) : Cper := if src.any fun z => z.id = e.id then { e with case := n } else e
    ({ s with
      hub := { s.hub with cper := s.hub.cper.map put }
      aon := { s.aon with caseCounter := s.aon.caseCounter + 1, faultLog := s.aon.faultLog.map put } }, n)

/-- A quiescent context is marked Faulted; Hokunuon has the context-fault event, with the primary record,
which of a consumed poison carries the CASE of its source, and peers have ABANDON (R62 steps 5 and 6, R277, R342). -/
def State.quiesce (s : State) (c : Nat) : State :=
  let x := s.ctx c
  let s := s.updCtx c fun x => { x with state := .faulted }
  let s := s.abandonAll c
  -- the partner of a check couple goes on alone (R319)
  let s := if s.twin.mode = 2 && x.cfg.set.partner.isSome && !x.noCompare then s.hokSend 0x1004 2 (leBytes 1 c) else s
  if x.stopCtl then s
  else match x.records.head? with
    | none => s
    | some r =>
      let w := r.instr
      let q := if r.code = 8 then s.poisonCase c r else (s, 0)
      q.1.raise
        { event := 5, case := q.2, ctx := c, vcore := r.vcore.toNat, pcore := r.pcore.toNat
          die := if r.pcore = 0xFFFF then 0xFF else coreDie r.pcore.toNat
          -- the record concerns the core that raised the fault (R333)
          ustate := if r.pcore = 0xFFFF then 0 else (s.evCore r.pcore.toNat { event := 5 }).ustate
          strand := r.strand.toNat, stream := r.stream.toNat, opc := Word.opc w, record := r.bytes }

/-- CONTEXT_QUIESCENT: every running instruction of a stopped context has completed (R62). -/
def execContextQuiescent (c : Nat) (s : State) : Out :=
  done <| if (s.ctx c).state.isStopping && !s.ctxBusy c then s.quiesce c else s

/-- 1 ms in arithmetic-clock cycles. -/
def msCycles : Nat := 940000

/-- QUIESCE_CUTOFF: 1 ms after the fault what still runs is cut off: destinations are poisoned, fragments
return ISOLATED (R62 step 5). -/
def execQuiesceCutoff (c : Nat) (s : State) : Out :=
  done <| match (s.ctx c).state with
  | .stopping t =>
    if s.now - t < msCycles then s
    else
      let s := s.each (s.strandsOf c) fun s t =>
        let x := s.strand t
        let ls := (x.mrun.map fun r => r.latch).toList ++ x.closing.map (·.latch)
        let s := match s.pcore t.ctx t.vc with
          | some p => s.poisonAll (ls.flatMap fun l => ((foldOf l).granules l).map fun g => (Place.scratch p, g))
          | none => s
        let s := s.updStrand t fun x => { x with mrun := none, closing := [], openGroup := none }
        s.each x.x.xfers fun s y =>
          s.each (List.range y.frags.length) fun s k => s.fragFail t y.id k 3
      let s := s.each (s.streamsOf c) fun s i => s.updStream i fun x =>
        if x.phase = .executing then { x with phase := .boundary } else x
      s.quiesce c
  | _ => s

end Sys2Proof.Machine
end

