-- ==== Sys2Proof/Machine/Seals.lean ====
section
/-! DEFINITION. Seals, glaze records and their comparison in Check mode; the step number
(09_reproducibility R246 to R253; 04_numerics R123). -/

namespace Sys2Proof.Machine

/-! ### Glaze records (R248, Table 9.6) -/

/-- Bits of the last word of a record: TAG, LAYER, tensor flags and POISON. -/
def GlazeRec.word (r : GlazeRec) : Nat :=
  r.tag + r.layer * 2 ^ 12 + r.flags.toNat * 2 ^ 25 + (if r.poison then 2 ^ 29 else 0)

def GlazeRec.bytes (r : GlazeRec) : List Byte :=
  leBytes 8 r.step.toNat ++ leBytes 8 r.glaze.toNat ++ leBytes 6 r.writes ++ leBytes 2 r.sealNo
    ++ leBytes 4 r.tid.toNat ++ leBytes 4 r.word

/-- The order of the records of one seal: LAYER, tid, TAG, CHK. -/
def GlazeRec.key (r : GlazeRec) : Nat :=
  ((r.layer * 2 ^ 32 + r.tid.toNat) * 2 ^ 12 + r.tag) * 2 + (if r.chk then 1 else 0)

def insertGlaze (r : GlazeRec) : List GlazeRec → List GlazeRec
  | [] => [r]
  | x :: l => if r.key < x.key then r :: x :: l else x :: insertGlaze r l

/-- Adds a contributor's partial sum to the record of its combination (R245, R248). -/
def addGlaze (flags : Nat → BitVec 4) (no : Nat) (p : Partial) (l : List GlazeRec) : List GlazeRec :=
  if l.any fun r => r.tag = p.tag && r.tid = p.tid && r.layer = p.layer && r.chk = p.chk then
    l.map fun r =>
      if r.tag = p.tag && r.tid = p.tid && r.layer = p.layer && r.chk = p.chk then
        { r with
          glaze := r.glaze + p.sum, writes := r.writes + p.writes, poison := r.poison || p.poison
          writers := r.writers ||| p.writers }
      else r
  else
    insertGlaze
      { step := p.step, glaze := p.sum, writes := p.writes, sealNo := no, tid := p.tid, tag := p.tag
        layer := p.layer, flags := flags p.tag, poison := p.poison, chk := p.chk, writers := p.writers } l

/-- The glaze log of 65,536 records (R249). -/
def Ctx.logGlaze (x : Ctx) (r : GlazeRec) : Ctx :=
  if 65536 ≤ x.glog.length then
    { x with glog := x.glog.drop 1 ++ [r], ctrs := { x.ctrs with glzdrop := x.ctrs.glzdrop + 1 } }
  else { x with glog := x.glog ++ [r] }

/-! ### Check mode (R251) -/

/-- A context whose seals are compared: a couple in Check mode. -/
def State.compares (s : State) (c : Nat) : Bool :=
  s.twin.mode = 2 && (s.ctx c).cfg.set.partner.isSome && !(s.ctx c).noCompare

/-- SEAL frames of one closed seal: its count of records with CHK = 1 and those records (R290). -/
def State.sendSeal (s : State) (c no : Nat) (recs : List GlazeRec) : State :=
  let n := recs.length
  let tail := chunksOf 128 (n + 1) (recs.drop 127)
  let segs := (leBytes 4 n ++ (recs.take 127).flatMap GlazeRec.bytes) :: tail.map fun l => l.flatMap GlazeRec.bytes
  s.each (List.range segs.length) fun s k =>
    s.twinSend 0x04
      (BitVec.ofNat 64 (c + 2 ^ 16 * no + 2 ^ 32 * k + (if k + 1 = segs.length then 2 ^ 48 else 0)))
      (segs.getD k []) 0 none

/-- The first 32-byte records in which two seals differ. -/
def firstDiff : Nat → List Byte → List Byte → List Byte
  | 0, _, _ => []
  | n + 1, a, b =>
    if a.isEmpty && b.isEmpty then []
    else if a.take 32 = b.take 32 then firstDiff n (a.drop 32) (b.drop 32)
    else slice a 0 32 ++ slice b 0 32

/-- Hub engines to which a disagreement of two seals is confined: every record of this device that the twin's seal lacks is
of landings of theirs alone (false collective, true dispatch; Table 12.2). A record that only the twin has is of this device's
tensors too, and is told by its own. -/
def Ctx.engineOnly (x : Ctx) (step : U64) (no : Nat) (mine theirs : List Byte) : List Bool :=
  let split (l : List Byte) : List (List Byte) := chunksOf 32 (l.length + 1) l
  let bad := (split mine).filter fun r => !(split theirs).contains r
  let ws := bad.map fun b => ((x.glog.find? fun r => r.step = step && r.sealNo = no && r.bytes = b).map (·.writers)).getD 1
  if bad.isEmpty || mine.length != theirs.length || ws.any fun w => w.getLsbD 0 then []
  else (if ws.any fun w => w.getLsbD 1 then [false] else []) ++ (if ws.any fun w => w.getLsbD 2 then [true] else [])

/-- A seal disagrees: the context stops with no fault record, no later seal of it is compared, and
arbitration begins (R251, R255, R256). The context of the TWINSIDE = 0 twin is the producer (DESIGN CHOICE, log 154). -/
def State.sealDisagrees (s : State) (c : Nat) (step : U64) (no : Nat) (mine theirs : List Byte) : State :=
  let case := s.aon.caseCounter + 1
  let x := s.ctx c
  let s := if (s.ctx c).state.isReady then s.beginStop c true else s
  let s := s.updCtx c fun x => { x with
    noCompare := true
    ckpt := { x.ckpt with copying := x.ckpt.copying.map fun k =>
      { k with uncompared := k.uncompared || decide (k.capt.step = step + 1) } } }
  let a : Arb :=
    { case := case, checker := 1, ctx := c, producer := 0xFFFF, checkerCore := 0xFFFF, third := none
      t := ⟨c, 0xFFFF, 0xFF⟩, gid := 0, granules := [], sealNo := no, step := step, verdict := none
      captured := [], emulator := none, produces := !s.aon.twinside, cores := x.grid
      engines := x.engineOnly step no (mine.drop 4) (theirs.drop 4)
      outs :=
        let own := (x.glog.filter fun r => r.step = step && r.sealNo = no).flatMap GlazeRec.bytes
        if s.aon.twinside then [theirs.drop 4, own] else [own, theirs.drop 4] }
  let s := { s with
    aon := { s.aon with caseCounter := case }
    hub := { s.hub with arbs := s.hub.arbs ++ [a] } }
  s.raise { event := 3, ctx := c, case := BitVec.ofNat 64 case
            detail := let p := if s.aon.twinside then (theirs, mine) else (mine, theirs)
                      firstDiff (mine.length + theirs.length + 1) (p.1.drop 4) (p.2.drop 4) }

/-- Compares what both twins have of a seal, in the order each sent the seals of one number. -/
def State.compareSeals (s : State) (c no : Nat) : State :=
  let x := s.ctx c
  match x.sealsMine.find? fun e => e.2.1 = no, x.sealsPeer.find? fun e => e.1 = no with
  | some m, some p =>
    let s := s.updCtx c fun x => { x with sealsMine := x.sealsMine.erase m, sealsPeer := x.sealsPeer.erase p }
    if !s.compares c then s
    else if m.2.2 = p.2 then
      s.updCtx c fun x => { x with sealAgreed := x.sealAgreed ++ [(m.1, no)] }
    else s.sealDisagrees c m.1 no m.2.2 p.2
  | _, _ => s

/-! ### Closing seals (R246) -/

/-- Closes a seal over the partial sums chosen: its records are written and, for a couple, sent. -/
def State.closeSeal (s : State) (c : Nat) (step : U64) (no : Nat) (flags : Nat → BitVec 4)
    (sel : Partial → Bool) : State :=
  if !(s.ctx c).state.isReady then s
  else
    let ps := (s.ctx c).partials.filter sel
    let recs := ps.foldl (fun l p => addGlaze flags no p l) []
    let s := s.updCtx c fun x =>
      let x := recs.foldl Ctx.logGlaze { x with partials := x.partials.filter fun p => !sel p }
      x.updStep step fun d => { d with glog := d.glog ++ recs.flatMap GlazeRec.bytes }
    if s.compares c then
      let chk := recs.filter (·.chk)
      let s := s.sendSeal c no chk
      (s.updCtx c fun x =>
        { x with sealsMine := x.sealsMine ++ [(step, no, leBytes 4 chk.length ++ chk.flatMap GlazeRec.bytes)] }).compareSeals
          c no
    else s

/-- Generation of the seal barrier releases: the seal of its number within its step closes over the streams
that entered it (R246 steps 3, 5, 6). -/
def State.sealRelease (s : State) (c : Nat) (entered : List StreamId) : State :=
  let x := s.ctx c
  let step := x.sealStep.getD x.step
  let n := match x.sealPrev with
    | some (p, k) => if p = step then k + 1 else 0
    | none => 0
  let s := s.updCtx c fun x =>
    { x with sealPrev := some (step, n), sealStep := x.sealStepNext, sealStepNext := none }
  if 65534 < n then s
  else s.closeSeal c step n (fun _ => 0) fun p =>
    p.step = step && p.sealIdx = n && entered.any fun i => i.eng = .x && i.vc = p.vc && i.st = p.st

/-- A BAR waits for a generation that its unit has not released: releaseBar has opened the next one before it closes
seals. -/
def Ctx.barPends (x : Ctx) : Phase → Bool
  | .waitBar b g => let u := SMap.get ({} : BarUnit) x.units b; g = u.gen || g = u.gen + 1
  | _ => false

/-- An instruction that issued under `step` has not completed; a BAR completes as its generation releases (R246
rule 4). -/
def State.stepBusy (s : State) (c : Nat) (step : U64) : Bool :=
  (s.strandsOf c).any fun t =>
    let x := s.strand t
    (x.x.xfers.any fun y => y.latch.step = step)
      || (x.mrun.any fun r => r.latch.step = step) || (x.closing.any fun g => g.latch.step = step)
      || [x.m, x.v, x.x].any fun y => y.latch.step = step &&
          (((y.phase = .executing || y.phase = .complete) && y.state != .waiting) || (s.ctx c).barPends y.phase)

/-- Closes the final seal of a step beyond which the step number has moved, once its instructions are complete
(R246 step 4). -/
def State.finalSeal (s : State) (c : Nat) (step : U64) : State :=
  let x := s.ctx c
  if x.openSteps.contains step && step.toNat < x.step.toNat && !s.stepBusy c step then
    let fl : SMap (BitVec 4) := ((x.pastFlags.find? fun e => e.1 = step).map Prod.snd).getD []
    let s := s.closeSeal c step 0xFFFF (fun tag => SMap.get 0 fl tag) fun p => p.step = step
    s.updCtx c fun x =>
      { x with openSteps := x.openSteps.filter (· != step), pastFlags := x.pastFlags.filter fun e => e.1 != step }
  else s

/-- FINAL_SEAL_CLOSE: the final seal of a step (R246). -/
def execFinalSealClose (c : Nat) (step : U64) (s : State) : Out := done (s.finalSeal c step)

/-- Sets a context's step number: the flags of the old step are kept for its final seal, streams count seal
entries anew, and final seals that can close do (R112, R123, R246). -/
def State.setStep (s : State) (c : Nat) (step : U64) : State :=
  let x := s.ctx c
  if x.step = step then s
  else
    let s := s.updCtx c fun x =>
      { x with
        step := step, flags := []
        pastFlags := x.pastFlags ++ [(x.step, x.flags)]
        openSteps := if x.openSteps.contains x.step then x.openSteps else x.openSteps ++ [x.step] }
    let s := s.each (s.streamsOf c) fun s i => s.updStream i fun y => { y with sealN := 0 }
    s.each (s.ctx c).openSteps fun s k => s.finalSeal c k

end Sys2Proof.Machine
end

