-- ==== Sys2Proof/Machine/Snapshot.lean ====
section
/-! DEFINITION. What a checkpoint holds: the fence, shards, the replay record, manifests and slots
(11_twin_pairs R297 to R308; 09 R252, R253). -/

namespace Sys2Proof.Machine

/-! ### The snapshot area (R297) -/

/-- Bytes of the configuration shard's plain image, in the order of R305. -/
def State.cfgImage (s : State) (c : Nat) : List Byte :=
  let x := s.ctx c
  let g := x.cfg
  let opt (o : Option Nat) : List Byte := leBytes 1 (o.getD 0xFF)
  let t := g.set
  let tensor (k : Nat) : List Byte :=
    let e : TensorEnt := SMap.get {} g.ttab k
    leBytes 8 e.key.toNat ++ leBytes 4 e.tid.toNat ++ leBytes 4 e.ctl.toNat
  let dir (d : SMap U64) : List Byte := (List.range x.dirSize).flatMap fun k =>
    leBytes 8 (SMap.get 0 d (x.stageHub * 1048576 + x.dirBase + k)).toNat
  g.tableImage ++ (List.range 4096).flatMap tensor ++ leBytes 8 t.seed.toNat
    ++ (List.range 16).map (fun k => BitVec.ofNat 8 (SMap.get 0 g.margin k)) ++ leBytes 16 g.csig
    ++ (List.range 64).flatMap (fun k => leBytes 16 (SMap.get 0 g.bars k).toNat)
    ++ (List.range 4096).flatMap (fun k => leBytes 64 (SMap.get 0 g.collPlans k).toNat)
    ++ (List.range 4096).flatMap (fun k => leBytes 64 (SMap.get 0 g.dispPlans k).toNat)
    ++ (List.range 8192).flatMap (fun k => leBytes 32 (SMap.get 0 g.endpoints k).toNat)
    ++ (List.range 65536).flatMap (fun k => leBytes 2 (SMap.get 0xFFFF g.rankmap k).toNat)
    ++ dir s.mem.dir0 ++ dir s.mem.dir1 ++ [if g.active1 then 1 else 0]
    ++ g.loadList ++ leBytes 8 g.loadBase.toNat ++ g.images
    ++ leBytes 1 t.prio ++ opt t.snapbar ++ leBytes 1 t.target ++ leBytes 1 t.localu ++ leBytes 1 t.gens
    ++ leBytes 2 t.ckperiod ++ [if t.autorestore then 1 else 0, if t.adopt then 1 else 0]
    ++ leBytes 1 t.bscratch ++ t.signers.flatten

/-- The configuration shard (R305; log 12). -/
def State.cfgShard (s : State) (c : Nat) : List Byte := Config.cfgShardBytes (s.cfgImage c)

/-- A stream's record (R304). -/
def StreamRec.bytes (r : StreamRec) : List Byte :=
  let st : Nat := match r.state with
    | .idle => 0
    | .running => 1
    | .waiting => 2
    | .done => 3
    | .stopped => 4
    | .faulted => 5
  let lev := r.loops.reverse
  let b := leBytes 4 r.pc.toNat ++ [BitVec.ofNat 8 st, BitVec.ofNat 8 r.loops.length, 0, 0]
    ++ (List.range 16).flatMap (fun k => leBytes 4 (SMap.get 0 r.e k).toNat)
    ++ (List.range 4).flatMap (fun k => leBytes 4 (SMap.get 0 r.lc k).toNat)
    ++ (List.range 4).flatMap fun k =>
        let l := (lev[k]?).getD ⟨0, 0, 0, 0⟩
        leBytes 4 l.bodyStart.toNat ++ leBytes 4 l.bodyEnd.toNat ++ leBytes 4 l.remaining.toNat
          ++ leBytes 4 l.index.toNat
  slice b 0 256

/-- The state shard (R304). -/
def StateShard.bytes (x : StateShard) : List Byte :=
  leBytes 2 x.vcores ++ zeros 62
    ++ (List.range x.vcores).flatMap (fun v =>
      (List.range 256).flatMap (fun k => leBytes 4 (SMap.get 0 x.cells (v * 256 + k)).toNat)
        ++ allStrands.flatMap fun t =>
          (List.range 32).flatMap (fun d => leBytes 32 (SMap.get 0 x.descs ((v * 8 + t) * 32 + d)).toNat)
            ++ [0, 1, 2].flatMap fun e =>
              match x.streams.find? fun z => z.1 = (v * 8 + t) * 3 + e with
              | some z => z.2.bytes
              | none => zeros 256)
    ++ (List.range 64).flatMap fun b => leBytes 4 (SMap.get 0 x.gens b).toNat

/-- The part of a sparse map that lies in units of `2^sh` keys, renumbered in list order. -/
def unitsImage {α : Type} (m : SMap α) (units : List Nat) (sh : Nat) : SMap α :=
  (List.zip (List.range units.length) units).flatMap fun iu =>
    (m.filter fun e => e.1 >>> sh = iu.2).map fun e => (iu.1 * 2 ^ sh + e.1 % 2 ^ sh, e.2)

/-- Pages of 64 KiB of `n` bytes. -/
def pagesOf (n : Nat) : Nat := (n + 65535) / 65536

/-! ### The fence (R299) -/

/-- A stream's captured record: Stopped at the instruction after its BAR, or as it is. -/
def Stream.record (x : Stream) : StreamRec :=
  match x.phase with
  | .waitBar _ _ => let y := x.pass x.pc; ⟨y.pc, .stopped, x.e, x.lc, y.loops⟩
  | .complete => let y := x.pass x.pc; ⟨y.pc, if x.state = .done then .done else .stopped, x.e, x.lc, y.loops⟩
  | _ => ⟨x.pc, x.state, x.e, x.lc, x.loops⟩

/-- The state shard of a context as it stands. -/
def State.stateShard (s : State) (c : Nat) : StateShard :=
  let x := s.ctx c
  let vs := List.range x.grid.length
  { vcores := x.grid.length
    cells := vs.flatMap fun v => match s.pcore c v with
      | some p => (s.core p).cells.map fun e => (v * 256 + e.1, e.2)
      | none => []
    descs := (s.strandsOf c).flatMap fun t => (s.strand t).descs.map fun e => ((t.vc * 8 + t.st) * 32 + e.1, e.2)
    streams := (s.streamsOf c).map fun i => ((i.vc * 8 + i.st) * 3 + i.eng.num, (s.stream i).record)
    gens := (x.units.filter fun e => e.2.gen != 0).map fun e => (e.1, e.2.gen) }

/-- Number of logical ranks of the job: the largest that a loaded plan names (Table 9.7; DEDUCED, log 83). -/
def CtxCfg.ranks (g : CtxCfg) : Nat :=
  (g.collPlans ++ g.dispPlans).foldl (fun n e => max n (bits e.2.toNat 64 16)) 1

/-- A directory phase table over a context's range, by expert (R279). -/
def Ctx.dirImage (x : Ctx) (d : SMap U64) : SMap U64 :=
  let lo := x.stageHub * 1048576 + x.dirBase
  (d.filter fun e => lo ≤ e.1 && e.1 < lo + x.dirSize).map fun e => (e.1 - lo, e.2)

/-- SHA-384 of the plan tables, both directory phase tables and the rank map (Table 9.7 plans). -/
def CtxCfg.plansHash (g : CtxCfg) (size : Nat) (dir0 dir1 : SMap U64) : List Byte :=
  let dir (d : SMap U64) : List Byte := (List.range size).flatMap fun k => leBytes 8 (SMap.get 0 d k).toNat
  sha384 ((List.range 4096).flatMap (fun k => leBytes 64 (SMap.get 0 g.collPlans k).toNat)
    ++ (List.range 4096).flatMap (fun k => leBytes 64 (SMap.get 0 g.dispPlans k).toNat)
    ++ dir dir0 ++ dir dir1
    ++ (List.range 65536).flatMap fun k => leBytes 2 (SMap.get 0xFFFF g.rankmap k).toNat)

/-- SHA-384 of the tensor table, 65,536 bytes. -/
def CtxCfg.ttabHash (g : CtxCfg) : List Byte :=
  sha384 ((List.range 4096).flatMap fun k =>
    let e : TensorEnt := SMap.get {} g.ttab k
    leBytes 8 e.key.toNat ++ leBytes 4 e.tid.toNat ++ leBytes 4 e.ctl.toNat)

/-- The replay record of a context as it stands (Table 9.7). -/
def State.replayRec (s : State) (c : Nat) : List Byte :=
  let x := s.ctx c
  let g := x.cfg
  leBytes 16 nsig ++ leBytes 16 g.csig ++ leBytes 8 x.step.toNat ++ leBytes 8 g.set.seed.toNat ++ g.ttabHash
    ++ slice g.progHash 0 48 ++ leBytes 8 g.lkey.toNat ++ leBytes 2 x.vcores
    ++ leBytes 1 (g.set.sealbar.getD 0xFF) ++ [0] ++ leBytes 4 g.ranks
    ++ g.plansHash x.dirSize (x.dirImage s.mem.dir0) (x.dirImage s.mem.dir1) ++ zeros 96

/-- What the fence captures: it stands for the pages that copy-before-write preserves (R299, R300). -/
def State.capture (s : State) (c : Nat) : Capt :=
  let x := s.ctx c
  let s := s.flushPend fun _ => true
  { step := x.step, fence := s.aon.tbase, cfg := x.cfg, state := s.stateShard c
    hbm := unitsImage s.mem.hbm x.hbmUnits 34, hbmPoison := unitsImage s.mem.hbmPoison x.hbmUnits 28
    ddr := unitsImage s.mem.ddr x.ddrUnits 36, ddrPoison := unitsImage s.mem.ddrPoison x.ddrUnits 30
    hbmBytes := hbmBytes x.hbmUnits, ddrUnits := x.ddrUnits.length
    dir0 := x.dirImage s.mem.dir0, dir1 := x.dirImage s.mem.dir1, dirSize := x.dirSize
    cfgBytes := s.cfgShard c, replay := s.replayRec c }

/-! ### Shards in the area -/

/-- A shard: kind of Table 11.6, index, bytes, and its area offset. -/
structure Shard where
  kind : Nat
  index : Nat
  bytes : Nat
  at_ : Nat
deriving DecidableEq, Repr

/-- Units that a generation takes beyond its DDR5 shards. -/
def Capt.headUnits (k : Capt) : Nat :=
  (k.hbmBytes + 65536 * (pagesOf k.cfgBytes.length + pagesOf k.state.bytes.length) + 2 ^ 20 + (2 ^ 36 - 1)) / 2 ^ 36

/-- Sizes of the HBM shards: 16 GiB each, a last one of 8 GiB for unit 71 (R302). -/
def hbmShards (bytes : Nat) : List Nat :=
  (List.range ((bytes + (2 ^ 34 - 1)) / 2 ^ 34)).map fun i => min (2 ^ 34) (bytes - i * 2 ^ 34)

/-- The shards of a checkpoint in shard-entry order, with their places: after the first 1 MiB of the
generation's units come the HBM, configuration and state shards, and then whole units with the DDR5 shards
(DESIGN CHOICE, log 17: R297 fixes no more). -/
def Capt.shards (k : Capt) (gen : Nat) : List Shard :=
  let head := k.headUnits
  let base := gen * (head + k.ddrUnits) * 2 ^ 36
  let hb := hbmShards k.hbmBytes
  let hs := (List.range hb.length).map fun i =>
    (⟨0, i, hb.getD i 0, base + 2 ^ 20 + (hb.take i).sum⟩ : Shard)
  let ds := (List.range k.ddrUnits).map fun i => (⟨1, i, 2 ^ 36, base + (head + i) * 2 ^ 36⟩ : Shard)
  let c0 := base + 2 ^ 20 + k.hbmBytes
  hs ++ ds ++
    [⟨2, 0, k.cfgBytes.length, c0⟩, ⟨3, 0, k.state.bytes.length, c0 + 65536 * pagesOf k.cfgBytes.length⟩]

/-- Page `pg` of a shard: its 64 KiB, and the granules in it that are poisoned. -/
def Capt.page (k : Capt) (h : Shard) (pg : Nat) : List Byte × List Nat :=
  let o := pg * 65536
  let gs := List.range 1024
  if h.kind = 0 then
    let a := h.index * 2 ^ 34 + o
    (Memory.readN k.hbm a 65536, gs.filter fun g => SMap.get false k.hbmPoison (a / 64 + g))
  else if h.kind = 1 then
    let a := h.index * 2 ^ 36 + o
    (Memory.readN k.ddr a 65536, gs.filter fun g => SMap.get false k.ddrPoison (a / 64 + g))
  else (slice (if h.kind = 2 then k.cfgBytes else k.state.bytes) o 65536, [])

/-- The digest of a shard (R302). -/
def Capt.digest (k : Capt) (h : Shard) : List Byte :=
  sha384 ((List.range (pagesOf h.bytes)).flatMap fun pg => sha384 (k.page h pg).1)

/-! ### The manifest (R303) -/

/-- The public key whose private half is the checkpoint key (R397). -/
def Vault.ckptPub (v : Vault) : List Byte := ecPoint (ecPub v.ckpt.toNat)

/-- The manifest of a capture, signed (Tables 11.5, 11.6). -/
def State.manifest (s : State) (c : Nat) (k : Capt) (hs : List Shard) : List Byte :=
  let couple := s.twin.mode = 2 && k.cfg.set.partner.isSome
  let flags := 1 + (if couple then 2 else 0) + (if k.cfg.set.gens = 2 then 4 else 0)
  let head := leBytes 4 0x4D594C31 ++ leBytes 2 1 ++ leBytes 2 flags ++ leBytes 8 k.cfg.set.job.toNat
    ++ leBytes 8 k.step.toNat ++ leBytes 2 c ++ leBytes 2 k.state.vcores ++ leBytes 4 hs.length
    ++ leBytes 8 k.fence.toNat ++ leBytes 4 s.fab.fabdev.toNat ++ zeros 4 ++ sha384 s.vault.ckptPub ++ zeros 32
    ++ k.replay
  let ents := hs.flatMap fun h =>
    leBytes 1 h.kind ++ [0] ++ leBytes 2 h.index ++ leBytes 4 (pagesOf h.bytes) ++ leBytes 8 h.bytes
      ++ k.digest h
  let b := head ++ ents
  b ++ ecSigBytes s.vault.ckpt.toNat b

def CkptState.setSlot (k : CkptState) (b : Bool) (x : Slot) : CkptState :=
  if b then { k with slotB := x } else { k with slotA := x }

/-! ### Arming and the fence (R299, R308) -/

/-- A context may take a checkpoint: it has a target, and a couple takes its own on the TWINSIDE = 0 twin. -/
def State.mayCheckpoint (s : State) (c : Nat) : Bool :=
  let x := s.ctx c
  x.cfg.set.target != 0 && !(s.twin.mode = 2 && x.cfg.set.partner.isSome && s.aon.twinside)
    && (x.cfg.set.target != 2 || s.twin.mode = 1 || s.twin.mode = 3)

/-- With one generation, the newest checkpoint must have been drained before its data is overwritten. -/
def CkptState.freeToCopy (k : CkptState) (gens : Nat) : Bool :=
  gens = 2 || match k.newest with
    | none => true
    | some b => (k.slot b).drained

/-- The first byte of a context's area in the twin's buddy region, as an offset in it: after its BSCRATCH units (R296; log
16). -/
def State.buddyBase (s : State) (c : Nat) : Nat := ((s.ctx c).areaBase + (s.ctx c).cfg.set.bscratch) * 2 ^ 36

/-- Units of a context's snapshot area: its place in the twin's buddy region, as far as the region reaches, or its LOCAL
units (R296, R297). -/
def State.areaRoom (s : State) (c : Nat) (buddy : Bool) : Nat :=
  let x := s.ctx c
  if buddy then min x.areaLen (s.twin.peerUnits - (x.areaBase + x.cfg.set.bscratch)) else x.localUnits.length

/-- A lend under way in this context, the donor, moves slice `k` (R317). -/
def Ctx.lends (x : Ctx) (k : Nat) : Bool := x.resize.any fun r => r.was.isSome && r.other.isSome && bits r.mask k 1 = 1

/-- Slices that may be granted: enabled, held by no context, neither withheld nor being cleared, nor on their way from a donor
to its receiver (R58, R334, R377). -/
def State.freeSlices (s : State) : List Nat :=
  s.part.slices.filter fun k =>
    !(s.hub.withheld.contains k) && !(s.hub.clearing.any fun e => e.1 = k)
      && !((List.range 16).any fun c => s.exists_ c && ((s.ctx c).slices.contains k || (s.ctx c).lends k))

/-- What the twin has told of its context `n`. -/
def Twin.peer (w : Twin) (n : Nat) : PeerCtx := w.peerMap.getD n ⟨0xFF, false, 0, 0, 8⟩

/-- The contexts of this device as the twin is told of them: partner, order mode, VCORES, seed and PRIO of each, and the
number of free slices (R256, R294; log 12). -/
def State.coupleRecord (s : State) : List Byte :=
  ((List.range 16).flatMap fun c =>
    let x := s.ctx c
    let p : Nat := if !s.exists_ c then 0xFF else x.cfg.set.partner.getD 0xFE
    leBytes 1 p ++ [if x.cfg.set.arrival then 1 else 0] ++ leBytes 2 x.vcores ++ leBytes 8 x.cfg.set.seed.toNat
      ++ leBytes 1 x.cfg.set.prio) ++ leBytes 1 s.freeSlices.length

/-- A paired device tells its twin of its contexts. -/
def State.tellCouples (s : State) : State := if s.twin.paired then s.hokSend 0x1009 2 s.coupleRecord else s

/-- Hokunuon tells the twin's how many contexts have a checkpoint in copy (R294; log 12). -/
def State.tellCopy (s : State) : State :=
  if s.twin.paired then
    s.hokSend 0x100A 2 (leBytes 1 ((List.range 16).filter fun c => (s.ctx c).ckpt.copying.isSome).length)
  else s

/-- Writes bytes of the snapshot area at an area offset: into the LOCAL units, or over the twin link. -/
def State.areaWrite (s : State) (c : Nat) (buddy : Bool) (o : Nat) (l : List Byte) (bad : List Nat) : State :=
  if buddy then
    let base := s.buddyBase c + o
    let ps := chunksOf 4096 (l.length + 1) l
    s.each (List.range ps.length) fun s k =>
      let m := bitSet ((List.range 64).filter fun g => bad.contains (64 * k + g))
      s.twinSend 0x01 (BitVec.ofNat 64 (base + 4096 * k)) (ps.getD k []) (BitVec.ofNat 64 m) none
  else
    let u := (s.ctx c).localUnits
    s.storeSpots ((List.range l.length).filterMap fun i =>
      let a := o + i
      (u[a >>> 36]?).map fun n =>
        (Place.ddr, { addr := n * 2 ^ 36 + a % 2 ^ 36, val := l.getD i 0, bad := bad.contains (i / 64) }))

/-- The generation whose data a new checkpoint overwrites: slot A uses the first, slot B the second. -/
def genOf (gens : Nat) (slotB : Bool) : Nat := if gens = 2 && slotB then 1 else 0

/-- A fence: the state is captured and every page is pending (R299, R300). With one generation, the older
checkpoint is from here in storage only (R308). -/
def State.fence (s : State) (c : Nat) : State :=
  let x := s.ctx c
  let b := match x.ckpt.newest with
    | some b => !b
    | none => false
  let buddy : Bool := x.cfg.set.target = 2
  let k : Copying :=
    { capt := s.capture c, slotB := b, mode := s.twin.mode, buddy := buddy
      uncompared := s.twin.mode = 2 && x.cfg.set.partner.isSome && x.noCompare }
  let s := s.updCtx c fun x => { x with ckpt :=
    { x.ckpt with armed := false, copying := some k, written := [], fenceStep := some x.step } }
  let s := s.tellCopy
  match x.cfg.set.gens, x.ckpt.newest with
  | 1, some n =>
    let s := s.updCtx c fun x => { x with ckpt := x.ckpt.setSlot n { x.ckpt.slot n with location := 1 } }
    s.areaWrite c buddy ((if n then 0x80000 else 0) + 8) (leBytes 8 1) []
  | _, _ => s

/-- Checkpointing at a release of the snapshot barrier, after the step has advanced (R295, R299). -/
def State.snapFence (s : State) (c : Nat) : State :=
  let x := s.ctx c
  let n := x.ckpt.count + 1
  let due := x.cfg.set.ckperiod != 0 && n = x.cfg.set.ckperiod && s.mayCheckpoint c
  let s := s.updCtx c fun x => { x with ckpt :=
    { x.ckpt with count := if n = x.cfg.set.ckperiod then 0 else n, armed := x.ckpt.armed || due } }
  let k := (s.ctx c).ckpt
  if k.armed && k.copying.isNone && k.freeToCopy x.cfg.set.gens && s.mayCheckpoint c then s.fence c else s

end Sys2Proof.Machine
end

