-- ==== Sys2Proof/Machine/Subst.lean ====
section
/-! DEFINITION. A suspect core leaves its context: the choice of a spare, the move, and the hold of the
context (12_silent_errors R334; 02 R60; 08 R232). -/

namespace Sys2Proof.Machine

/-- Local index of a physical core on its die. -/
def coreLocal (p : Nat) : Nat := p % 68

/-- A core that is fused off or was defective (Tables 6.11, 12.4). -/
def Part.absentCore (x : Part) (p : Nat) : Bool :=
  let n := coreDie p
  let q := coreQuad p
  if x.excluded n q = coreLocal p - 17 * q then !x.spareOk n q else !x.slotOn n q

/-- The spare of quadrant `q` of die `n` works, is not in use, and is in service (R334). -/
def State.spareFree (s : State) (n q : Nat) : Bool :=
  s.part.spareOk n q && (s.part.replaced n q).isNone && (s.core (s.part.spareCore n q)).svc = .serving

/-- The quadrant whose spare takes core `p`'s place: its own first, then the lowest (R334). -/
def State.spareQuad (s : State) (p : Nat) : Option Nat :=
  let n := coreDie p
  let own := coreQuad p
  (own :: [0, 1, 2, 3].filter (· != own)).find? fun q => s.spareFree n q && s.part.spareCore n q != p

/-- The local index in whose place core `p` serves. -/
def Part.placeOf (x : Part) (p : Nat) : Nat :=
  let n := coreDie p
  match [0, 1, 2, 3].find? fun q => x.spareCore n q = p with
  | some q => (x.replaced n q).getD (coreLocal p)
  | none => coreLocal p

/-- DIEn_B with the spare of quadrant `q` in the place of local index `loc`, and any other spare's claim to
that place gone (R173). -/
def Part.setSpare (x : Part) (n q loc : Nat) : Part :=
  let w := (x.dieB.getD n 0).toNat
  let byte (r : Nat) : Nat :=
    if r = q then 128 + loc
    else if x.replaced n r = some loc then 0 else bits w (8 * r) 8
  { x with dieB := x.dieB.set n (BitVec.ofNat 32 (byte 0 + 2 ^ 8 * byte 1 + 2 ^ 16 * byte 2 + 2 ^ 24 * byte 3)) }

/-- Core `q` takes core `p`'s place in its slice and in the context that holds it; `copy` carries its state, which finds
the errors held in the one scratchpad and overwrites those in the other (R199, R334, R455). Counters kept for the
context go with the virtual core (R122, R150, R183, R233); wakes and tile-product numbers stay with each physical core.
-/
def State.replaceCore (s : State) (c p q : Nat) (copy : Bool) : State :=
  let n := coreDie p
  let s := { s with part := s.part.setSpare n (coreQuad q) (s.part.placeOf p) }
  let s := if copy then (s.findErrs (.scratch p) fun _ => true).clearErrs (.scratch q) 0 spBytes else s
  let old := s.core p
  let s := if copy then
      s.updCore q fun k =>
        { k with
          sp := old.sp, poison := old.poison, cells := old.cells, deferred := old.deferred
          incCycle := old.incCycle, incs := old.incs, lastM := old.lastM, lastV := old.lastV
          lastX := old.lastX, split := old.split, draining := old.draining, strands := old.strands
          power := old.power, powerAt := old.powerAt }
    else s.updCore q fun k =>
      { k with
        power := old.power, powerAt := old.powerAt
        strands := old.strands.foldl (fun m e => SMap.set {} m e.1 (e.2.moved s.now)) [] }
  let s := s.updCore q fun k => { k with ctrs := { k.ctrs with
    mchkfail := old.ctrs.mchkfail, semdefer := old.ctrs.semdefer, bkwait := old.ctrs.bkwait } }
  let s := s.updCore p fun k =>
    { k with svc := .proofing, strands := [], holds := [], sp := [], poison := [], cells := [], deferred := [], incs := []
             captures := [], proofs := [], voff := 0, foff := 0 }
  s.updCtx c fun x => { x with grid := x.grid.map fun z => if z = p then q else z }

/-- Remote increments held for a core are applied to the core that took its place, in the order of R218 (R232). -/
def State.applyHeld (s : State) (c p q : Nat) : State :=
  let l := (s.ctx c).heldIncs.filter fun e => e.1 = p
  let s := s.updCtx c fun x => { x with heldIncs := x.heldIncs.filter fun e => e.1 != p }
  s.each l fun s e => s.increment q e.2.cell e.2.inc e.2.key

/-- Suspect cores of a context. -/
def State.suspects (s : State) (c : Nat) : List Nat := (s.ctx c).grid.filter fun p => (s.core p).svc = .suspect

/-- Physical slice of a core in service. -/
def Part.sliceOf (x : Part) (p : Nat) : Option Nat := x.slices.find? fun k => (x.sliceCores k).contains p

/-- At a snapshot-barrier release the moves begin: copies to spares, or a shrink by each slice that has none
(R315, R334). A context whose only slice it is keeps it (DESIGN CHOICE, log 145: R57 gives a context at least one). -/
def State.moveSuspects (s : State) (c : Nat) : State :=
  s.each (s.suspects c) fun s p =>
    match s.spareQuad p with
    | some _ =>
      if (s.ctx c).subst.any fun e => e.1 = p then s
      else s.updCtx c fun x => { x with subst := x.subst ++ [(p, s.now)] }
    | none =>
      match s.part.sliceOf p with
      | none => s
      | some k => s.updCtx c fun x =>
        if x.resize.isSome || x.slices.length ≤ 1 then x
        else
          let mask := bitSet (x.slices.filter (· != k))
          { x with resize := some ⟨mask, 0, x.hbmUnits.length, x.ddrUnits.length, none, false, true, none⟩ }

/-- The BARs of the snapshot barrier are kept from completing: a resize is under way, or a copy (R315, R334). -/
def Ctx.holds (x : Ctx) : Bool := x.resize.any (·.held) || !x.subst.isEmpty

/-- Lets held BARs complete once nothing holds them. -/
def State.unhold (s : State) (c : Nat) : State :=
  let x := s.ctx c
  if x.holds then s
  else
    let s := s.updCtx c fun x => { x with held := [] }
    s.each x.held fun s i => s.updStream i fun y =>
      if y.state = .waiting && y.phase = .complete then { y.leaveWait s.now with state := .running } else y

end Sys2Proof.Machine
end

