-- ==== Sys2Proof/Machine/Barriers.lean ====
section
/-! DEFINITION. BAR and the barrier units, across devices too, and what a release brings about
(08_semaphores R220 to R229; 09 R246; 10 R280; 11 R298, R299, R315). -/

namespace Sys2Proof.Machine

/-! ### The barrier table (Table 8.4) -/

def Ctx.bar (x : Ctx) (b : Nat) : Nat := (SMap.get 0 x.cfg.bars b : BitVec 128).toNat
def barCount (e : Nat) : Nat := bits e 0 16
def barTree (e : Nat) : Bool := bits e 16 1 = 1
def barRoot (e : Nat) : Bool := bits e 17 1 = 1
def barNchild (e : Nat) : Nat := bits e 24 8
def barDmargin (e : Nat) : Nat := bits e 32 12
def barParent (e : Nat) : Nat := bits e 64 16
def barPbar (e : Nat) : Nat := bits e 80 6

/-- The checks of R220 and R262 on one entry of a barrier table. -/
def Ctx.barOk (x : Ctx) (e vcores : Nat) : Bool :=
  barCount e ≤ 24 * vcores
    && (if barTree e then
          barDmargin e != 0 && !(barRoot e && barParent e != 0) && (barRoot e || x.granted (barParent e))
        else !barRoot e && barNchild e = 0 && barDmargin e = 0 && barParent e = 0 && barPbar e = 0)

def Ctx.unit (x : Ctx) (b : Nat) : BarUnit := SMap.get {} x.units b
def State.updUnit (s : State) (c b : Nat) (f : BarUnit → BarUnit) : State :=
  s.updCtx c fun x => { x with units := SMap.upd {} x.units b f }

/-! ### Release (R222, R228) -/

/-- The capture of a check couple's running context, for its faulted twin: manifest and shards in BDATA frames from
offset 0, with their poison, and a message that names the context; comparison resumes with the next step (R319; log 21). -/
def State.sendCapture (s : State) (c : Nat) : State :=
  let x := s.ctx c
  let s := s.findErrs .hbm fun a => x.hbmUnits.contains (a >>> 34)
  let s := s.findErrs .ddr fun a => x.ddrUnits.contains (a >>> 36)
  let k := s.capture c
  let hs := k.shards 0
  let m := s.manifest c k hs
  let send (s : State) (o : Nat) (l : List Byte) (bad : List Nat) : State :=
    let ps := chunksOf 4096 (l.length + 1) l
    s.each (List.range ps.length) fun s i =>
      let mask := bitSet ((List.range 64).filter fun g => bad.contains (64 * i + g))
      s.twinSend 0x03 (BitVec.ofNat 64 (o + 4096 * i)) (ps.getD i []) (BitVec.ofNat 64 mask) none
  let s := send s 0 m []
  let pads := hs.map fun h => 65536 * pagesOf h.bytes
  let s := s.each (List.range hs.length) fun s i =>
    match hs[i]? with
    | none => s
    | some h => s.each (List.range (pagesOf h.bytes)) fun s pg =>
        let d := k.page h pg
        send s (65536 * pagesOf m.length + (pads.take i).sum + 65536 * pg) d.1 d.2
  let s := s.hokSend 0x1005 2 (leBytes 1 c)
  s.updCtx c fun x => { x with partnerDown := false, noCompare := false, sealsMine := [], sealsPeer := [] }

/-- A release of the snapshot barrier: the step advances and the ending step's final seal closes, a
checkpoint may be fenced, and holds begin (R246, R298, R299, R315, R334). -/
def State.snapRelease (s : State) (c : Nat) : State :=
  let old := (s.ctx c).step
  let s := s.setStep c (old + 1)
  let s := s.updCtx c fun x => x.updStep old fun d => { d with ended := true }
  let s := s.snapFence c
  let s := if (s.ctx c).partnerDown then s.sendCapture c else s
  let s := s.updCtx c fun x => { x with resize := x.resize.map fun r => { r with held := true } }
  s.moveSuspects c

/-- The release of an open generation: every BAR of it completes, and the unit's next generation opens; the
seal, swap and snapshot barriers have their effects (R222, R246, R280, R298). -/
def State.releaseBar (s : State) (c b : Nat) (late : Bool) : State :=
  let x := s.ctx c
  let u := x.unit b
  let n := barCount (x.bar b)
  let shut : Bool := n != 0 && n ≤ u.next.length
  let u' : BarUnit :=
    { u with
      gen := u.gen + 1, arr := u.next.take (if n = 0 then u.next.length else n)
      next := if n = 0 then [] else u.next.drop n
      closedAt := if shut then some s.now else none, tloc := if shut then s.aon.tbase else 0
      child := u.childNext, childNext := [], sent := false, trel := none
      barrel := u.barrel + 1, barlate := u.barlate + (if late then 1 else 0) }
  let s := s.updUnit c b fun _ => u'
  -- entries of the next generation wait for it under its own number already
  let s := if x.cfg.set.sealbar = some b then s.sealRelease c u.arr else s
  let s := if x.cfg.set.swapbar = some b && x.swapReq then
      s.updCtx c fun x => { x with swapReq := false, cfg := { x.cfg with active1 := !x.cfg.active1 } } else s
  -- the captured streams stand after their BARs
  let s := if x.cfg.set.snapbar = some b then s.snapRelease c else s
  let hold := x.cfg.set.snapbar = some b && (s.ctx c).holds
  let s := s.each u.arr fun s i => s.updStream i fun y =>
    if y.phase = .waitBar b u.gen then
      if hold || y.state = .stopped then { y with phase := .complete }
      else { y.leaveWait s.now with state := .running, phase := .complete, syncAt := some s.now }
    else y
  if hold then s.updCtx c fun x => { x with held := x.held ++ u.arr } else s

/-- BARRIER_RELEASE: 64 cycles after the entry that closed its count, a barrier that does not span devices
releases (R222). -/
def execBarrierRelease (c b : Nat) (s : State) : Out :=
  let x := s.ctx c
  done <|
    if x.state.isReady && b < 64 && !barTree (x.bar b) then
      match (x.unit b).closedAt with
      | some t => if 64 ≤ s.now - t then s.releaseBar c b false else s
      | none => s
    else s

/-! ### Across devices (R227 to R229) -/

/-- A tick: bits [15:0] of the time base are 0 (R226). -/
def nextTick (t : Nat) : Nat := (t + 65535) / 65536 * 65536

/-- Sends RELEASE(g, t_rel) to each child an arrival for `g` came from. -/
def State.sendReleases (s : State) (c : Nat) (u : BarUnit) (trel : U64) : State :=
  s.each u.child fun s a =>
    s.fabSend c a.ep 6 true (BitVec.ofNat 64 (a.bar + 256)) trel u.gen 0 [] 0 none

/-- A release is decided: the unit passes it on and releases at t_rel, or at once when that has passed (R227
steps 4 and 5, R228, R229). -/
def State.treeDecide (s : State) (c b : Nat) (trel : U64) : State :=
  let s := s.sendReleases c ((s.ctx c).unit b) trel
  if trel.toNat ≤ s.aon.tbase.toNat then s.releaseBar c b true
  else s.updUnit c b fun u => { u with trel := some trel, sent := true }

/-- Steps 2 to 4 of R227, once the local count has closed and the children have arrived. -/
def State.treeStep (s : State) (c b : Nat) : State :=
  let x := s.ctx c
  let e := x.bar b
  let u := x.unit b
  if x.state.isReady && barTree e && u.closedAt.isSome && !u.sent && barNchild e ≤ u.child.length then
    let t := u.child.foldl (fun m a => max m a.t.toNat) u.tloc.toNat
    let s := s.updUnit c b fun u => { u with sent := true }
    if barRoot e then s.treeDecide c b (BitVec.ofNat 64 (nextTick (t + barDmargin e * 65536)))
    else
      s.fabSend c (barParent e) 6 true (BitVec.ofNat 64 (barPbar e)) (BitVec.ofNat 64 t) u.gen (BitVec.ofNat 32 b)
        [] 0 none
  else s

/-- A barrier message that fits no step is dropped and counted (R227). -/
def State.barDrop (s : State) (c : Nat) : State :=
  s.updCtx c fun x => { x with ctrs := { x.ctrs with rsigdrop := x.ctrs.rsigdrop + 1 } }

/-- ARRIVE at a unit (R227). One for a unit of a stopped context is kept like any other (DESIGN CHOICE, log 141: R224 speaks
of entries, not of arrivals). -/
def State.takeArrive (s : State) (c ep : Nat) (f : FabFrame) : State :=
  let b := bits f.w0.toNat 0 6
  let x := s.ctx c
  let e := x.bar b
  let u := x.unit b
  let a : ChildArr := ⟨ep, bits f.w3.toNat 0 6, f.w1⟩
  if !barTree e then s.barDrop c
  else if f.w2 = u.gen then
    if barNchild e ≤ u.child.length then s.barDrop c
    else (s.updUnit c b fun u => { u with child := u.child ++ [a] }).treeStep c b
  else if f.w2 = u.gen + 1 then
    if barNchild e ≤ u.childNext.length then s.barDrop c
    else s.updUnit c b fun u => { u with childNext := u.childNext ++ [a] }
  else s.barDrop c

/-- RELEASE at a unit (R227, R229); a context that has stopped releases nothing (R224), and one that fits its unit is not
counted in RSIGDROP there (DESIGN CHOICE, log 141). -/
def State.takeRelease (s : State) (c ep : Nat) (f : FabFrame) : State :=
  let b := bits f.w0.toNat 0 6
  let x := s.ctx c
  let e := x.bar b
  let u := x.unit b
  if !barTree e || barRoot e || f.w2 != u.gen || !u.sent || ep != barParent e || u.trel.isSome then s.barDrop c
  else if !x.state.isReady then s
  else (s.treeDecide c b f.w1).treeStep c b

/-- BARRIER_ARRIVE (R227). -/
def execBarrierArrive (f : FabFrame) (s : State) : Out :=
  done <| s.fabIn f (f.typ = 6 && !f.w0.getLsbD 8) fun s c o => s.takeArrive c o.1 f

/-- BARRIER_RELEASE_MSG (R227, R229). -/
def execBarrierReleaseMsg (f : FabFrame) (s : State) : Out :=
  done <| s.fabIn f (f.typ = 6 && f.w0.getLsbD 8) fun s c o => s.takeRelease c o.1 f

/-- BARRIER_TREE_RELEASE: the first cycle at or after t_rel (R228). -/
def execBarrierTreeRelease (c b : Nat) (s : State) : Out :=
  let x := s.ctx c
  done <| match (x.unit b).trel with
  | some t =>
    if x.state.isReady && b < 64 && t.toNat ≤ s.aon.tbase.toNat then (s.releaseBar c b false).treeStep c b else s
  | none => s

/-! ### BAR (R161, R221, R246) -/

/-- A BAR entry's place in the order of R218, rule 2. -/
def State.entryKey (s : State) (i : StreamId) : Nat := localKey ((s.pcore i.ctx i.vc).getD 0) i.st i.eng.num

/-- A stream enters a barrier: the open generation, or the next one once the count has closed (R221); entries of one cycle
count in the order of R218 (R219). -/
def State.enterBar (s : State) (i : StreamId) (b : Nat) (l : Latch) : State :=
  let x := s.ctx i.ctx
  let u := x.unit b
  let n := barCount (x.bar b)
  let step := x.step
  let isSeal := x.cfg.set.sealbar = some b
  let wait (s : State) (g : U32) : State := s.updStream i fun y =>
    { y with
      state := .waiting, phase := .waitBar b g, latch := l, waitSince := s.now
      sealN := if isSeal then y.sealN + 1 else y.sealN }
  -- an entry of the closing cycle that comes after this one in the order of R218 joins the next generation in its place
  let after (j : StreamId) : Bool := (s.stream j).waitSince = s.now && s.entryKey i < s.entryKey j
  let last := (u.arr.filter after).foldl (fun (m : Option StreamId) j =>
    if m.all fun k => s.entryKey k < s.entryKey j then some j else m) none
  if u.closedAt = some s.now && last.isSome then
    let j := last.getD i
    let s := s.updUnit i.ctx b fun u => { u with arr := u.arr.erase j ++ [i], next := u.next ++ [j] }
    let s := s.updStream j fun y => { y with phase := .waitBar b (u.gen + 1) }
    let s := if isSeal then s.updCtx i.ctx fun x => { x with sealStepNext := some (x.sealStepNext.getD step) } else s
    wait s u.gen
  else if u.closedAt.isSome then
    let s := s.updUnit i.ctx b fun u => { u with next := u.next ++ [i] }
    let s := if isSeal then s.updCtx i.ctx fun x => { x with sealStepNext := some (x.sealStepNext.getD step) } else s
    wait s (u.gen + 1)
  else
    let s := s.updUnit i.ctx b fun u =>
      let a := u.arr ++ [i]
      { u with
        arr := a
        closedAt := if n != 0 && a.length = n then some s.now else none
        tloc := if n != 0 && a.length = n then s.aon.tbase else u.tloc }
    let s := if isSeal then s.updCtx i.ctx fun x => { x with sealStep := some (x.sealStep.getD step) } else s
    (wait s u.gen).treeStep i.ctx b

/-- BAR: enters a barrier unit and waits for its generation's release (R161). -/
def execBar (i : StreamId) (s : State) : Out :=
  done <| s.issueAfter i 0x0B fun s l => s.enterBar i (bits (Word.imm l.word) 0 6) l

/-! ### The time base (R226) -/

/-- The time base after an exchange: within `slack` units of 2^−10 ns of the source's time (log 6). -/
def State.syncTime (s : State) (t : U64) (slack : Nat) : State :=
  let d := (Config.freeWord s.freeCtr).toNat % (2 * slack + 1)
  let s := s.takeFree
  { s with aon := { s.aon with tbase := t + BitVec.ofNat 64 d - BitVec.ofNat 64 slack, tfrac := 0 } }

/-- A grandmaster's announcement: the better data set is selected, by the lower number and then the lower clock identity
(R226, the default best master clock algorithm of IEEE 1588; what its data set holds: PRESUMED, log 148). -/
def Aon.announce (x : Aon) (m : PtpMsg) : Aon :=
  let better : Bool := match x.ptpMaster with
    | none => true
    | some g => m.clock = g.1 || m.rank.toNat < g.2.toNat || (m.rank = g.2 && m.clock.toNat < g.1.toNat)
  if better then { x with ptpMaster := some (m.clock, m.rank) } else x

/-- The time base follows the grandmaster's: within 5.3 ns where every switch is a transparent clock, and otherwise within a
bound that the spec does not give, so that its value is free (R226; log 6). -/
def State.syncPtp (s : State) (m : PtpMsg) (time : U64) : State :=
  if m.transparent then s.syncTime time 5427
  else
    let v := Config.freeWord s.freeCtr
    let s := s.takeFree
    { s with aon := { s.aon with tbase := v, tfrac := 0 } }

/-- PTP_MESSAGE: with PTP as its source, the device selects its grandmaster and keeps its time base with it; `time` is the
grandmaster's time of this cycle, as the exchange of event and general messages, delay requests among them, gives it
(R226; log 148). -/
def execPtpMessage (m : PtpMsg) (time : U64) (s : State) : Out :=
  done <|
    if s.aon.tsource != 1 || s.pwr.dev = .standby then s
    else
      let mine : Bool := s.aon.ptpMaster.any fun g => g.1 = m.clock
      match m.kind with
      | .announce => { s with aon := s.aon.announce m }
      | .sync => if mine then s.syncPtp m time else s
      | .syncTwoStep => if mine then { s with aon := { s.aon with ptpTwoStep := true } } else s
      | .followUp =>
        if mine && s.aon.ptpTwoStep then
          let s : State := { s with aon := { s.aon with ptpTwoStep := false } }
          s.syncPtp m time
        else s
      | .delayReq => s
      | .delayResp => s

end Sys2Proof.Machine
end

