-- ==== Sys2Proof/Machine/Grant.lean ====
section
/-! DEFINITION. What Hokunuon grants to contexts and takes back: slices, units, staging and directory
ranges; the context switch and the reset of one context or core (07_memory_tiers R186 to R196; 08 R230; 11
R316; 15 R421 to R423). -/

namespace Sys2Proof.Machine

/-! ### Slices (R58, R334, R377) -/

/-- Numbers inserted in ascending order. -/
def insertNat (n : Nat) : List Nat → List Nat
  | [] => [n]
  | x :: l => if n ≤ x then n :: x :: l else x :: insertNat n l

def sortNat (l : List Nat) : List Nat := l.foldr insertNat []

/-- Gives a context its list of slices; after any change of them its programs must be loaded again (R24, R57, R58). -/
def State.setSlices (s : State) (c : Nat) (l : List Nat) : State :=
  let l := sortNat l
  let g := s.part.gridOf l
  s.updCtx c fun x =>
    { x with slices := l, grid := g, cfg := { x.cfg with loaded := x.cfg.loaded && x.slices = l } }

/-! ### HBM units (R186, R188) -/

/-- HBM units of all contexts. -/
def State.hbmUsed (s : State) : List Nat :=
  (List.range 16).flatMap fun c => if s.exists_ c then (s.ctx c).hbmUnits else []

/-- Bands 0 to 4 keep their mode while a unit of theirs is granted. -/
def bandFree (used : List Nat) (j : Nat) : Bool := !(used.any fun u => u / 12 = j)

/-- The unit a stack-local partition takes at list position `i`. -/
def takeLocal (used local_ stk : List Nat) (i : Nat) : Option Nat :=
  match stk[i % max 1 stk.length]? with
  | none => none
  | some k => (List.range 5).findSome? fun j =>
      let u := 12 * j + k
      if (local_.contains j || bandFree used j) && !used.contains u then some u else none

/-- Takes `n` stack-local units from list position `i` on; the units, and the bands set stack-local. -/
def takeLocals (stk : List Nat) : Nat → Nat → List Nat → List Nat → Option (List Nat × List Nat)
  | 0, _, _, local_ => some ([], local_)
  | n + 1, i, used, local_ =>
    match takeLocal used local_ stk i with
    | none => none
    | some u =>
      let lb := if local_.contains (u / 12) then local_ else local_ ++ [u / 12]
      (takeLocals stk n (i + 1) (used ++ [u]) lb).map fun r => (u :: r.1, r.2)

/-- The units a partition of `cur` grows by, with the bands that are then stack-local. Interleaved units are
taken in ascending number, so unit 71 stands last (DESIGN CHOICE, log 18: the spec names no order). -/
def State.growHbm (s : State) (cur : List Nat) (loc : Bool) (mask n : Nat) : Option (List Nat × List Nat) :=
  let used := s.hbmUsed ++ cur
  let lb := s.mem.bandLocal.filter fun j => !bandFree used j
  if loc then
    let stk := (List.range 12).filter fun k => mask = 0 || bits mask k 1 = 1
    takeLocals stk n cur.length used lb
  else if n = 0 then some ([], lb)
  else if cur.contains 71 then none
  else
    let l := ((List.range 72).filter fun u => !used.contains u && !lb.contains (u / 12)).take n
    if l.length = n then some (l, lb) else none

/-! ### DDR5 units (R194 to R196, R296) -/

/-- DDR5 units of the tier that no partition, LOCAL area or buddy region holds, in ascending order. -/
def State.freeDdr (s : State) : List Nat :=
  let used := s.twin.region ++ (List.range 16).flatMap fun c =>
    if s.exists_ c then (s.ctx c).ddrUnits ++ (s.ctx c).localUnits else []
  (List.range (s.mem.ddrGib / 64)).filter fun u => !used.contains u

def takeN (l : List Nat) (n : Nat) : Option (List Nat) := if n ≤ l.length then some (l.take n) else none

/-- A context's place in the twin's buddy region: first unit, units (R296). -/
def Ctx.buddyPlace (x : Ctx) : Nat × Nat := (x.areaBase, x.areaLen + x.cfg.set.bscratch)

/-- The lowest place of `n` units in the twin's buddy region that no context holds (DESIGN CHOICE, log 16); 0 where none is
asked for. -/
def State.buddyPlace (s : State) (n : Nat) : Option Nat :=
  let used := ((List.range 16).filter s.exists_).filterMap fun c =>
    let p := (s.ctx c).buddyPlace
    if p.2 = 0 then none else some p
  let fits (b : Nat) : Bool := b + n ≤ s.twin.peerUnits && used.all fun r => b + n ≤ r.1 || r.1 + r.2 ≤ b
  if n = 0 then some 0 else (sortNat (0 :: used.map fun r => r.1 + r.2)).find? fits

/-! ### Staging and directory ranges (R196, R279) -/

def State.freeStage (s : State) (hub : Nat) : List Nat :=
  let used := (List.range 16).flatMap fun c => if s.exists_ c then (s.ctx c).stageUnits else []
  ((List.range 256).map (hub * 256 + ·)).filter fun u => !used.contains u

/-- The lowest base of `n` free directory entries in a hub die: 0 or the end of a range in use. -/
def State.freeDir (s : State) (hub n : Nat) : Option Nat :=
  let used := (List.range 16).filterMap fun c =>
    let x := s.ctx c
    if s.exists_ c && x.stageHub = hub && x.dirSize != 0 then some (x.dirBase, x.dirSize) else none
  let fits (b : Nat) : Bool := b + n ≤ 1048576 && used.all fun r => b + n ≤ r.1 || r.1 + r.2 ≤ b
  (sortNat (0 :: used.map fun r => r.1 + r.2)).find? fits

/-! ### Zeroing (R196, R316, R418) -/

def State.zeroHbm (s : State) (l : List Nat) : State :=
  s.each l fun s u => s.zeroRange .hbm (u * 2 ^ 34) (hbmUnitBytes u)

def State.zeroDdr (s : State) (l : List Nat) : State := s.each l fun s u => s.zeroRange .ddr (u * 2 ^ 36) (2 ^ 36)

def State.zeroStage (s : State) (l : List Nat) : State := s.each l fun s u => s.zeroRange .stage (u * 2 ^ 20) (2 ^ 20)

/-! ### Clearing cores (R230 step 3) -/

/-- Cells 0, scratchpad zero and unpoisoned, groups discarded, holds invalid, queues empty, streams Idle, and the engines'
round-robin at its start (R33). -/
def State.clearCore (s : State) (p : Nat) : State :=
  let s := s.zeroRange (.scratch p) 0 spBytes
  s.updCore p fun k =>
    { k with
      cells := [], deferred := [], incs := [], holds := [], lastM := 7, lastV := 7, lastX := 7
      strands := k.strands.foldl (fun m e => SMap.set {} m e.1 (e.2.cleared s.now)) [] }

/-- Streams of a context that are Running or Waiting (R100, R210, R230). -/
def State.quiet (s : State) (c : Nat) : Bool :=
  (s.streamsOf c).all fun i =>
    match (s.stream i).state with
    | .running => false
    | .waiting => false
    | _ => true

/-- Pending granules of XACC fragments of a virtual core leave the stacks. -/
def State.dropXacc (s : State) (c : Nat) (vs : List Nat) : State :=
  { s with mem := { s.mem with xaccPend := s.mem.xaccPend.filter fun e => !(e.2.2.1.ctx = c && vs.contains e.2.2.1.vc) } }

/-- Closes whose granules are gone with their scratchpads have nothing left to clear (R331). -/
def State.forgetCloses (s : State) (c : Nat) : State :=
  s.mapArbs fun a => if a.ctx = c then { a with granules := [] } else a

/-! ### A new context (R92, R117, R122, R183, R233) -/

/-- The default margin table (Table 4.5). -/
def marginDefault : SMap Nat := ([0, 1, 2, 3, 6, 7, 8, 9, 10, 11].map fun k => (k, 1))

/-- Counters of a core that a creation clears (R92, R183, R233). -/
def CoreCtrs.created (k : CoreCtrs) : CoreCtrs := { k with mchkfail := 0, semdefer := 0, bkwait := [] }

/-- The cores of a context just created: nothing of an earlier owner is left, counters included. -/
def State.freshCores (s : State) (c : Nat) : State :=
  s.each (s.ctx c).grid fun s q => s.updCore q fun k =>
    { k with strands := [], cells := [], deferred := [], incs := [], holds := [], ctrs := k.ctrs.created }

/-! ### The context switch (R230) -/

/-- A slice that left its context with a suspect core is withheld, and the core retested (R334). -/
def State.withhold (s : State) (k : Nat) : State :=
  let l := (s.part.sliceCores k).filter fun p => (s.core p).svc = .suspect
  if l.isEmpty then s
  else
    let s := s.each l fun s p => s.updCore p fun z => { z with svc := .proofing, voff := 0, foff := 0, proofs := [] }
    { s with hub := { s.hub with withheld := s.hub.withheld ++ [k] } }

/-- Virtual cores of slice `k` in a context. -/
def Ctx.sliceVcs (x : Ctx) (k : Nat) : List Nat :=
  let i := x.slices.findIdx (· = k)
  (List.range 16).map (16 * i + ·)

/-- Steps 1 to 3: grants and BAR entries are withdrawn, and the slice's cores cleared. A generation whose count had closed
stays closed (DESIGN CHOICE, log 144: step 2 leaves counts and generations as they are otherwise). -/
def State.switchOut (s : State) (c k : Nat) : State :=
  let x := s.ctx c
  let vs := x.sliceVcs k
  let s := s.updCtx c fun x =>
    { x with
      withdrawnCores := x.withdrawnCores ++ vs.filter fun v => !x.withdrawnCores.contains v
      held := x.held.filter fun i => !vs.contains i.vc
      units := x.units.foldl (fun m e =>
        SMap.set {} m e.1 { e.2 with
          arr := e.2.arr.filter fun i => !vs.contains i.vc, next := e.2.next.filter fun i => !vs.contains i.vc }) [] }
  let s := (s.dropXacc c vs).forgetCloses c
  let s := s.each ((s.part.sliceCores k).filter fun p => (x.grid.contains p)) State.clearCore
  { s with hub := { s.hub with clearing := s.hub.clearing ++ [(k, c, s.now)] } }

/-- Steps 4 and 5: the slice's streams are Idle, it leaves the context, and may be granted again. Virtual cores are numbered
anew, and those of slices still being cleared stay withdrawn. -/
def State.switchEnd (s : State) (k : Nat) : State :=
  match s.hub.clearing.find? fun e => e.1 = k with
  | none => s
  | some e =>
    let c := e.2.1
    let s := { s with hub := { s.hub with clearing := s.hub.clearing.filter fun z => z.1 != k } }
    let s := s.each (s.part.sliceCores k) fun s p => s.updCore p fun q =>
      { q with strands := q.strands.foldl (fun m z => SMap.set {} m z.1 (z.2.cleared s.now)) [] }
    let s := s.withhold k
    let x := s.ctx c
    if s.exists_ c && x.slices.contains k then
      let s := s.setSlices c (x.slices.filter (· != k))
      let rest := (s.hub.clearing.filter fun z => z.2.1 = c).map fun z => z.1
      s.updCtx c fun x => { x with withdrawnCores := rest.flatMap x.sliceVcs }
    else s

/-- Every slice of a list begins its switch. -/
def State.switchAll (s : State) (c : Nat) (l : List Nat) : State :=
  s.each (l.filter fun k => !s.hub.clearing.any fun e => e.1 = k) fun s k => s.switchOut c k

/-- At a restore or program load a suspect core's place is taken with nothing copied; without a spare its slice is switched
out of the context and withheld (R24, R334). A context whose only slice it is keeps it (log 145). -/
def State.dropSuspects (s : State) (c : Nat) : State :=
  s.each (s.suspects c) fun s p =>
    match s.spareQuad p with
    | some q => s.replaceCore c p (s.part.spareCore (coreDie p) q) false
    | none =>
      match s.part.sliceOf p with
      | none => s
      | some k =>
        if (s.ctx c).slices.length ≤ 1 || !(s.ctx c).slices.contains k then s else (s.switchOut c k).switchEnd k

/-- A context is gone: the switch of its slices begins, and what else it held is zeroed and free again (R230, R316, R376);
its barrier units are gone with it. -/
def State.destroyCtx (s : State) (c : Nat) : State :=
  let x := s.ctx c
  let s := s.switchAll c x.slices
  let s := s.zeroHbm x.hbmUnits
  let s := s.zeroDdr (x.ddrUnits ++ x.localUnits)
  let s := s.zeroStage x.stageUnits
  let lo := x.stageHub * 1048576 + x.dirBase
  let n := match x.ckpt.copying with
    | some k => k.fenced.length
    | none => 0
  let s := { s with mem := { s.mem with
    dir0 := SMap.clear s.mem.dir0 lo (lo + x.dirSize), dir1 := SMap.clear s.mem.dir1 lo (lo + x.dirSize)
    fenceUsed := s.mem.fenceUsed - n } }
  { s with ctxs := SMap.set {} s.ctxs c {} }

/-! ### Context and core reset (R422, R423) -/

/-- Instructions in flight of a context are cut off: destinations are poisoned and fragments return ISOLATED
(R62, R421). -/
def State.cutStrand (s : State) (t : StrandId) : State :=
  let x := s.strand t
  let ls := (x.mrun.map fun r => r.latch).toList ++ x.closing.map (·.latch)
  let s := match s.pcore t.ctx t.vc with
    | some p => s.poisonAll (ls.flatMap fun l => ((foldOf l).granules l).map fun g => (Place.scratch p, g))
    | none => s
  let s := s.updStrand t fun x => { x with mrun := none, closing := [], openGroup := none }
  s.each x.x.xfers fun s y => s.each (List.range y.frags.length) fun s k => s.fragFail t y.id k 3

/-- All strands of a context. -/
def State.cutOff (s : State) (c : Nat) : State := s.each (s.strandsOf c) State.cutStrand

/-- Every valid endpoint of a context. -/
def CtxCfg.validEps (g : CtxCfg) : List Nat := (g.endpoints.filter fun e => epValid e.2).map (·.1)

/-- A reset that reaches a core wins over its wake (Table 15.7). -/
def Core.resetPower (k : Core) (p : CorePower) : Core :=
  match k.power with
  | .waking => { k with power := p }
  | _ => k

/-- A barrier unit as a program load leaves it, with its counters kept (R422 step 3). -/
def BarUnit.cleared (u : BarUnit) : BarUnit := { barrel := u.barrel, barlate := u.barlate }

/-- CTXRST (R422). -/
def State.ctxReset (s : State) (c : Nat) : State :=
  let s := s.abandonAll c
  let s := s.updCtx c fun x => { x with withdrawn := x.cfg.validEps, conns := [] }
  let s := s.cutOff c
  let s := s.dropXacc c (List.range (s.ctx c).grid.length)
  let s := (s.each (s.ctx c).grid State.clearCore).forgetCloses c
  let s := s.each (s.ctx c).grid fun s p => s.updCore p fun k => k.resetPower .asleep
  let s := s.updCtx c fun x =>
    { x.voidStep with
      state := .ready, stopCtl := false, units := SMap.mapv {} x.units BarUnit.cleared, held := [], partials := [], heldIncs := [], resume := []
      holdFor := none, sealStep := none, sealStepNext := none, sealPrev := none, openSteps := [], pastFlags := []
      collCount := [], dispCount := [], combCount := [] }
  s.receiverDown (16 + c) 1

/-- CORERST of a core in no context (R423). -/
def State.coreReset (s : State) (p : Nat) : State :=
  let s := s.clearCore p
  s.updCore p fun k => { k.resetPower .off with captures := [], split := false, draining := false }

end Sys2Proof.Machine
end

