-- ==== Sys2Proof/Machine/Programs.lean ====
section
/-! DEFINITION. Program images and their load; strand start, stop and unload (13_mailboxes R378, R379; 02 R30,
R57; 08 R220). -/

namespace Sys2Proof.Machine

/-! ### Images (Tables 13.16, 13.17) -/

/-- One entry of a load list: the image, whether it lies whole in staging, and the virtual cores it serves. -/
structure LoadEnt where
  img : List Byte
  whole : Bool
  vc : Nat
  n : Nat
deriving DecidableEq, Repr

def imgSize (b : List Byte) : Nat := fld b 0x10 8
def imgLkey (b : List Byte) : Nat := fld b 0x08 8
def imgVcMin (b : List Byte) : Nat := fld b 0x18 2
def imgVcMax (b : List Byte) : Nat := fld b 0x1A 2
def imgMfmt (b : List Byte) : Nat := fld b 0x1C 2
def imgNrout (b : List Byte) : Nat := fld b 0x1E 2
def imgBars (b : List Byte) : List Byte := slice b (fld b 0x20 4) 1024
def imgRouts (b : List Byte) : List Nat := (List.range (imgNrout b)).map fun k => fld b (fld b 0x24 4 + 2 * k) 2
def strandAt (t : Nat) : Nat := 0x40 + 48 * t
def imgDesc (b : List Byte) (t : Nat) : Nat := fld b (strandAt t) 4
def imgCode (b : List Byte) (t e : Nat) : Nat := fld b (strandAt t + 0x08 + 12 * e) 4
def imgLen (b : List Byte) (t e : Nat) : Nat := fld b (strandAt t + 0x0C + 12 * e) 4
def imgEntry (b : List Byte) (t e : Nat) : Nat := fld b (strandAt t + 0x10 + 12 * e) 4
def imgSeg (b : List Byte) (t e : Nat) : List Byte := slice b (imgCode b t e) (16 * imgLen b t e)
def imgDescs (b : List Byte) (t : Nat) : List Byte := slice b (imgDesc b t) 1024

/-- ARCH (Table 6.10). -/
def archNum : Nat := 1

/-- Check 1 of R379 on one image. -/
def imgOk (e : LoadEnt) : Bool :=
  let b := e.img
  let z := imgSize b
  e.whole && fld b 0 4 = 0x4D595049 && fld b 4 2 = 1 && fld b 6 1 = archNum && 0x1C0 ≤ z
    && fld b 0x20 4 + 1024 ≤ z && fld b 0x24 4 + 2 * imgNrout b ≤ z
    && allStrands.all fun t => imgDesc b t + 1024 ≤ z && [0, 1, 2].all fun k =>
        let len := imgLen b t k
        imgCode b t k + 16 * len ≤ z
          && (len = 0 || (imgCode b t k % 16 = 0 && imgEntry b t k < len))

/-- Entries of a barrier table. -/
def barEntries (t : List Byte) : List (BitVec 128) := (List.range 64).map fun k => BitVec.ofNat 128 (fld t (16 * k) 16)

/-- Bytes of code that one entry places in the code area. -/
def LoadEnt.codeBytes (e : LoadEnt) : Nat :=
  (allStrands.map fun t => ([0, 1, 2].map fun k => 16 * imgLen e.img t k).sum).sum

/-- The entries cover virtual cores 0 to VCORES − 1 exactly once each. -/
def covers (es : List LoadEnt) (vcores : Nat) : Bool :=
  let l := es.flatMap fun e => (List.range e.n).map (e.vc + ·)
  l.length = vcores && (List.range vcores).all fun v => l.contains v

/-- The first failed check of R379, numbered as there; 0 when all pass. -/
def State.loadCheck (s : State) (c : Nat) (es : List LoadEnt) (base : Nat) : Nat :=
  let x := s.ctx c
  let vs := x.vcores
  let fst := (es.head?.map LoadEnt.img).getD []
  if !es.all imgOk then 1
  else if !es.all fun e => imgVcMin e.img ≤ vs && vs ≤ imgVcMax e.img then 2
  else if !es.all fun e => imgLkey e.img = imgLkey fst then 3
  else if !(es.all fun e => imgBars e.img = imgBars fst)
      || !((barEntries (imgBars fst)).all fun b => x.barOk b.toNat vs) then 4
  else if !es.all fun e => imgMfmt e.img &&& s.part.mfmt = imgMfmt e.img then 5
  else if !es.all fun e => (imgRouts e.img).all fun r => s.lib.table.any fun w => bits w.toNat 0 16 = r then 6
  else if !covers es vs || hbmBytes x.hbmUnits < base + (es.map LoadEnt.codeBytes).sum then 7
  else 0

/-- Writes bytes at context addresses. -/
def State.ctxWrite (s : State) (c a : Nat) (l : List Byte) : State :=
  s.storeSpots ((List.range l.length).filterMap fun i =>
    (s.spot c (a + i : Nat)).map fun p => (p.place, { addr := p.off, val := l.getD i 0 }))

/-- The descriptor image of a strand as registers (R165). -/
def descMap (l : List Byte) : SMap Desc :=
  (List.range 32).foldl (fun m k => SMap.set 0 m k (Desc.clean (BitVec.ofNat 256 (fld l (32 * k) 32)))) []

/-- One entry's programs by strand, its code placed from address `a` on in the order strand, then M, V, X. -/
def LoadEnt.progs (e : LoadEnt) (a : Nat) : List (Nat × ProgStrand) :=
  allStrands.map fun t =>
    let before := ((allStrands.filter (· < t)).map fun u => ([0, 1, 2].map fun k => 16 * imgLen e.img u k).sum).sum
    let base (k : Nat) : Nat := a + before + (([0, 1, 2].filter (· < k)).map fun j => 16 * imgLen e.img t j).sum
    (t, { codeBase := [0, 1, 2].map fun k => BitVec.ofNat 64 (base k)
          codeLen := [0, 1, 2].map fun k => BitVec.ofNat 32 (imgLen e.img t k)
          entry := [0, 1, 2].map fun k => BitVec.ofNat 32 (imgEntry e.img t k)
          descs := descMap (imgDescs e.img t) })

/-- Load entries with the address of each one's code (DESIGN CHOICE, log 19: R379 fixes no order). -/
def placeEnts : List LoadEnt → Nat → List (LoadEnt × Nat)
  | [], _ => []
  | e :: r, a => (e, a) :: placeEnts r (a + e.codeBytes)

/-- SHA-384 of the program images (Table 9.7 prog, R379). -/
def hashProgs (es : List LoadEnt) (vcores : Nat) : List Byte :=
  sha384 ((List.range vcores).flatMap fun v =>
    match es.find? fun e => e.vc ≤ v && v < e.vc + e.n with
    | none => []
    | some e => allStrands.flatMap fun t =>
        imgDescs e.img t ++ imgSeg e.img t 0 ++ imgSeg e.img t 1 ++ imgSeg e.img t 2)

/-- Load list and images as the configuration shard keeps them: offsets count from the first image. -/
def packLoad : List LoadEnt → Nat → List Byte × List Byte
  | [], _ => ([], [])
  | e :: r, o =>
    let p := packLoad r (o + e.img.length)
    (leBytes 4 o ++ leBytes 2 e.vc ++ leBytes 2 e.n ++ zeros 8 ++ p.1, e.img ++ p.2)

/-- The entries of a load list over images that lie at its offsets; `limit` is where their store ends. -/
def unpackLoad (list : List Byte) (read : Nat → Nat → List Byte) (limit : Nat) : List LoadEnt :=
  (chunksOf 16 (list.length + 1) list).map fun b =>
    let o := fld b 0 4
    let z := leNat (read (o + 0x10) 8)
    let fits : Bool := o + z ≤ limit && o + 0x40 ≤ limit
    { img := if fits then read o z else [], whole := fits, vc := fld b 4 2, n := fld b 6 2 }

/-- Streams that a load or unload leaves Idle; Faulted ones wait for a restore or reset (Table 2.2). -/
def State.idleStreams (s : State) (c : Nat) : State :=
  s.each (s.streamsOf c) fun s i => s.updStream i fun x =>
    if x.state = .faulted then x else { x.cleared s.now with state := .idle }

/-- Puts programs into a context whose load passes: suspect cores leave it first (R334), barrier units take the
images' table, code goes to the code area (R220, R379). -/
def State.install (s : State) (c : Nat) (es : List LoadEnt) (base : Nat) : State :=
  let x := s.ctx c
  let fst := (es.head?.map LoadEnt.img).getD []
  let pl := placeEnts es base
  let pk := packLoad es 0
  let g : CtxCfg :=
    { x.cfg with
      bars := (List.zip (List.range 64) (barEntries (imgBars fst))).foldl (fun m e => SMap.set 0 m e.1 e.2) []
      loaded := true
      lkey := BitVec.ofNat 64 (imgLkey fst)
      progs := pl.foldl (fun m e =>
        (List.range e.1.n).foldl (fun m v =>
          (e.1.progs e.2).foldl (fun m p => SMap.set {} m ((e.1.vc + v) * 8 + p.1) p.2) m) m) []
      images := pk.2, loadList := pk.1, loadBase := BitVec.ofNat 64 base
      progHash := hashProgs es x.vcores }
  let s := s.updCtx c fun x => { x with cfg := g, units := [], held := [] }
  let s := s.each pl fun s e =>
    s.each allStrands fun s t => s.each [0, 1, 2] fun s k =>
      let p := ((e.1.progs e.2).find? fun z => z.1 = t).map fun z => (z.2.codeBase.getD k 0).toNat
      s.ctxWrite c (p.getD 0) (imgSeg e.1.img t k)
  s.idleStreams c

/-- The load entries that the configuration holds, fitted to a grid of `vcores`: entries are cut at its end, and
the last one in virtual-core order reaches to it (DESIGN CHOICE, log 20). -/
def CtxCfg.entsFor (g : CtxCfg) (vcores : Nat) : List LoadEnt :=
  let es := unpackLoad g.loadList (fun o n => slice g.images o n) g.images.length
  let top := es.foldl (fun m e => max m (e.vc + e.n)) 0
  (es.filter fun e => e.vc < vcores).map fun e =>
    { e with n := if e.vc + e.n = top then vcores - e.vc else min e.n (vcores - e.vc) }

/-- The first check of R379 that the programs a context holds would fail on the slices and HBM units given, 0 when all pass
or it has none (R57, R315). -/
def State.reloadCheck (s : State) (c : Nat) (want : List Nat) (hbmu : Nat) : Nat :=
  let t := (s.setSlices c want).updCtx c fun x => { x with hbmUnits := x.hbmUnits.take hbmu }
  let x := t.ctx c
  if x.cfg.loadList.isEmpty then 0 else t.loadCheck c (x.cfg.entsFor x.vcores) x.cfg.loadBase.toNat

/-- Loads the configuration's programs again at the context's VCORES (R313 step 3, R315). -/
def State.reinstall (s : State) (c : Nat) : State :=
  let s := s.dropSuspects c
  let x := s.ctx c
  s.install c (x.cfg.entsFor x.vcores) x.cfg.loadBase.toNat

/-! ### Strand start and stop (R30, R165) -/

/-- The stream of engine `k` starts from its entry point, or is Done where it has no code. -/
def Stream.start (x : Stream) (p : ProgStrand) (k now : Nat) : Stream :=
  let len := p.codeLen.getD k 0
  { x.cleared now with
    state := if len = 0 then .done else .running
    pc := p.entry.getD k 0, entry := p.entry.getD k 0, codeBase := p.codeBase.getD k 0, codeLen := len }

def streamIs (l : List StreamState) (x : Stream) : Bool := l.contains x.state

/-- A Stopped stream goes on from its saved PC; one that stands in a barrier waits there again, and its wait limit
starts anew (R30, R41). On a core that does not run it waits again once the core is awake, since no stream of an Asleep
core is in Waiting (R214; DEDUCED, log 140). -/
def State.resumeStream (s : State) (i : StreamId) : State :=
  let h := (s.ctx i.ctx).held.contains i
  let runs := s.coreRuns i.ctx i.vc
  let s := s.updStream i fun y =>
    if y.state = .stopped then
      let bar : Bool := h || match y.phase with
        | .waitBar _ _ => true
        | _ => false
      if !bar then { y with state := .running, resumeReq := false }
      else if runs then { y with state := .waiting, waitSince := s.now, resumeReq := false }
      else { y with resumeReq := true }
    else { y with stopReq := false }
  s.reach i

/-- A core is awake: its streams go on with what they have reached (R30, R214). -/
def State.wakeStreams (s : State) (p : Nat) : State :=
  match s.ownerOf p with
  | none => s
  | some (c, v) => s.each (allStrands.flatMap fun t => allEngs.map fun e => (⟨c, v, t, e⟩ : StreamId)) fun s i =>
      if (s.stream i).resumeReq then s.resumeStream i else s.reach i

/-- Strand start: a strand with a Stopped stream resumes those at their saved PC; one whose streams are Idle
or Done starts from the entry points with its descriptor image, and is Done at once without code; any other goes on
as it is, and a stop it waits for is dropped (R30, R165). An open group stays open until its next M instruction (R82). -/
def State.startStrand (s : State) (t : StrandId) (sess : Nat) : State :=
  let x := s.strand t
  let ss := [x.m, x.v, x.x]
  if ss.any (streamIs [.stopped]) then
    let s := s.updStrand t fun x => { x with startedBy := some sess }
    s.each allEngs fun s e => s.resumeStream (t.stream e)
  else if ss.all (streamIs [.idle, .done]) then
    let p : ProgStrand := SMap.get {} (s.ctx t.ctx).cfg.progs (t.vc * 8 + t.st)
    let s := s.updStrand t fun x =>
      { x with
        descs := p.descs, m := x.m.start p 0 s.now, v := x.v.start p 1 s.now, x := x.x.start p 2 s.now, gather := []
        startedBy := some sess }
    (s.each allEngs fun s e => s.reach (t.stream e)).strandDone t
  else s.each allEngs fun s e => s.resumeStream (t.stream e)

/-- Takes back the increment of R35 for an instruction that was reached and has not issued (R30). -/
def Stream.unreach (x : Stream) : Stream :=
  let w := x.word
  { x with
    phase := .boundary
    e := if Word.wsem w = 0xFFFF then x.e else SMap.upd 0 x.e (Word.wreg w) (· - BitVec.ofNat 32 (Word.winc w)) }

/-- Strand stop of one stream: at once where no instruction is in execution, else after it; one that waits in a
barrier stays entered there (R30, R230, Table 2.2; DEDUCED, log 38). -/
def Stream.stop (x : Stream) (now : Nat) : Stream :=
  match x.state, x.phase with
  | .running, .boundary => { x with state := .stopped }
  | .running, .released => { x.unreach with state := .stopped }
  | .running, _ => { x with stopReq := true }
  | .waiting, .waitSem _ _ => { (x.leaveWait now).unreach with state := .stopped }
  | .waiting, _ => { x.leaveWait now with state := .stopped }
  | _, _ => { x with resumeReq := false }

/-- Strand stop. An M instruction that is not granted yet has not begun, so its stream stands at the boundary before it
and it asks the array for nothing any more (R30, R78; DEDUCED, log 123). -/
def State.stopStrand (s : State) (t : StrandId) : State :=
  let s := (s.dropUngranted t .released).redrain t.ctx t.vc
  s.each allEngs fun s e => s.updStream (t.stream e) fun x => x.stop s.now

/-- Starts every strand of a context's programs. -/
def State.startAll (s : State) (c sess : Nat) : State := s.each (s.strandsOf c) fun s t => s.startStrand t sess

/-- Starts the strands that a restore in RESUME mode left Stopped; those that were Done or had not started stay as they
were captured (R313 step 6; DEDUCED, log 89). -/
def State.resumeAll (s : State) (c sess : Nat) : State :=
  s.each ((s.strandsOf c).filter fun t => allEngs.any fun e => (s.stream (t.stream e)).state = .stopped)
    fun s t => s.startStrand t sess

end Sys2Proof.Machine
end

