-- ==== Sys2Proof/Machine/Checkpoint.lean ====
section
/-! DEFINITION. The copier, copy-before-write, the commit of a checkpoint and its step closure record
(11_twin_pairs R300 to R308; 09 R253). -/

namespace Sys2Proof.Machine

/-! ### Pages in copy order (R300) -/

/-- Page `n` of a checkpoint: its shard, and the page within it. -/
def shardPage : List Shard → Nat → Option (Shard × Nat)
  | [], _ => none
  | h :: r, n => if n < pagesOf h.bytes then some (h, n) else shardPage r (n - pagesOf h.bytes)

def shardPages (hs : List Shard) : Nat := (hs.map fun h => pagesOf h.bytes).sum

/-- The shards of the checkpoint in copy, in its generation of the area. -/
def Copying.shards (k : Copying) : List Shard := k.capt.shards (genOf k.capt.cfg.set.gens k.slotB)

/-- Pages at or above the copier's place that are still pending. -/
def Copying.nextPending (k : Copying) : Option Nat :=
  let n := shardPages k.shards
  (List.range (k.early.length + 1)).findSome? fun i =>
    let p := k.next + i
    if p < n && (!k.early.contains p || k.heldPages.contains p) then some p else none

/-- Granules of a page behind an interface for which `f` holds, as indices in it. -/
def State.pageBehind (s : State) (c : Nat) (pg : Nat) (f : Place → Nat → Bool) : List Nat :=
  if s.mem.inReset.isEmpty && s.mem.isolated.isEmpty then []
  else match (s.ctx c).pageSpot pg with
    | some (pl, o) => (List.range 1024).filter fun g => f pl (o + 64 * g)
    | none => []

/-- A page goes to the snapshot area with its poison; addresses of its poisoned granules are kept (R300,
R306). -/
def State.copyPage (s : State) (c : Nat) (k : Copying) (n : Nat) : State × List U64 :=
  match shardPage k.shards n with
  | none => (s, [])
  | some (h, pg) =>
    let d := k.capt.page h pg
    -- what is read behind an isolated interface counts as poison (R425)
    let bad := d.2 ++ s.pageBehind c n s.isolatedAt
    let base := if h.kind = 0 then h.index * 2 ^ 34 else 0x100000000000 + h.index * 2 ^ 36
    (s.areaWrite c k.buddy (h.at_ + pg * 65536) d.1 bad,
      bad.map fun g => BitVec.ofNat 64 (base + pg * 65536 + 64 * g))

def State.setCopy (s : State) (c : Nat) (k : Option Copying) : State :=
  s.updCtx c fun x => { x with ckpt := { x.ckpt with copying := k } }

/-- CHECKPOINT_PAGE_COPY: the copier moves a page, those in the fence buffer first (R300, R301). It waits for an
interface in reset (Table 15.7). -/
def execCheckpointPageCopy (c : Nat) (s : State) : Out :=
  done <| match (s.ctx c).ckpt.copying with
  | none => s
  | some k =>
    match k.fenced with
    | p :: r =>
      let d := s.copyPage c k p
      let s := d.1.setCopy c (some { k with fenced := r, bad := k.bad ++ d.2 })
      { s with mem := { s.mem with fenceUsed := s.mem.fenceUsed - 1 } }
    | [] =>
      match k.nextPending with
      | none => s
      | some p =>
        if !(s.pageBehind c p s.heldAt).isEmpty then s
        else
          -- a page whose write was held has been read already
          let s := if k.early.contains p then s else s.pageReads c p
          let k := (s.ctx c).ckpt.copying.getD k
          let d := s.copyPage c k p
          d.1.setCopy c (some { k with
            next := p + 1, heldPages := k.heldPages.filter (· != p), bad := k.bad ++ d.2 })

/-- COPY_BEFORE_WRITE: a write to a pending page waits while the page is copied into the fence buffer; with
the buffer full it is held (R300, R301). The write itself changes memory when it is made: R300 and R301 say that
the wait changes timing only. -/
def execCopyBeforeWrite (c page : Nat) (s : State) : Out :=
  done <| match (s.ctx c).ckpt.copying with
  | none => s
  | some k =>
    if k.next ≤ page && page < shardPages k.shards && !k.early.contains page then
      let room : Bool := s.mem.fenceUsed < 16384
      let s := s.pageReads c page
      let s := s.updCtx c fun x => { x with ckpt := { x.ckpt with copying := x.ckpt.copying.map fun k =>
        { k with
          early := k.early ++ [page]
          fenced := if room then k.fenced ++ [page] else k.fenced
          heldPages := if room then k.heldPages else k.heldPages ++ [page] } } }
      if room then { s with mem := { s.mem with fenceUsed := s.mem.fenceUsed + 1 } } else s
    else s

/-- HELD_WRITE_RESUME: a held write goes on once the fence buffer has room for its page (R301); a page that
the copier has moved holds none. -/
def execHeldWriteResume (c page : Nat) (s : State) : Out :=
  done <| match (s.ctx c).ckpt.copying with
  | none => s
  | some k =>
    if k.heldPages.contains page && s.mem.fenceUsed < 16384 then
      let s := s.setCopy c (some { k with heldPages := k.heldPages.filter (· != page), fenced := k.fenced ++ [page] })
      { s with mem := { s.mem with fenceUsed := s.mem.fenceUsed + 1 } }
    else s

/-! ### Commit (R306, R307) -/

/-- A checkpoint is abandoned for condition `cond` of R306, 5 standing for the missing key of R400; the previous valid
manifest stands. -/
def State.abandonCkpt (s : State) (c cond : Nat) : State :=
  match (s.ctx c).ckpt.copying with
  | none => s
  | some k =>
    let s := s.setCopy c none
    let s := { s with mem := { s.mem with fenceUsed := s.mem.fenceUsed - k.fenced.length } }
    let s := s.tellCopy
    let s := s.tell 0x0E (c :: cond :: (if cond = 2 then (k.bad.take 16).map BitVec.toNat else []))
    s.raise { event := 0x0E, ctx := c, unit := 0 }

/-- BUDDY frames of a context's area that the twin has not acknowledged. -/
def State.buddyPending (s : State) (c : Nat) : Bool :=
  let lo := s.buddyBase c
  let hi := lo + (s.ctx c).areaLen * 2 ^ 36
  s.twin.unsent fun n a _ => n = 0x01 && lo ≤ a.toNat && a.toNat < hi

/-- Every seal of step `n` of a couple has been compared (R306 condition 3). -/
def State.sealsAgreed (s : State) (c : Nat) (n : U64) : Bool :=
  let x := s.ctx c
  !x.openSteps.contains n && !x.sealsMine.any fun e => e.1 = n

/-- Every shard of the checkpoint lies in its area: without that room it is not copied (R306 condition 1). -/
def State.copyFits (s : State) (c : Nat) (k : Copying) : Bool :=
  k.shards.all fun h => h.at_ + 65536 * pagesOf h.bytes ≤ s.areaRoom c k.buddy * 2 ^ 36

/-- The offset of a slot in its area, its location table and its manifest (R307). -/
def Copying.slotAt (k : Copying) : Nat := if k.slotB then 0x80000 else 0
def Copying.table (k : Copying) : List Byte := k.shards.flatMap fun h => leBytes 8 h.at_

/-- Steps 2 and 3 of a commit: 0 in the commit word, then location table and manifest; the slot's closure is 256 zero bytes
until it has one (R307, R309). -/
def State.commitWrite (s : State) (c : Nat) (k : Copying) : State :=
  let o := k.slotAt
  let s := s.areaWrite c k.buddy o (zeros 8) []
  let s := s.areaWrite c k.buddy (o + 0x40) k.table []
  let s := s.areaWrite c k.buddy (o + 0x10000) (s.manifest c k.capt k.shards) []
  s.areaWrite c k.buddy (o + 0x70000) (zeros 256) []

/-- A byte range of a context's area: from its LOCAL units, or from what the twin has returned; with the poison of any byte. -/
def State.areaRead (s : State) (c : Nat) (buddy : Bool) (o n : Nat) : List Byte × Bool :=
  let at_ (i : Nat) : Option (Place × Nat) :=
    if buddy then some (.buddy, s.buddyBase c + o + i)
    else ((s.ctx c).localUnits[(o + i) >>> 36]?).map fun u => (Place.ddr, u * 2 ^ 36 + (o + i) % 2 ^ 36)
  let l := (List.range n).map at_
  (l.map fun p => match p with
    | some q => s.byteAt q.1 q.2
    | none => 0, l.any fun p => match p with
    | some q => s.bad q.1 q.2
    | none => true)

/-- What a commit reads back: the places of the location table and of the manifest (R307 step 4). -/
def State.backAt (s : State) (c : Nat) (k : Copying) : List (Nat × List Byte) :=
  [(k.slotAt + 0x40, k.table), (k.slotAt + 0x10000, s.manifest c k.capt k.shards)]

/-- Table and manifest have come back as they were written, unpoisoned. -/
def State.backOk (s : State) (c : Nat) (k : Copying) : Bool :=
  (s.backAt c k).all fun e => s.areaRead c k.buddy e.1 e.2.length = (e.2, false)

/-- Step 5 of a commit: the commit word, and the event to the host (R307). -/
def State.commitCkpt (s : State) (c : Nat) (k : Copying) : State :=
  let m := s.manifest c k.capt k.shards
  let word : U64 := (k.capt.step &&& 0x7FFFFFFFFFFFFFFF) ||| 0x8000000000000000
  let s := s.areaWrite c k.buddy k.slotAt (leBytes 8 word.toNat ++ zeros 8) []
  let slot : Slot :=
    { commit := word, location := 0, manifest := m, closure := [], capt := some k.capt, drained := false
      buddy := k.buddy }
  let s := s.updCtx c fun x => { x with ckpt := { x.ckpt.setSlot k.slotB slot with copying := none } }
  s.tellCopy.noticeCtx c 0x21 0 0 0 (leBytes 8 k.capt.step.toNat ++ [if k.slotB then 1 else 0])

/-- Asks the twin for pieces of its buddy region, offset and length; what was had of them before is forgotten. -/
def State.fetchFar (s : State) (l : List (Nat × Nat)) : State :=
  s.each l fun s e =>
    let hi := e.1 + e.2
    let s : State := { s with twin := { s.twin with
      inMem := SMap.clear s.twin.inMem e.1 hi, inPoison := SMap.clear s.twin.inPoison (e.1 / 64) ((hi + 63) / 64)
      inHave := s.twin.inHave.filter fun h => h.1 + h.2 ≤ e.1 || hi ≤ h.1 } }
    s.twinSend 0x02 (BitVec.ofNat 64 e.1) (leBytes 4 e.2) 0 none

/-- Every byte of a piece has come. -/
def State.cameFar (s : State) (e : Nat × Nat) : Bool :=
  e.2 ≤ ((s.twin.inHave.filter fun h => e.1 ≤ h.1 && h.1 + h.2 ≤ e.1 + e.2).map (·.2)).sum

/-- The next step of a commit: table and manifest are written, read back once the twin has them where the area is its
buddy region, and with what has come verified the commit word follows; bytes that differ are no copy, and the checkpoint is
abandoned (R306 condition 1, R307). -/
def State.commitStep (s : State) (c : Nat) (k : Copying) : State :=
  let far : List (Nat × Nat) := (s.backAt c k).map fun e => (s.buddyBase c + e.1, e.2.length)
  let judge (s : State) : State :=
    let u := (s.ctx c).localUnits
    let s := if k.buddy then s else s.findErrs .ddr fun a => u.contains (a >>> 36)
    if s.backOk c k then s.commitCkpt c k else s.abandonCkpt c 1
  if k.back = 0 then
    let s := s.commitWrite c k
    if k.buddy then s.setCopy c (some { k with back := 1 }) else judge s
  else if k.back = 1 then (s.fetchFar far).setCopy c (some { k with back := 2 })
  else if far.all s.cameFar then judge s
  else s

/-- The mode in which a checkpoint started still stands (R306 condition 4). -/
def State.modeStands (s : State) (k : Copying) : Bool := s.twin.mode = k.mode && (k.mode = 0 || s.twin.paired)

/-- Hokunuon holds the checkpoint key (R400, R405). -/
def State.canSign (s : State) : Bool := s.vault.valid && !s.aon.keysLost && s.aon.debugScope.isNone

/-- CHECKPOINT_COMMIT: once every page has been copied and acknowledged the checkpoint commits, for a buddy region in as
many commands as the link takes to write and read back; or one of the other conditions fails and it is abandoned (R306,
R307). -/
def execCheckpointCommit (c : Nat) (s : State) : Out :=
  done <| match (s.ctx c).ckpt.copying with
  | none => s
  | some k =>
    let ended := k.capt.step - 1
    let couple : Bool := s.twin.mode = 2 && k.capt.cfg.set.partner.isSome
    if !s.modeStands k then s.abandonCkpt c 4
    else if k.nextPending.isSome || !k.fenced.isEmpty || (k.buddy && s.buddyPending c) then s
    else if !s.copyFits c k then s.abandonCkpt c 1
    else if !s.canSign then s.abandonCkpt c 5
    else if !k.bad.isEmpty then s.abandonCkpt c 2
    else if couple && (k.uncompared || ((s.ctx c).noCompare && !s.sealsAgreed c ended)) then s.abandonCkpt c 3
    else if couple && !s.sealsAgreed c ended then s
    else s.commitStep c k

/-! ### The step closure record (R253, Table 9.9) -/

/-- The closure record of step `d.step` for a manifest, signed with the checkpoint key. -/
def closureRec (v : Vault) (d : StepData) (man : List Byte) : List Byte :=
  let b := leBytes 4 0x4D595343 ++ leBytes 2 1 ++ zeros 2 ++ leBytes 8 d.step.toNat ++ sha384 man
    ++ sha384 d.input ++ sha384 d.glog
  b ++ ecSigBytes v.ckpt.toNat b

/-- The slot whose checkpoint names a step that has ended, and that has no closure yet. -/
def CkptState.closable (k : CkptState) : Option (Bool × StepData) :=
  [false, true].findSome? fun b =>
    let z := k.slot b
    if z.valid && z.closure.isEmpty then
      (k.steps.find? fun d => d.ended && !d.void && d.step.toNat = manStep z.manifest).map fun d => (b, d)
    else none

/-- STEP_CLOSURE_WRITE (R253). -/
def execStepClosureWrite (c : Nat) (s : State) : Out :=
  let x := s.ctx c
  done <| match x.ckpt.closable with
  | none => s
  | some (b, d) =>
    if x.openSteps.contains d.step || !s.canSign then s
    else
      let z := x.ckpt.slot b
      let r := closureRec s.vault d z.manifest
      let s := s.areaWrite c z.buddy ((if b then 0x80000 else 0) + 0x70000) r []
      s.updCtx c fun x => { x with ckpt :=
        { x.ckpt.setSlot b { z with closure := r } with
          steps := x.ckpt.steps.filter fun e => d.step.toNat < e.step.toNat } }

end Sys2Proof.Machine
end

