-- ==== Sys2Proof/Machine/Restore.lean ====
section
/-! DEFINITION. Restore: where a checkpoint is read from, its verification, and what it puts back
(11_twin_pairs R312 to R314, R318). -/

namespace Sys2Proof.Machine

/-! ### Reading a checkpoint -/

/-- What a configuration shard holds (R305): configuration, both phase tables by expert, and the size of the directory
range they cover. -/
structure CfgRead where
  cfg : CtxCfg := {}
  dir0 : SMap U64 := []
  dir1 : SMap U64 := []
  dirSize : Nat := 0
deriving DecidableEq, Repr, Inhabited

/-- What the firmware reads out of a configuration shard; none where the bytes are no shard of it (log 12). -/
opaque cfgShardRead : List Byte → Option CfgRead

/-- The public key a key hash stands for, among the certificates and signer keys that Hokunuon holds (log 12). -/
opaque signerKey : List Byte → List Byte

/-- A checkpoint to restore: its manifest, what it captured, and the state shard's bytes as read. -/
structure Src where
  man : List Byte
  capt : Capt
  cfgOk : Bool
  stateRaw : List Byte
  /-- where each shard was read from, in the linear memory it came out of -/
  ofs : List Nat := []
deriving DecidableEq, Repr

/-- A stream record as a state shard holds it (R304). -/
def parseStream (b : List Byte) : StreamRec :=
  let st : StreamState := match fld b 4 1 with
    | 0 => .idle
    | 1 => .running
    | 2 => .waiting
    | 3 => .done
    | 4 => .stopped
    | _ => .faulted
  let u (o : Nat) : U32 := BitVec.ofNat 32 (fld b o 4)
  let lev := (List.range (min 4 (fld b 5 1))).map fun k =>
    (⟨u (0x58 + 16 * k), u (0x5C + 16 * k), u (0x60 + 16 * k), u (0x64 + 16 * k)⟩ : LoopLevel)
  { pc := u 0, state := st
    e := (List.range 16).foldl (fun m k => SMap.set 0 m k (u (8 + 4 * k))) []
    lc := (List.range 4).foldl (fun m k => SMap.set 0 m k (u (0x48 + 4 * k))) []
    loops := lev.reverse }

/-- A state shard read from its bytes (R304). -/
def parseState (b : List Byte) : StateShard :=
  let n := fld b 0 2
  let vs := List.range n
  let blk (v : Nat) : Nat := 0x40 + v * 15360
  let cells := vs.foldl (fun m v => (List.range 256).foldl (fun m k =>
    SMap.set 0 m (v * 256 + k) (BitVec.ofNat 32 (fld b (blk v + 4 * k) 4))) m) []
  let strand (v t : Nat) : Nat := blk v + 1024 + t * 1792
  let descs := vs.foldl (fun m v => allStrands.foldl (fun m t => (List.range 32).foldl (fun m d =>
    SMap.set 0 m ((v * 8 + t) * 32 + d) (Desc.clean (BitVec.ofNat 256 (fld b (strand v t + 32 * d) 32)))) m) m) []
  let streams := vs.flatMap fun v => allStrands.flatMap fun t => [0, 1, 2].map fun e =>
    ((v * 8 + t) * 3 + e, parseStream (slice b (strand v t + 1024 + 256 * e) 256))
  let gens := (List.range 64).foldl (fun m k =>
    SMap.set 0 m k (BitVec.ofNat 32 (fld b (blk n + 4 * k) 4))) []
  { vcores := n, cells := cells, descs := descs, streams := streams, gens := gens }

/-- The entries of a sparse map from key `lo` on, `n` keys, moved to key `t`. -/
def subMap {α : Type} (m : SMap α) (lo n t : Nat) : SMap α :=
  (m.filter fun e => lo ≤ e.1 && e.1 < lo + n).map fun e => (e.1 - lo + t, e.2)

/-- Shard entries of a manifest: kind, index, bytes (Table 11.6). -/
def manEntries (m : List Byte) : List (Nat × Nat × Nat) :=
  (List.range (manShards m)).map fun i =>
    let e := manEntry m i
    (fld e 0 1, fld e 2 2, fld e 8 8)

/-- Captures that this device's slots still hold. -/
def State.kept (s : State) : List Capt :=
  (List.range 16).flatMap fun c => (s.ctx c).ckpt.slotA.capt.toList ++ (s.ctx c).ckpt.slotB.capt.toList

/-- What a configuration shard says. Its layout is the firmware's, so bytes that this device made itself are read back as what
it captured in them (log 12). -/
def cfgRead (known : List Capt) (b : List Byte) : Option CfgRead :=
  match known.find? fun k => k.cfgBytes = b with
  | some k => some ⟨k.cfg, k.dir0, k.dir1, k.dirSize⟩
  | none => cfgShardRead b

/-- A checkpoint whose shards lie at offsets `ofs` of a linear memory `m` with poison `q`. -/
def srcFrom (known : List Capt) (m : Memory) (q : Poison) (man : List Byte) (ofs : List Nat) : Src :=
  let es := List.zip (manEntries man) ofs
  let ofKind (k : Nat) := es.filter fun e => e.1.1 = k
  let raw (k : Nat) : List Byte := (ofKind k).flatMap fun e => Memory.readN m e.2 e.1.2.2
  let cfgB := raw 2
  let st := raw 3
  let p := cfgRead known cfgB
  let c := p.getD {}
  { man := man
    cfgOk := p.isSome
    stateRaw := st
    ofs := ofs
    capt :=
      { step := BitVec.ofNat 64 (manStep man), fence := BitVec.ofNat 64 (fld man 0x20 8)
        cfg := c.cfg, state := parseState st
        hbm := (ofKind 0).flatMap fun e => subMap m e.2 e.1.2.2 (e.1.2.1 * 2 ^ 34)
        hbmPoison := (ofKind 0).flatMap fun e => subMap q (e.2 / 64) (e.1.2.2 / 64) (e.1.2.1 * 2 ^ 28)
        ddr := (ofKind 1).flatMap fun e => subMap m e.2 e.1.2.2 (e.1.2.1 * 2 ^ 36)
        ddrPoison := (ofKind 1).flatMap fun e => subMap q (e.2 / 64) (e.1.2.2 / 64) (e.1.2.1 * 2 ^ 30)
        hbmBytes := ((ofKind 0).map fun e => e.1.2.2).sum, ddrUnits := (ofKind 1).length
        dir0 := c.dir0, dir1 := c.dir1, dirSize := c.dirSize, cfgBytes := cfgB, replay := slice man 0x80 304 } }

/-- Where the shards of a set lie that starts with its manifest, the first at offset `o`, each padded to 64 KiB. -/
def padsFrom (man : List Byte) (o : Nat) : List Nat :=
  let pads := (manEntries man).map fun e => 65536 * pagesOf e.2.2
  (List.range pads.length).map fun i => o + (pads.take i).sum

/-- A checkpoint set as the host supplies it: manifest, closure record, shards padded to 64 KiB, with their poison (R309,
R372). -/
def srcSet (known : List Capt) (m : Memory) (q : Poison) : Src :=
  let man := Memory.readN m 0 (manLen (Memory.readN m 0 0x1B0))
  srcFrom known m q man (padsFrom man (manLen man + 256))

/-- The capture of a partner as its Hokunuon sends it: the manifest, and from the next 64 KiB boundary the shards, with
their poison (R319; log 21). -/
def srcPartner (known : List Capt) (m : Memory) (q : Poison) : Src :=
  let man := Memory.readN m 0 (manLen (Memory.readN m 0 0x1B0))
  srcFrom known m q man (padsFrom man (65536 * pagesOf man.length))

/-- A slot found at offset `o` of a snapshot area in a linear memory: its manifest is whole and its commit word
agrees (R307). -/
def slotAt (m : Memory) (o : Nat) : Option (U64 × List Byte) :=
  let word : U64 := BitVec.ofNat 64 (leNat (Memory.readN m o 8))
  let head := Memory.readN m (o + 0x10000) 0x1B0
  if word.getLsbD 63 && fld head 0 4 = 0x4D594C31 && bits word.toNat 0 63 = manStep head % 2 ^ 63
      && manLen head ≤ 0x60000 then
    some (BitVec.ofNat 64 (leNat (Memory.readN m (o + 8) 8)), Memory.readN m (o + 0x10000) (manLen head))
  else none

/-! ### Verification (R312) -/

/-- A refusal: status of Table 13.13 and DETAIL. -/
abbrev Refuse := Nat × Nat

/-- The public key that a manifest's SIGNKEY names, where it is one this context accepts. -/
def State.signer (s : State) (c : Nat) (hash : List Byte) : Option (List Byte) :=
  if hash = sha384 s.vault.ckptPub then some s.vault.ckptPub
  else if !s.twin.peerCkpt.isEmpty && hash = sha384 s.twin.peerCkpt then some s.twin.peerCkpt
  else
    let k := signerKey hash
    if (sha384 k = hash) && ((s.ctx c).cfg.set.signers.contains hash || s.vault.certs.any fun x => fld x 0 48 = fld hash 0 48)
    then some k else none

/-- The signature verifies under an accepted key. -/
def State.signed (s : State) (c : Nat) (man : List Byte) : Bool :=
  match (s.signer c (manKey man)).bind ecParse with
  | some k => ecVerifyObj k man
  | none => false

/-- What a valid slot says: its location word, its manifest, and where its shards lie. -/
structure SlotRead where
  location : U64
  man : List Byte
  ofs : List Nat
deriving DecidableEq, Repr

/-- Slot A or B of the area that starts at offset `a`, if it is valid: commit word and signature agree (R307). -/
def State.areaSlot (s : State) (c : Nat) (m : Memory) (a : Nat) (b : Bool) : Option SlotRead :=
  let o := a + if b then 0x80000 else 0
  (slotAt m o).bind fun z =>
    if s.signed c z.2 then
      some ⟨z.1, z.2, (List.range (manShards z.2)).map fun i => a + leNat (Memory.readN m (o + 0x40 + 8 * i) 8)⟩
    else none

/-- The newest valid slot of an area: of two, that with the higher STEP (R307). -/
def State.areaNewest (s : State) (c : Nat) (m : Memory) (a : Nat) : Option SlotRead :=
  match s.areaSlot c m a false, s.areaSlot c m a true with
  | none, r => r
  | r, none => r
  | some x, some y => if manStep x.man < manStep y.man then some y else some x

/-- Digest of one shard as read. -/
def Src.digest (x : Src) (kind index bytes : Nat) : List Byte :=
  if kind = 3 then
    sha384 ((List.range (pagesOf bytes)).flatMap fun pg => sha384 (slice (x.stateRaw.take bytes) (pg * 65536) 65536))
  else x.capt.digest ⟨kind, index, bytes, 0⟩

/-- The context view that a restore would give a context whose order mode is `arrival`, which is fixed for its life (R239). -/
def Src.csig (x : Src) (arrival : Bool) : Nat :=
  let set : Settings := { x.capt.cfg.set with arrival := arrival }
  CtxCfg.csig { x.capt.cfg with set := set }

/-- The first check of R312 and R313 step 1 that fails, for a context whose order mode is `arrival`. -/
def State.verify (s : State) (c : Nat) (x : Src) (arrival : Bool) : Option Refuse :=
  let es := manEntries x.man
  if !s.signed c x.man then some (0x0C, 0xFFFFFFFF)
  else if fld x.man 0x80 16 != nsig then some (0x0D, 0)
  else match (List.range es.length).find? fun i =>
      let e := es.getD i (0, 0, 0)
      x.digest e.1 e.2.1 e.2.2 != slice (manEntry x.man i) 16 48 with
    | some i => some (0x0C, i)
    | none =>
      if !x.cfgOk then some (0x0C, (es.findIdx? fun e => e.1 = 2).getD 0xFFFFFFFF)
      else if x.csig arrival != manCsig x.man then some (0x0D, 0x10)
      else none

/-! ### The restore itself (R313) -/

/-- Full writes of a partition's shards over the units of its list, poison with them: of every page, or of the pages named
alone (R313, R314). -/
def State.loadUnits (s : State) (pl : Place) (units : List Nat) (sh bytes : Nat) (img : Memory) (bad : Poison)
    (only : Option (List Nat)) : State :=
  let s := match only with
    | none => s.each (List.zip (List.range units.length) units) fun s iu =>
        s.zeroRange pl (iu.2 * 2 ^ sh) (min (2 ^ sh) (bytes - iu.1 * 2 ^ sh))
    | some l => s.each l fun s pg => match units[(pg * 65536) >>> sh]? with
        | some u => s.zeroRange pl (u * 2 ^ sh + pg * 65536 % 2 ^ sh) 65536
        | none => s
  let takes (pg : Nat) : Bool := match only with
    | none => true
    | some l => l.contains pg
  let s := s.setMem pl ((img.filter fun e => takes (e.1 / 65536)).foldl (fun m e => match units[e.1 >>> sh]? with
    | some u => Memory.write m (u * 2 ^ sh + e.1 % 2 ^ sh) e.2
    | none => m) (s.memAt pl))
  s.setPoison pl ((bad.filter fun e => takes (e.1 / 1024)).foldl (fun q e => match units[(e.1 * 64) >>> sh]? with
    | some u => SMap.set false q (u * 2 ^ (sh - 6) + e.1 % 2 ^ (sh - 6)) e.2
    | none => q) (s.poisonAt pl))

/-- A directory phase table over the context's range. -/
def Ctx.loadDir (x : Ctx) (d img : SMap U64) : SMap U64 :=
  let lo := x.stageHub * 1048576 + x.dirBase
  img.foldl (fun m e => if e.1 < x.dirSize then SMap.set 0 m (lo + e.1) e.2 else m) (SMap.clear d lo (lo + x.dirSize))

/-- Step 1: the configuration; the settings made at creation stay, order mode among them, but for the seed (R239, R295,
R305; log 90). -/
def State.loadCfg (s : State) (c : Nat) (k : Capt) : State :=
  let x := s.ctx c
  let set : Settings := { x.cfg.set with seed := k.cfg.set.seed }
  let s := { s with mem := { s.mem with dir0 := x.loadDir s.mem.dir0 k.dir0, dir1 := x.loadDir s.mem.dir1 k.dir1 } }
  s.updCtx c fun x => { x with cfg := { k.cfg with set := set }, conns := [], withdrawn := [], withdrawnCores := [] }

/-- A stream as its record restores it, with its code segment. -/
def StreamRec.stream (r : StreamRec) (old : Stream) (p : ProgStrand) (k now : Nat) : Stream :=
  { old.cleared now with
    pc := r.pc, state := r.state, e := r.e, lc := r.lc, loops := r.loops
    codeBase := p.codeBase.getD k 0, codeLen := p.codeLen.getD k 0, entry := p.entry.getD k 0 }

/-- Step 3, RESUME: scratchpads zero, cells, generations, descriptors and stream records restored. -/
def State.resumeState (s : State) (c : Nat) (k : StateShard) : State :=
  let s := s.each (s.ctx c).grid State.clearCore
  let s := s.each (List.range (s.ctx c).grid.length) fun s v =>
    match s.pcore c v with
    | none => s
    | some p => s.updCore p fun q => { q with cells := subMap k.cells (v * 256) 256 0 }
  let s := s.each (s.strandsOf c) fun s t =>
    let i := t.vc * 8 + t.st
    let pr : ProgStrand := SMap.get {} (s.ctx c).cfg.progs i
    s.updStrand t fun y =>
      let put (z : Stream) (e : Nat) : Stream :=
        match k.streams.find? fun w => w.1 = i * 3 + e with
        | some w => w.2.stream z pr e s.now
        | none => z
      { y with descs := subMap k.descs (i * 32) 32 0, gather := [], m := put y.m 0, v := put y.v 1, x := put y.x 2 }
  s.updCtx c fun x => { x with units := (k.gens.map fun e => (e.1, ({ gen := e.2 } : BarUnit))), held := [] }

/-- Step 3, RESTART: programs are loaded at the context's VCORES, semaphores are 0, barrier units reset. -/
def State.restartState (s : State) (c : Nat) : State :=
  let s := s.updCtx c fun x => { x with state := .ready }
  let s := s.each (s.streamsOf c) fun s i => s.updStream i fun x => { x.cleared s.now with state := .idle }
  let s := s.reinstall c
  s.each (s.ctx c).grid fun s p => s.updCore p fun k =>
    { k with
      cells := [], deferred := [], incs := []
      strands := k.strands.foldl (fun m e => SMap.set {} m e.1
        { e.2 with gather := [], openGroup := none, mrun := none, closing := [] }) [] }

/-- Step 4: the step number, and a context that accepts work again; glaze partials are gone (R249). -/
def State.reopen (s : State) (c : Nat) (step : U64) : State :=
  (s.forgetCloses c).updCtx c fun x =>
    { x with
      state := .ready, stopCtl := false, step := step, flags := [], pastFlags := [], openSteps := [], partials := []
      sealStep := none, sealStepNext := none, sealPrev := none, sealsMine := [], sealsPeer := []
      sealAgreed := [], noCompare := false, colls := [], disps := [], collCount := [], dispCount := [], combCount := [], swapReq := false
      heldIncs := [], holdFor := none, resume := [], arbRestore := false }

/-- What else a restore needs: room for the shards; for RESUME the state shard and the same VCORES, and for RESTART programs
that load at the context's (R57, R313). It is judged as the context stands without its suspect cores (R334). -/
def State.restorable (s : State) (c : Nat) (x : Src) (restart : Bool) : Option Refuse :=
  let t := s.dropSuspects c
  let y := t.ctx c
  if hbmBytes y.hbmUnits < x.capt.hbmBytes then some (0x06, 1)
  else if y.ddrUnits.length < x.capt.ddrUnits then some (0x06, 2)
  else if !restart && (manFlags x.man % 2 = 0 || manVcores x.man != y.vcores) then some (0x04, 1)
  else if restart then
    match (t.loadCfg c x.capt).reloadCheck c y.slices y.hbmUnits.length with
    | 0 => none
    | d => some (0x0B, d)
  else none

/-- A restore of context `c` (R313 steps 1 to 4); a suspect core leaves the context first (R334). `only` names the pages that
are written where the checkpoint is the context's own newest, on the device that took it, and the rest is skipped (R314). -/
def State.restore (s : State) (c : Nat) (x : Src) (restart : Bool) (only : Option (List Nat)) : State :=
  let s := s.dropSuspects c
  let s := s.loadCfg c x.capt
  let y := s.ctx c
  let h := x.capt.hbmBytes / 65536
  let s := s.loadUnits .hbm y.hbmUnits 34 x.capt.hbmBytes x.capt.hbm x.capt.hbmPoison (only.map fun l => l.filter (· < h))
  let s := s.loadUnits .ddr y.ddrUnits 36 (x.capt.ddrUnits * 2 ^ 36) x.capt.ddr x.capt.ddrPoison
    (only.map fun l => (l.filter (h ≤ ·)).map (· - h))
  let s := if restart then s.restartState c else s.resumeState c x.capt.state
  let s := s.reopen c x.capt.step
  s.updCtx c fun y =>
    let k := y.ckpt.rerun x.capt.step
    { y with ckpt := if only.isSome then { k with written := [] } else { k with written := [], fenceStep := none } }

/-! ### The newest checkpoint of its own area (R314, R318) -/

/-- Pages that a restore of the context's checkpoint of `step` reads and writes: those written since its fence or poisoned,
where the device has kept account since then; none names every page (R314). -/
def State.staleOf (s : State) (c : Nat) (step : U64) (n : Nat) : Option (List Nat) :=
  let x := s.ctx c
  if x.ckpt.fenceStep = some step then
    some <| (List.range n).filter fun pg =>
      SMap.get false x.ckpt.written pg || match x.pageSpot pg with
        | some (pl, o) => (s.poisonAt pl).any fun e => o / 64 ≤ e.1 && e.1 < o / 64 + 1024
        | none => false
  else none

/-- Entries of a page-wise image: those of the pages named from `m`, all others from `old`. -/
def pick {α : Type} (d : α) [DecidableEq α] (l : List Nat) (m old : SMap α) : SMap α :=
  (old.filter fun e => !l.contains (e.1 / 65536)).foldl (fun z e => SMap.set d z e.1 e.2)
    (m.filter fun e => l.contains (e.1 / 65536))

/-- A checkpoint with the pages that are not read again as the context's partitions hold them (R314). -/
def State.withKept (s : State) (c : Nat) (x : Src) (only : Option (List Nat)) : Src :=
  match only with
  | none => x
  | some l =>
    let h := x.capt.hbmBytes / 65536
    let y := s.ctx c
    { x with capt := { x.capt with
        hbm := pick 0 (l.filter (· < h)) x.capt.hbm (unitsImage s.mem.hbm y.hbmUnits 34)
        ddr := pick 0 ((l.filter (h ≤ ·)).map (· - h)) x.capt.ddr (unitsImage s.mem.ddr y.ddrUnits 36) } }

/-- Offsets of the 64 KiB pieces of an area that a restore reads: its configuration and state shards, and the stale pages
of its partitions. -/
def SlotRead.pieces (z : SlotRead) (only : Option (List Nat)) : List Nat :=
  let es := List.zip (manEntries z.man) z.ofs
  let h := (((es.filter fun e => e.1.1 = 0).map fun e => e.1.2.2).sum) / 65536
  let first (e : (Nat × Nat × Nat) × Nat) : Nat := if e.1.1 = 0 then e.1.2.1 * 2 ^ 18 else h + e.1.2.1 * 2 ^ 20
  es.flatMap fun e => ((List.range (pagesOf e.1.2.2)).filter fun p =>
    2 ≤ e.1.1 || only.all fun l => l.contains (first e + p)).map fun p => e.2 + 65536 * p

/-- Pages of the partitions that a checkpoint holds. -/
def SlotRead.pages (z : SlotRead) : Nat :=
  (((manEntries z.man).filter fun e => e.1 < 2).map fun e => pagesOf e.2.2).sum

/-- How far a restore from the context's own newest checkpoint comes: waiting for the twin, refused, or
restored. -/
inductive RestRes where
  | waiting (s : State)
  | refused (s : State) (r : Refuse)
  | restored (s : State)

/-- A checkpoint at hand is judged and restored. -/
def State.restoreFrom (s : State) (c : Nat) (x : Src) (restart : Bool) (only : Option (List Nat)) : RestRes :=
  match s.restorable c x restart with
  | some r => .refused s r
  | none =>
    match s.verify c x (s.ctx c).cfg.set.arrival with
    | some r => .refused s r
    | none => .restored (s.restore c x restart only)

/-- From the LOCAL area (R312, R314). -/
def State.restoreLocal (s : State) (c : Nat) (restart : Bool) : RestRes :=
  let u := (s.ctx c).localUnits
  let s := s.findErrs .ddr fun a => u.contains (a >>> 36)
  let m := unitsImage s.mem.ddr u 36
  match s.areaNewest c m 0 with
  | none => .refused s (0x0C, 0xFFFFFFFF)
  | some z =>
    if z.location != 0 then .refused s (0x0C, 0xFFFFFFFF)
    else
      let only := s.staleOf c (BitVec.ofNat 64 (manStep z.man)) z.pages
      let x := srcFrom s.kept m (unitsImage s.mem.ddrPoison u 30) z.man z.ofs
      s.restoreFrom c (s.withKept c x only) restart only

/-- More pieces of the twin's region are asked for. -/
def State.awaitFar (s : State) (c : Nat) (l : List Nat) : State :=
  (s.fetchFar (l.map fun o => (o, 65536))).updCtx c fun x => { x with ckpt := { x.ckpt with awaiting := x.ckpt.awaiting ++ l } }

/-- A restore that read the twin's region is over: what it had of it goes. -/
def State.dropFar (s : State) (c : Nat) : State :=
  let l := (s.ctx c).ckpt.awaiting
  let s := s.updCtx c fun x => { x with ckpt := { x.ckpt with awaiting := [] } }
  let gone (a : Nat) : Bool := l.any fun o => o ≤ a && a < o + 65536
  { s with twin := { s.twin with
    inHave := s.twin.inHave.filter fun h => !gone h.1, inMem := s.twin.inMem.filter fun e => !gone e.1
    inPoison := s.twin.inPoison.filter fun e => !gone (64 * e.1) } }

/-- From the twin's region by BREQ and BDATA frames: first the slots, then what its newest valid manifest names and is not
skipped (R312, R314, R318). -/
def State.restoreFar (s : State) (c : Nat) (restart : Bool) : RestRes :=
  let x := s.ctx c
  let base := s.buddyBase c
  if x.ckpt.awaiting.isEmpty then .waiting (s.awaitFar c ((List.range 16).map fun i => base + 65536 * i))
  else if !x.ckpt.awaiting.all fun o => s.cameFar (o, 65536) then .waiting s
  else match s.areaNewest c s.twin.inMem base with
    | none => .refused (s.dropFar c) (0x0C, 0xFFFFFFFF)
    | some z =>
      if z.location != 0 then .refused (s.dropFar c) (0x0C, 0xFFFFFFFF)
      else
        let only := s.staleOf c (BitVec.ofNat 64 (manStep z.man)) z.pages
        let more := (z.pieces only).filter fun o => !x.ckpt.awaiting.contains o
        if !more.isEmpty then .waiting (s.awaitFar c more)
        else
          let src := srcFrom s.kept s.twin.inMem s.twin.inPoison z.man z.ofs
          (s.dropFar c).restoreFrom c (s.withKept c src only) restart only

/-- A restore from the context's own newest checkpoint, in the area that its TARGET names (R295, R314, R318). -/
def State.restoreOwn (s : State) (c : Nat) (restart : Bool) : RestRes :=
  if (s.ctx c).cfg.set.target = 2 then s.restoreFar c restart else s.restoreLocal c restart

/-- The session that a context's strands report to. -/
def State.sessOf (s : State) (c : Nat) : Nat :=
  ((s.strandsOf c).findSome? fun t => (s.strand t).startedBy).getD 0

/-- A context that a verdict has restored stands on units that are not suspect: spares take the place of cores, and free
slices that of slices that keep a suspect core or have left for one (R257, R334). -/
def State.freshSlices (s : State) (c : Nat) : State :=
  let n := (s.ctx c).slices.length
  let s := s.dropSuspects c
  let bad := (s.ctx c).slices.filter fun k => (s.part.sliceCores k).any fun p => (s.core p).svc = .suspect
  let good := s.freeSlices.filter fun k => (s.part.sliceCores k).all fun p => (s.core p).svc = .serving
  let new := good.take (n - (s.ctx c).slices.length + bad.length)
  if new.isEmpty then s
  else
    let s := s.setSlices c ((s.ctx c).slices ++ new)
    s.each bad fun s k => (s.switchOut c k).switchEnd k

/-- A case of Check mode about the context is open: its results are kept from use (R256). -/
def State.disputed (s : State) (c : Nat) : Bool :=
  s.hub.arbs.any fun a => a.checker = 1 && a.ctx = c && a.verdict.isNone

/-- After a verdict the couple's TWINSIDE = 0 context, whose checkpoints stand for both, is restored from its newest one, in
RESTART mode where it no longer has its VCORES; it goes on uncompared, and the other is restored from its capture at the next
snapshot-barrier release (R257, R295, R319; DESIGN CHOICE, log 154). -/
def State.verdictRestore (s : State) (c : Nat) : State :=
  if s.aon.twinside then s
  else
    let sess := s.sessOf c
    let s := s.freshSlices c
    let back (s : State) : State := s.updCtx c fun x => { x with partnerDown := true, noCompare := true }
    match s.restoreOwn c false with
    | .waiting s => s
    | .refused _ (0x04, _) =>
      match s.restoreOwn c true with
      | .restored s => back (s.startAll c sess)
      | .waiting s => s
      | .refused s _ => s
    | .refused s _ => s
    | .restored s => back (s.resumeAll c sess)

/-- AUTO_RESTORE: a Faulted context with AUTORESTORE = 1 is restored in RESUME mode and its strands start, and so is one whose
seals disagreed, once the case has its verdict (R257, R318). -/
def execAutoRestore (c : Nat) (s : State) : Out :=
  let x := s.ctx c
  done <|
    if x.state = .faulted && x.arbRestore then s.verdictRestore c
    else if x.state = .faulted && x.cfg.set.autorestore && !s.disputed c then
      let sess := s.sessOf c
      match s.restoreOwn c false with
      | .waiting s => s
      | .refused s _ => s
      | .restored s => s.resumeAll c sess
    else s

end Sys2Proof.Machine
end

