-- ==== Sys2Proof/Machine/Resize.lean ====
section
/-! DEFINITION. Resizing and lending at a hold, and the self-test of a suspect hub engine there (11_twin_pairs
R315 to R317; 12 R341). -/

namespace Sys2Proof.Machine

/-! ### † commands (R375) -/

/-- The long operation of a context's † command ends with a status and DETAIL. -/
def State.daggerEnd (s : State) (c status detail : Nat) : State :=
  s.updCtx c fun x => { x with dagger := x.dagger.map fun d =>
    { d with ready := true, status := BitVec.ofNat 8 status, detail := BitVec.ofNat 32 detail } }

/-! ### The held context (R315, R317) -/

/-- Every stream of a context is asked to stop at an instruction boundary. -/
def State.stopAll (s : State) (c : Nat) : State := s.each (s.strandsOf c) fun s t => s.stopStrand t

/-- Streams of a context that are Running or Waiting. -/
def State.liveStreams (s : State) (c : Nat) : List StreamId :=
  (s.streamsOf c).filter fun i =>
    match (s.stream i).state with
    | .running => true
    | .waiting => true
    | _ => false

/-- Streams stopped for a hold run again, each from its own Stopped (R317, R334 step 4). -/
def State.resumeHeld (s : State) (c : Nat) : State :=
  let l := (s.ctx c).resume
  let s := s.updCtx c fun x => { x with holdFor := none, resume := [] }
  s.each l State.resumeStream

/-- The context stands still: held at its snapshot barrier, or without Running and Waiting streams. A context
without a snapshot barrier is stopped instead (R317; for a resize DEDUCED, log 93). -/
def State.standing (s : State) (c : Nat) : Bool :=
  let x := s.ctx c
  s.quiet c || (x.resize.any (·.held) && (s.streamsOf c).all fun i =>
    match (s.stream i).state with
    | .running => false
    | .waiting => x.held.contains i
    | _ => true)
    || (x.cfg.set.snapbar.isNone && !s.ctxBusy c && (s.streamsOf c).all fun i =>
      let y := s.stream i
      match y.state, y.phase with
      | .running, _ => false
      | .waiting, .waitBar _ _ => true
      | .waiting, _ => false
      | _, _ => true)

/-! ### The change of slices and units (R186, R188, R230, R316) -/

/-- The slices a request asks for: those of its mask, or its count of the present ones and the lowest free. -/
def State.wantSlices (s : State) (c : Nat) (r : Resize) : List Nat :=
  let cur := (s.ctx c).slices
  if r.mask != 0 then (List.range 16).filter fun k => bits r.mask k 1 = 1
  else if r.nslice = 0 then cur
  else (cur ++ s.freeSlices).take r.nslice

/-- The snapshot area of a context can take `n` units where it stands in the twin's buddy region (R296, R297; a resize that
it cannot follow is refused: DESIGN CHOICE, log 16). -/
def State.areaGrows (s : State) (c n : Nat) : Bool :=
  let x := s.ctx c
  let top := x.areaBase + x.cfg.set.bscratch + n
  n ≤ x.areaLen || (top ≤ s.twin.peerUnits
    && ((List.range 16).filter fun k => s.exists_ k && k != c).all fun k =>
      let p := (s.ctx k).buddyPlace
      p.2 = 0 || top ≤ p.1 || p.1 + p.2 ≤ x.areaBase)

/-- What a resize lacks, by DETAIL of NO_RESOURCE, or the HBM and DDR5 units it adds with the bands that are then
stack-local. -/
def State.resizeRoom (s : State) (c : Nat) (r : Resize) : Nat ⊕ (List Nat × List Nat × List Nat) :=
  let x := s.ctx c
  let want := s.wantSlices c r
  if want.isEmpty || !(want.all fun k => x.slices.contains k || s.freeSlices.contains k)
      || (r.mask = 0 && r.nslice != 0 && want.length != r.nslice) then .inl 0
  else match s.growHbm x.hbmUnits x.stackLocal x.stackMask (r.hbmu - x.hbmUnits.length),
      takeN s.freeDdr (r.ddru - x.ddrUnits.length) with
    | none, _ => .inl 1
    | _, none => .inl 2
    | some h, some d =>
      let y : Ctx :=
        { x with hbmUnits := x.hbmUnits.take r.hbmu ++ h.1, ddrUnits := x.ddrUnits.take r.ddru ++ d
                 grid := s.part.gridOf (sortNat want) }
      if s.areaGrows c y.areaUnits then .inr (h.1, d, h.2) else .inl 5

/-- Units leave from the tail of the lists and are zeroed (R316). -/
def State.shrinkUnits (s : State) (c hbmu ddru : Nat) : State :=
  let x := s.ctx c
  let s := s.zeroHbm (x.hbmUnits.drop hbmu)
  let s := s.zeroDdr (x.ddrUnits.drop ddru)
  s.updCtx c fun x => { x with hbmUnits := x.hbmUnits.take hbmu, ddrUnits := x.ddrUnits.take ddru }

/-- Slices of a context that a change takes from it. -/
def State.goneSlices (s : State) (c : Nat) (want : List Nat) : List Nat :=
  (s.ctx c).slices.filter fun k => !want.contains k

/-- Slices join a context (R230 step 5). -/
def State.joinSlices (s : State) (c : Nat) (want : List Nat) : State :=
  let cur := (s.ctx c).slices
  if want.all cur.contains then s else s.setSlices c (cur ++ want.filter fun k => !cur.contains k)

/-- After the change: other slices ask for the programs to be loaded again, and then the strands start; with the slices
unchanged the BARs complete, or what was stopped for the change goes on (R24, R57, R315, R317). A context that holds no
programs, or none that load at its VCORES, stays Idle. R315 speaks of VCORES alone, but R24 has every change of slices
require a load (DEDUCED, log 146). -/
def State.afterResize (s : State) (c : Nat) (before : List Nat) (sess : Nat) : State :=
  let s := s.updCtx c fun x => { x with resize := none }
  let x := s.ctx c
  if x.slices != before then
    let s := (s.updCtx c fun x => { x with held := [] }).tellCouples
    if x.cfg.loadList.isEmpty || s.reloadCheck c x.slices x.hbmUnits.length != 0 then
      (s.updCtx c fun x => { x with resume := [] }).idleStreams c
    else ((s.restartState c).reopen c x.step).startAll c sess
  else if x.cfg.set.snapbar.isSome then s.unhold c
  else s.resumeHeld c

/-- A resize of one context, once the slices that leave are switched (R315). -/
def State.resizeNow (s : State) (c : Nat) (r : Resize) : State :=
  let before := r.was.getD (s.ctx c).slices
  let sess := s.sessOf c
  match s.resizeRoom c r with
  | .inl d => (s.afterResize c before sess).daggerEnd c 6 d
  | .inr (h, d, lb) =>
    let want := s.wantSlices c r
    let s := s.shrinkUnits c r.hbmu r.ddru
    let s := { s with mem := { s.mem with bandLocal := lb } }
    let s := s.updCtx c fun x =>
      let y := { x with hbmUnits := x.hbmUnits ++ h, ddrUnits := x.ddrUnits ++ d }
      { y with areaLen := max y.areaLen y.areaUnits }
    ((s.joinSlices c want).afterResize c before sess).daggerEnd c 0 0

/-- Slices that a lend moves. -/
def Resize.lent (r : Resize) : List Nat := (List.range 16).filter fun k => bits r.mask k 1 = 1

/-- A lend moves exactly the slices and units named from donor `c`, whose slices are switched, to receiver `o`, which is
created with them if it does not exist: with the defaults of Tables 4.5 and 11.4 and its counters at 0 (R117, R122, R317). -/
def State.lendNow (s : State) (c o : Nat) (r : Resize) : State :=
  let x := s.ctx c
  let sess := s.sessOf c
  let h := x.hbmUnits.drop (x.hbmUnits.length - r.hbmu)
  let d := x.ddrUnits.drop (x.ddrUnits.length - r.ddru)
  let cb := r.was.getD x.slices
  let ob := (s.ctx o).slices
  let new := !s.exists_ o
  let so := if new then sess else s.sessOf o
  let s := s.shrinkUnits c (x.hbmUnits.length - r.hbmu) (x.ddrUnits.length - r.ddru)
  let s := if new then
      s.updCtx o fun _ => { state := .ready, cfg := { margin := marginDefault }, stackLocal := x.stackLocal } else s
  let s := s.updCtx o fun y => { y with hbmUnits := y.hbmUnits ++ h, ddrUnits := y.ddrUnits ++ d }
  let s := s.joinSlices o ((s.ctx o).slices ++ r.lent)
  let s := if new then s.freshCores o else s
  let s := s.afterResize c cb sess
  let s := s.afterResize o ob so
  s.daggerEnd c 0 0

/-! ### Suspect engines (R341) -/

/-- State of the collective (`d` = false) or dispatch engine of a hub die. -/
def Fab.engine (f : Fab) (d : Bool) (h : Nat) : EngState :=
  if d then (if h = 0 then f.disp0 else f.disp1) else (if h = 0 then f.coll0 else f.coll1)

def Fab.setEngine (f : Fab) (d : Bool) (h : Nat) (e : EngState) : Fab :=
  if d then (if h = 0 then { f with disp0 := e } else { f with disp1 := e })
  else if h = 0 then { f with coll0 := e } else { f with coll1 := e }

/-- Staging allocation and directory range of a context move to the other hub die at the same context offsets,
where there is room; what it held goes with them, and the old units are zeroed (R196, R341). -/
def State.moveHub (s : State) (c : Nat) : State :=
  let x := s.ctx c
  let h := 1 - x.stageHub
  match takeN (s.freeStage h) x.stageUnits.length, s.freeDir h x.dirSize with
  | some u, some b =>
    let s := s.findErrs .stage fun a => x.stageUnits.contains (a >>> 20)
    let s := s.each u fun s k => s.clearErrs .stage (k * 2 ^ 20) ((k + 1) * 2 ^ 20)
    let img := unitsImage s.mem.stage x.stageUnits 20
    let bad := unitsImage s.mem.stagePoison x.stageUnits 14
    let d0 := x.dirImage s.mem.dir0
    let d1 := x.dirImage s.mem.dir1
    let s := s.zeroStage x.stageUnits
    let y := { x with stageHub := h, stageUnits := u, dirBase := b }
    let put (m : Memory) (e : Nat × Byte) : Memory :=
      Memory.write m ((u.getD (e.1 >>> 20) 0) * 2 ^ 20 + e.1 % 2 ^ 20) e.2
    let putP (m : Poison) (e : Nat × Bool) : Poison :=
      SMap.set false m ((u.getD (e.1 >>> 14) 0) * 2 ^ 14 + e.1 % 2 ^ 14) e.2
    { s with
      ctxs := SMap.set {} s.ctxs c y
      mem := { s.mem with
        stage := img.foldl put s.mem.stage, stagePoison := bad.foldl putP s.mem.stagePoison
        dir0 := y.loadDir (x.loadDir s.mem.dir0 []) d0, dir1 := y.loadDir (x.loadDir s.mem.dir1 []) d1 } }
  | _, _ => s

/-- The self-test of a suspect engine that context `c` uses: its outcome is not the spec's to give (log 6). One
that fails is withheld, and contexts leave it (R341). -/
def State.selfTest (s : State) (c : Nat) : State :=
  let h := (s.ctx c).stageHub
  s.each [false, true] fun s d =>
    if s.fab.engine d h = .suspect then
      let fails := (Config.freeWord s.freeCtr).getLsbD 0
      let s := s.takeFree
      if fails then
        let s := { s with fab := s.fab.setEngine d h .withheld }
        let s := s.raise { event := 0x0B, unit := if d then 3 else 2, die := 4 + h }
        s.moveHub c
      else { s with fab := s.fab.setEngine d h .serving }
    else if s.fab.engine d h = .withheld then s.moveHub c
    else s

/-- What keeps a change from being made, by status and DETAIL: NO_RESOURCE, or programs that would not load at the new
VCORES (R57, R315). -/
def State.resizeRefused (s : State) (c : Nat) (r : Resize) : Option (Nat × Nat) :=
  match r.other with
  | none =>
    match s.resizeRoom c r with
    | .inl d => some (6, d)
    | .inr _ =>
      let want := sortNat (s.wantSlices c r)
      if want = (s.ctx c).slices then none
      else match s.reloadCheck c want r.hbmu with
        | 0 => none
        | d => some (0x0B, d)
  | some o =>
    let x := s.ctx c
    match s.reloadCheck c (x.slices.filter fun k => !r.lent.contains k) (x.hbmUnits.length - r.hbmu) with
    | 0 => match (if r.lent.isEmpty then 0 else s.reloadCheck o ((s.ctx o).slices ++ r.lent) (s.ctx o).hbmUnits.length) with
      | 0 => none
      | d => some (0x0B, d)
    | d => some (0x0B, d)

/-- A change that is not made: the contexts go on as they are (R315, R317). -/
def State.resizeDrop (s : State) (c : Nat) (r : Resize) (e : Nat × Nat) : State :=
  let s := s.afterResize c (s.ctx c).slices 0
  let s := match r.other with
    | some o => if s.exists_ o then s.afterResize o (s.ctx o).slices 0 else s
    | none => s
  s.daggerEnd c e.1 e.2

/-- The change of a context that stands still: the slices that leave are switched first, which CONTEXT_SWITCH_CLEAR_DONE
ends; with none left to switch, slices and units join and the contexts go on (R230, R315 to R317). -/
def State.resizeStep (s : State) (c : Nat) (r : Resize) : State :=
  let gone := match r.other with
    | none => s.goneSlices c (s.wantSlices c r)
    | some _ => r.lent.filter (s.ctx c).slices.contains
  let finish (s : State) (r : Resize) : State :=
    match r.other with
    | none => s.resizeNow c r
    | some o => s.lendNow c o r
  if r.was.isSome then (if gone.isEmpty then finish s r else s)
  else match s.resizeRefused c r with
    | some e => s.resizeDrop c r e
    | none =>
      let s := s.selfTest c
      let r := { r with was := some (s.ctx c).slices }
      if gone.isEmpty then finish s r
      else (s.updCtx c fun x => { x with resize := some r }).switchAll c gone

/-- RESIZE_HOLD: with the context held, Hokunuon makes the change and lets it go on (R315 to R317). -/
def execResizeHold (c : Nat) (s : State) : Out :=
  done <| match (s.ctx c).resize with
  | none => s
  | some r =>
    if r.receiver then s
    else
      let stop (s : State) (k : Nat) : State :=
        if s.exists_ k && !s.standing k && (s.ctx k).cfg.set.snapbar.isNone then
          let l := s.liveStreams k
          (s.updCtx k fun x => { x with resume := x.resume ++ l.filter fun i => !x.resume.contains i }).stopAll k
        else s
      let s := stop s c
      let s := match r.other with
        | some o => stop s o
        | none => s
      let free : Bool := match r.other with
        | some o => !s.exists_ o || s.standing o
        | none => true
      if s.standing c && free then s.resizeStep c r else s

end Sys2Proof.Machine
end

