-- ==== Sys2Proof/Machine/Errors.lean ====
section
/-! DEFINITION. Parity errors, substitution holds, arbitration verdicts, proofing and row repair
(12_silent_errors R327 to R341; 09 R256 to R258). -/

namespace Sys2Proof.Machine

/-! ### Datapath parity (R327) -/

/-- Data in transit: every granule it reaches is poisoned, and one memory event tells of it, as of an uncorrectable store
error; the core in which the error lies is suspect (R327, R328). -/
def State.parityData (s : State) (l : List MemErr) (core : Option Nat) : State :=
  let s := s.each l fun s e => match Place.ofStore e.store with
    | some pl => s.markGranule pl (e.addr / 64) true
    | none => s
  let s := match core with
    | some p => s.suspectCore p
    | none => s
  match l.head? with
  | none => s
  | some e =>
    let v := s.memEv 8 e.store e.addr
    s.raise (match core with
      | some p => s.evCore p v
      | none => { v with unit := 0, die := 0xFF, loc := BitVec.allOnes 64 })

/-- A collective or dispatch engine: each of its open instances ends, and it is suspect (R277, R327, R328). -/
def State.parityEngine (s : State) (d : Bool) (h : Nat) : State :=
  let s := s.each ((List.range 16).filter fun c => s.exists_ c && (s.ctx c).stageHub = h) fun s c =>
    let x := s.ctx c
    if d then s.each (x.disps.filter fun y => !y.ended) fun s y => s.dispEnd c y
    else s.each x.colls fun s y => s.collEnd c y
  let s := if s.fab.engine d h = .serving then { s with fab := s.fab.setEngine d h .suspect } else s
  s.raise { event := 8, unit := if d then 3 else 2, die := 4 + h }

/-- A suspect core that serves in no slice has no context to leave: it is in proofing at once (R334; DEDUCED, log 127). -/
def State.retestIdle (s : State) (p : Nat) : State :=
  if (s.core p).svc = .suspect && (s.ownerOf p).isNone && (s.part.sliceOf p).isNone then
    s.updCore p fun k => { k with svc := .proofing, voff := 0, foff := 0, proofs := [] }
  else s

/-- DATAPATH_PARITY_ERROR (R327). -/
def execDatapathParityError (p : ParityAt) (s : State) : Out :=
  done <| match p with
  | .data _ l p => s.parityData l p
  | .stream i =>
    match s.pcore i.ctx i.vc with
    | some q =>
      let s := s.suspectCore q
      s.controlError i.ctx (s.evCore q { event := 9, vcore := i.vc, strand := i.st, stream := i.eng.num })
    | none => s
  | .barrier c b => s.controlError c { event := 9, unit := 7, loc := BitVec.ofNat 64 b }
  | .core q =>
    let s := s.suspectCore q
    match s.ownerOf q with
    | some (c, _) => s.controlError c (s.evCore q { event := 9 })
    | none => (s.retestIdle q).raise (s.evCore q { event := 8 })
  | .coll h => s.parityEngine false h
  | .disp h => s.parityEngine true h
  | .dir c => s.controlError c { event := 9, unit := 3, die := 4 + (s.ctx c).stageHub }

/-! ### Substitution holds (R334) -/

/-- Every stream stands at a boundary, or in a barrier, and nothing runs. -/
def State.atRest (s : State) (c : Nat) : Bool :=
  !s.ctxBusy c && (s.streamsOf c).all fun i =>
    let y := s.stream i
    match y.state, y.phase with
    | .running, _ => false
    | .waiting, .waitBar _ _ => true
    | .waiting, .complete => true
    | .waiting, _ => false
    | _, _ => true

/-- SUBSTITUTION_HOLD: 10 ms after a core became suspect its context is stopped, and then the core moves to a
spare or its slice leaves (R334). A context whose only slice it is keeps it (DESIGN CHOICE, log 145). -/
def execSubstitutionHold (pc : Nat) (s : State) : Out :=
  done <| match s.ownerOf pc with
  | none => s
  | some (c, _) =>
    let x := s.ctx c
    if (s.core pc).svc != .suspect || s.now - (s.core pc).suspectAt < 10 * msCycles || !x.state.isReady
        || x.subst.any (fun e => e.1 = pc) then s
    else if x.slices.length ≤ 1 && (s.spareQuad pc).isNone then s
    else if x.holdFor.isNone then
      let l := s.liveStreams c
      (s.updCtx c fun x => { x with holdFor := some pc, resume := l }).stopAll c
    else if x.holdFor = some pc && s.atRest c then
      match s.spareQuad pc with
      | some _ => s.updCtx c fun x => { x with subst := x.subst ++ [(pc, s.now)] }
      | none =>
        match s.part.sliceOf pc with
        | none => s
        | some k => s.switchAll c [k]
    else s

/-- CONTEXT_SWITCH: Hokunuon moves a slice while no stream of its context is Running or Waiting (R230). -/
def execContextSwitch (c slice : Nat) (s : State) : Out :=
  done <|
    if s.exists_ c && (s.ctx c).slices.contains slice && s.quiet c && !(s.hub.clearing.any fun e => e.1 = slice) then
      s.switchOut c slice
    else s

/-- CONTEXT_SWITCH_CLEAR_DONE: 1,024 cycles after step 2 the clear has finished (R230). A context that was stopped for it to
lose a suspect core's slice is then restarted on the others (R334). -/
def execContextSwitchClearDone (slice : Nat) (s : State) : Out :=
  done <| match s.hub.clearing.find? fun e => e.1 = slice with
  | none => s
  | some e =>
    let c := e.2.1
    if s.now - e.2.2 < 1024 then s
    else
      let s := s.switchEnd slice
      if s.exists_ c && (s.ctx c).holdFor.any fun p => !(s.ctx c).grid.contains p then
        (s.updCtx c fun x => { x with holdFor := none, resume := [] }).afterResize c [] (s.sessOf c)
      else s

/-! ### Arbitration (R256 to R258, R331) -/

/-- A third core of the die: a working spare that does not serve, or a core in proofing (R256). -/
def State.thirdCore (s : State) (p : Nat) : Option Nat :=
  let n := coreDie p
  match [0, 1, 2, 3].find? fun q => s.spareFree n q && s.part.spareCore n q != p with
  | some q => some (s.part.spareCore n q)
  | none => ((List.range 68).map (68 * n + ·)).find? fun k => (s.core k).svc = .proofing

/-- The verdict of Table 9.8. -/
def verdictOf (avail : Bool) (t : Third) : Nat :=
  if !avail then 3
  else match t with
    | .agreesProducer => 0
    | .agreesChecker => 1
    | .neither => 2
    | .none => 3
    | .failed => 4
    | .sealed _ => 2

/-- A core that a verdict names is suspect, with the case among those that it is retested on (R328, R335). -/
def State.suspectBy (s : State) (p case : Nat) : State :=
  if p < 272 then (s.suspectCore p).updCore p fun k => { k with cases := k.cases ++ [case] } else s

/-- Units of this device's party in a case of Check mode become suspect: the engines whose landings alone disagree, or else
the cores that its context ran on (R255, R328). -/
def State.suspectParty (s : State) (a : Arb) : State :=
  if a.engines.isEmpty then s.each a.cores fun s p => s.suspectBy p a.case
  else
    let h := (s.ctx a.ctx).stageHub
    s.each a.engines fun s d =>
      if s.fab.engine d h = .serving then { s with fab := s.fab.setEngine d h .suspect } else s

/-- The third's result against each party's, all 32 bytes of every record. The twin tells of a seal only the records with
CHK = 1, so those of the third are held against them (R251, R256 step 3). -/
def Arb.compare (a : Arb) : Third → Third
  | .sealed l =>
    let all := l.flatMap (·.bytes)
    let chk := (l.filter (·.chk)).flatMap (·.bytes)
    let p := a.outs.getD 0 [] == (if a.produces then all else chk)
    let c := a.outs.getD 1 [] == (if a.produces then chk else all)
    if p then .agreesProducer else if c then .agreesChecker else .neither
  | t => t

/-- What the third wrote. -/
def thirdOut : Third → List Byte
  | .sealed l => l.flatMap (·.bytes)
  | _ => []

/-- The images of a stopped couple run on the third set: one slice under a nonzero LKEY, else the VCORES that they had
(R237, R256, Table 9.8). -/
def State.thirdNeeds (s : State) (c : Nat) : Option Nat :=
  let x := s.ctx c
  if x.cfg.lkey = 0 then some x.slices.length
  else if s.reloadCheck c (x.slices.take 1) x.hbmUnits.length = 0 then some 1
  else none

/-- The slices of the third run in Check mode: on the twin with more free slices, or on the TWINSIDE = 0 twin where they have
the same number. Those of this device, or none of them where the run is the twin's (R256 step 2). -/
def State.thirdSlices (s : State) (c : Nat) : Option (List Nat) :=
  match s.thirdNeeds c with
  | none => none
  | some n =>
    let mine := s.freeSlices
    let far := s.twin.peerFree
    if n ≤ mine.length && (far < mine.length || far < n || (far = mine.length && !s.aon.twinside)) then some (mine.take n)
    else if n ≤ far then some []
    else none

/-- The context of the pair to shrink by one slice, so that a third slice is free: the lowest PRIO outside the couple, of
this device (true) or the twin, and among equals the TWINSIDE = 0 twin's and then the lowest number (R256; DESIGN CHOICE,
log 154). -/
def State.shrinkFor (s : State) (c : Nat) : Option (Bool × Nat) :=
  let here := (List.range 16).filter fun k => s.exists_ k && k != c && 2 ≤ (s.ctx k).slices.length
  let there := (List.range 16).filter fun k =>
    (s.twin.peer k).partner != 0xFF && (s.ctx c).cfg.set.partner != some k && 32 ≤ (s.twin.peer k).vcores
  let all : List (Nat × Bool × Nat) :=
    (if s.aon.twinside then [] else here.map fun k => ((s.ctx k).cfg.set.prio, true, k))
      ++ there.map (fun k => ((s.twin.peer k).prio, false, k))
      ++ (if s.aon.twinside then here.map fun k => ((s.ctx k).cfg.set.prio, true, k) else [])
  (all.foldl (fun (m : Option (Nat × Bool × Nat)) e => if m.all fun z => e.1 < z.1 then some e else m) none).map Prod.snd

/-- A slice has to be freed before the third run: its context of this device begins to shrink, or the twin's does; nothing to
free, or images that do not run on one slice, leave the case undecided (R256, R315). -/
def State.freeThird (s : State) (c : Nat) : Option State :=
  if s.thirdNeeds c != some 1 then none
  else match s.shrinkFor c with
    | none => none
    | some (false, _) => some s
    | some (true, k) =>
      some <| s.updCtx k fun x =>
        if x.resize.isSome then x
        else { x with resize := some ⟨bitSet x.slices.dropLast, 0, x.hbmUnits.length, x.ddrUnits.length, none, false, false, none⟩ }

/-- The replay record of the last agreed state, for the case bundle (R258). -/
def State.caseRecord (s : State) (c : Nat) : List Byte :=
  let x := s.ctx c
  match x.ckpt.newest with
  | some b => slice (x.ckpt.slot b).manifest 0x80 304
  | none => s.replayRec c

/-- The verdict on a tile product: a third core of the die has recomputed it. Under PRODUCER_GOOD the poison that the case
alone left is cleared, once no other case holds it, and a close still to come writes none; then the signal is released
(R256, R257, R331). -/
def State.tileVerdict (s : State) (a : Arb) (third : Third) : State :=
  let t3 := s.thirdCore a.producer
  let v := verdictOf t3.isSome third
  let s := if v = 0 || v = 2 || v = 4 then s.suspectBy a.checkerCore a.case else s
  let s := if v = 1 || v = 2 || v = 4 then s.suspectBy a.producer a.case else s
  let s := match t3 with
    | some p => if v = 4 then (s.suspectBy p a.case).retestIdle p else s
    | none => s
  let a' : Arb := { a with verdict := some v, record := s.caseRecord a.ctx, third := t3, thirdCores := t3.toList }
  let s := s.mapArbs fun z => if z.case = a.case then a' else z
  let mates := s.hub.arbs.filter fun z => z.checker = 0 && z.t = a.t && z.gid = a.gid
  let s :=
    if mates.all fun z => z.verdict = some 0 then
      match s.pcore a.t.ctx a.t.vc with
      | some p => s.each a.granules fun s g => s.markGranule (.scratch p) g false
      | none => s
    else s
  let s := s.mFinish a.t
  s.raise (s.evCore (if v = 0 then a.checkerCore else a.producer)
    { event := 0x0F, verdict := v, ctx := a.ctx, case := BitVec.ofNat 64 a.case, vcore := a.t.vc, strand := a.t.st })

/-- The verdict on a seal: units of this device's party are suspect where it is named, and so is the third set under
THIRD_FAILED where it is this device's; the context is then restored from the last agreed state (R256, R257). -/
def State.sealVerdict (s : State) (a : Arb) (slices : Option (List Nat)) (third : Third) : State :=
  let v := verdictOf slices.isSome (a.compare third)
  let named : Bool := v = 2 || v = 4 || (v = 1 && a.produces) || (v = 0 && !a.produces)
  let s := if named then s.suspectParty a else s
  let cores := ((slices.getD []).flatMap s.part.sliceCores)
  let s := if v = 4 then s.each cores fun s p => s.suspectBy p a.case else s
  let a' : Arb := { a with
    verdict := some v, record := s.caseRecord a.ctx, outs := a.outs ++ [thirdOut third], thirdCores := cores }
  let s := s.mapArbs fun z => if z.case = a.case then a' else z
  let s := if s.exists_ a.ctx then s.updCtx a.ctx fun x => { x with arbRestore := true } else s
  s.raise { event := 0x0F, verdict := v, ctx := a.ctx, case := BitVec.ofNat 64 a.case }

/-- ARBITRATION_VERDICT: a third computation has ended. A seal's waits until its context is quiescent, and until a slice that
has to be freed for the third run is free (R256, R257, R331). -/
def execArbitrationVerdict (case : Nat) (third : Third) (s : State) : Out :=
  done <| match s.hub.arbs.find? fun a => a.case = case with
  | none => s
  | some a =>
    if a.verdict.isSome then s
    else if a.checker = 0 then s.tileVerdict a third
    else if (s.ctx a.ctx).state.isStopping then s
    else match s.thirdSlices a.ctx with
      | some l => s.sealVerdict a (some l) third
      | none =>
        match s.freeThird a.ctx with
        | some t => t
        | none => s.sealVerdict a none third

/-! ### Proofing (R335 to R339) -/

/-- The VDD_CORE rail of a core: the even rail of its die feeds local cores 0 to 33 (Table 16.1). -/
def coreRail (p : Nat) : Nat := 2 * coreDie p + (if coreLocal p < 34 then 0 else 1)

/-- Cores of a rail, other than `p`, that carry a voltage offset (R336). -/
def State.offsetsOn (s : State) (p : Nat) : Nat :=
  ((List.range 272).filter fun k => coreRail k = coreRail p && k != p && (s.core k).voff != 0).length

/-- The unit record verifies under this part's checkpoint key. -/
def State.unitOk (s : State) : Bool :=
  !s.flash.unit.isEmpty && s.vault.valid && ecVerifyObj (ecPub s.vault.ckpt.toNat) s.flash.unit

/-- The unit record: standing offsets, which a core in proofing has none of, signed with the checkpoint key (R339, R395;
log 12). -/
def State.unitRecord (s : State) : List Byte :=
  let b := (List.range 272).flatMap fun p =>
    let k := s.core p
    if k.svc = .proofing || (k.voff = 0 && k.foff = 0) then [] else leBytes 2 p ++ leBytes 1 k.voff ++ leBytes 1 k.foff
  if s.canSign then b ++ ecSigBytes s.vault.ckpt.toNat b else b

/-- The spare that serves in a core's place. -/
def Part.spareFor (x : Part) (p : Nat) : Option Nat :=
  [0, 1, 2, 3].find? fun q => x.replaced (coreDie p) q = some (coreLocal p)

/-- A retirement is burned: die, quadrant spare that serves in the core's place, local index (R339). -/
def State.retire (s : State) (p : Nat) : State :=
  let q := (s.part.spareFor p).getD 4
  let s := { s with part := { s.part with retired := s.part.retired ++ [(coreDie p, q, coreLocal p)] } }
  let s := s.updCore p fun k => { k with svc := .retired, voff := 0, foff := 0 }
  let s : State := if s.unitOk then { s with flash := { s.flash with unit := s.unitRecord } } else s
  s.raise (s.evCore p { event := 0x0B })

/-- 90 days in cycles (R337). -/
def days90 : Nat := 90 * dayCycles

/-- Voltage and clock offset of a proofing setting (Table 12.5). -/
def setVoff (n : Nat) : Nat := min 3 n
def setFoff (n : Nat) : Nat := n - 3

/-- A pass of the retest gave every expected bit: the suite's, and those of every captured case that made the core suspect
(R335, R338). -/
def Core.good (k : Core) (p : ProofPass) : Bool := p.suite && k.cases.all p.cases.contains

/-- How far the retest has come: the setting that passed, with three consecutive passes; the setting under test; or, with
7, that every setting failed. A pass that is not good fails its setting (R335). -/
def Core.proofAt (k : Core) : Nat → Nat → Nat × Bool
  | 0, n => (n, false)
  | fuel + 1, n =>
    let l := k.proofs.filter (·.setting = n)
    if l.any fun p => !k.good p then k.proofAt fuel (n + 1)
    else (n, decide (3 ≤ l.length))

/-- PROOFING_END: passes of a core's retest have been made. The settings are tested in the order of Table 12.5 and the first
that passes decides, or the failure of the last; until then the core stands at the setting under test, and where it would be
the fifth of its rail with a voltage offset it waits at setting 0 (R335 to R338). -/
def execProofingEnd (pc : Nat) (passed : List ProofPass) (s : State) : Out :=
  let k := s.core pc
  let mine (a : Arb) : Bool := k.cases.contains a.case && a.verdict.any fun v => 2 ≤ v
  let ems := (s.hub.arbs.filter mine).map (·.emulator)
  let again : Bool := match SMap.get none s.flash.released pc with
    | some t => decide (k.suspectAt - t < days90)
    | none => false
  let k' := { k with proofs := k.proofs ++ passed }
  let (n, done_) := k'.proofAt 7 0
  let vo := if n < 7 && done_ then setVoff n else 0
  let fo := if n < 7 && done_ then setFoff n else 0
  let pr := if n < 7 && done_ then 2 ^ n else 0
  let report (s : State) : State := s.raise (s.evCore pc { event := 0x0A, vofs := vo, fofs := fo, presult := pr })
  let release (s : State) : State :=
    let s := s.updCore pc fun k =>
      { k with svc := .released, voff := vo, foff := fo, cases := [], proofs := [] }
    report { s with flash := { s.flash with
      unit := s.unitRecord, released := SMap.set none s.flash.released pc (some s.now) } }
  done <|
    if k.svc != .proofing then s
    else if again then report (s.retire pc)
    else if (passed.any fun p => p.setting != 0) && 4 ≤ s.offsetsOn pc then s
    else
      let t := s.updCore pc fun _ => k'
      if n < 7 && !done_ then t.updCore pc fun k => { k with voff := setVoff n, foff := setFoff n }
      else if ems.contains none then t
      else if ems.any (fun e => e.any fun l => l.contains pc) then report (t.retire pc)
      else if n = 7 then report (t.retire pc)
      else if 4 ≤ n && (s.part.sliceOf pc).isNone then report (t.retire pc)
      else release t

/-! ### Rows (R340) -/

/-- ROW_REPAIR: a suspect row is read, repaired and written back with its poison bits; with no repair resource left a
replacement event names it and it stays suspect (R328, R340). -/
def execRowRepair (row : RowId) (repaired : Bool) (s : State) : Out :=
  let st : Store := if row.hbm then .hbm else .ddr
  let inRow (e : MemErr) : Bool := e.store = st && row.base ≤ e.addr && e.addr < row.base + row.len
  done <|
    let r := s.rowAt row.hbm row.base
    let loc := BitVec.ofNat 64 r
    let ev : Ev := { event := 0x0B, unit := if row.hbm then 4 else 5, loc := loc
                     die := if row.hbm then row.unit / 3 else 4 + row.unit / 8 }
    if !s.mem.suspectRows.contains (row.hbm, r) then s
    else if repaired then
      let s := s.each (s.mem.latent.filter inRow) State.foundErr
      let s := { s with mem := { s.mem with 
        rowErrs := s.mem.rowErrs.filter fun t => !(t.1 = row.hbm && t.2.1 = r)
        suspectRows := s.mem.suspectRows.filter fun t => t != (row.hbm, r) } }
      s.raise ev
    else (s.tell 0x340 [row.unit, row.base]).raise ev

end Sys2Proof.Machine
end

