-- ==== Sys2Proof/Machine/Twin.lean ====
section
/-! DEFINITION. The twin link: frames received, timers, silence, and the loss of the twin (11_twin_pairs R288 to
R294, R319 to R321; 08 R226; 10 R269). -/

namespace Sys2Proof.Machine

/-! ### Frames in (R289 to R292) -/

/-- ASEQ acknowledges every frame before it; what depends on one goes on (R291). -/
def State.twinAcked (s : State) (aseq : U32) : State :=
  let gone := s.twin.unacked.filter fun u => 2 ^ 31 ≤ (u.seq - aseq).toNat
  if gone.isEmpty then s
  else
    let w : Twin := { s.twin with
      unacked := s.twin.unacked.filter fun u => (u.seq - aseq).toNat < 2 ^ 31, progressAt := s.now, rounds := 0 }
    let s := State.twinGo { s with twin := w } twinWindow
    s.each gone fun s u => match u.dep with
      | some d => s.depAcked d
      | none => s

def State.twinDrop (s : State) : State := { s with twin := { s.twin with twldrop := s.twin.twldrop + 1 } }

/-- Assigned channels (Table 11.2). -/
def twinChan (c : Byte) : Bool := [0, 1, 2, 3, 4, 5, 6, 7, 8].contains c.toNat

/-- Channels that an unpaired link carries (R288). -/
def unpairedChan (c : Byte) : Bool := [0, 3, 6, 7].contains c.toNat

/-- A frame arrives on channel `chan`; `apply` gives its effect, and none where the effect cannot be completed
yet, so that ASEQ stays (R291). A frame of another channel is no frame of this command (log 1). -/
def State.twinIn (s : State) (f : TwinFrame) (chan : Byte) (apply : State → Option State) : State :=
  if !s.twin.up then s
  else if !f.crcOk || f.ver != 1 || !twinChan f.chan then s.twinDrop
  else if f.chan != chan then s
  else if !s.twin.paired && !unpairedChan f.chan then s.twinDrop
  else
    let s := { s with twin := { s.twin with lastRx := s.now, silent := false } }
    let s := s.twinAcked f.aseq
    if chan = 0 then s
    else if f.seq != s.twin.rxSeq then s
    else match apply s with
      | some t => { t with twin := { t.twin with rxSeq := t.twin.rxSeq + 1 } }
      | none => s

/-! ### The pairing exchange (R18, R293, R294) -/

/-- Contexts this device holds. -/
def State.nctxs (s : State) : Nat := ((List.range 16).filter fun c => s.exists_ c).length

/-- What a device tells its twin of itself (log 12). -/
def State.pairRecord (s : State) : List Byte :=
  leBytes 2 s.part.part.toNat ++ [s.part.stepping, if s.aon.twinside then 1 else 0] ++ leBytes 16 nsig
    ++ leBytes 4 s.fab.fabdev.toNat ++ leBytes 1 s.nctxs ++ [if s.mem.ddrGib = 0 then 0 else 1]
    ++ leBytes 1 s.twin.region.length ++ leBytes 1 s.twin.mode ++ s.vault.ckptPub
    ++ leBytes 1 ((List.range 16).filter fun c => (s.ctx c).ckpt.copying.isSome).length

/-- Takes the twin's record. -/
def State.takeRecord (s : State) (p : List Byte) : State :=
  { s with twin := { s.twin with
    peerPart := BitVec.ofNat 16 (fld p 0 2), peerSide := decide (fld p 3 1 = 1), peerSig := BitVec.ofNat 128 (fld p 4 16)
    peerDev := BitVec.ofNat 32 (fld p 20 4), peerCtxs := fld p 24 1, peerDdr := decide (fld p 25 1 = 1)
    peerUnits := fld p 26 1, peerCkpt := (p.drop 28).take 97
    peerCopy := fld p 125 1 } }

/-- Takes what the twin tells of its contexts. -/
def State.takeCouples (s : State) (p : List Byte) : State :=
  let l := (List.range 16).map fun c =>
    let o := 13 * c
    (⟨fld p o 1, decide (fld p (o + 1) 1 = 1), BitVec.ofNat 64 (fld p (o + 4) 8), fld p (o + 2) 2, fld p (o + 12) 1⟩ : PeerCtx)
  { s with twin := { s.twin with peerMap := l, peerFree := fld p 208 1 } }

/-- This device's two records, in answer or of its own accord; the pairing waits for the second (R18). -/
def State.sendRecords (s : State) (cmd : Nat) (kind : Byte) : State :=
  (s.hokSend 0x1009 2 s.coupleRecord).hokSend cmd kind s.pairRecord

/-- Tells the twin of this device again. -/
def State.tellTwin (s : State) : State := if s.twin.up then s.sendRecords 0x1002 1 else s

/-- The context of this device whose partner is the twin's context `n` (R294). -/
def State.partnerOf (s : State) (n : Nat) : Option Nat :=
  (List.range 16).find? fun c => s.exists_ c && (s.ctx c).cfg.set.partner = some n

/-- Bytes of the active flash copy (R288, R389). -/
def Flash.selValid (l : List Byte) : Bool := 16 ≤ l.length && fld l 12 4 = (crc32c (l.take 12)).toNat

/-- The active copy is B: the valid selector with the higher GEN names it; without a valid selector it is A (R389; DESIGN
CHOICE, log 158). -/
def Flash.activeB (x : Flash) : Bool :=
  match Flash.selValid x.sel0, Flash.selValid x.sel1 with
  | true, false => fld x.sel0 8 1 = 1
  | false, true => fld x.sel1 8 1 = 1
  | true, true => if fld x.sel0 0 8 < fld x.sel1 0 8 then fld x.sel1 8 1 = 1 else fld x.sel0 8 1 = 1
  | false, false => false
def Flash.active (x : Flash) : List Byte := if x.activeB then x.copyB else x.copyA

/-- BDATA frames of the twin's boot image at image offsets (R288, R390). -/
def State.sendImage (s : State) : State :=
  let l := s.flash.active
  let ps := chunksOf 4096 (l.length + 1) l
  let s := s.each (List.range ps.length) fun s k => s.twinSend 0x03 (BitVec.ofNat 64 (4096 * k)) (ps.getD k []) 0 none
  s.hokSend 0x1006 2 (leBytes 8 l.length)

/-- A couple's context restored from its partner's capture (R319). -/
def State.restorePartner (s : State) (n : Nat) : State :=
  match s.partnerOf n with
  | none => s
  | some c =>
    let src := srcPartner s.kept s.twin.inMem s.twin.inPoison
    let s := { s with twin := { s.twin with inMem := [], inPoison := [], inHave := [] } }
    let s := if (s.ctx c).arbRestore && (s.ctx c).state = .faulted then s.freshSlices c else s
    let sess := s.sessOf c
    if (s.ctx c).state = .faulted && (s.verify c src (s.ctx c).cfg.set.arrival).isNone
        && (s.restorable c src false).isNone then
      (s.restore c src false none).resumeAll c sess
    else s

/-- The first channel from a twin steward to a steward of this device. -/
def State.twinChanIn (s : State) : Option Nat :=
  (List.range 64).find? fun n =>
    let b := s.bind n
    bindValid b && 12 ≤ bindSrc b && bindSrc b < 16 && 8 ≤ bindDst b && bindDst b < 12

/-- A CTRL frame: a steward message into a T → S channel, a message between the Hokunuons, or a notice about a
channel (R290, R353, R358). It waits while its channel is full. Messages between the Hokunuons reach this one only where a
channel from the twin is bound, but for those of the boot image, which a device asks for before it has a binding table
(R15, R288). -/
def State.takeCtrl (s : State) (l : List Byte) : Option State :=
  if l.length < 16 then
    some (s.emit (.stewardIrq (s.hub.server 0) 0 (BitVec.ofNat 32 (fld l 0 4))))
  else
    let m := Msg.parse l
    let p := m.payload
    let n := fld p 0 1
    let hok : Bool := m.cmd.toNat / 256 = 0x10
    if hok && m.cmd != 0x1003 && m.cmd != 0x1006 && s.twinChanIn.isNone then some s
    else if m.cmd = 0x1001 then some ((s.takeRecord p).sendRecords 0x1002 1)
    else if m.cmd = 0x1009 then some (s.takeCouples p)
    else if m.cmd = 0x100A then some { s with twin := { s.twin with peerCopy := n } }
    else if m.cmd = 0x1002 then some (s.takeRecord p)
    else if m.cmd = 0x1003 then some s.sendImage
    else if m.cmd = 0x1004 then
      some (match s.partnerOf n with
        | some c => s.updCtx c fun x => { x with partnerDown := true, noCompare := true }
        | none => s)
    else if m.cmd = 0x1005 then some (s.restorePartner n)
    else if m.cmd = 0x1007 then
      let e : Nat × Nat := (n, fld p 1 8)
      some { s with twin := { s.twin with peerDrained := s.twin.peerDrained ++ [e] } }
    else if m.cmd = 0x1006 then
      some { s with twin := { s.twin with imageTop := fld p 0 8 } }
    else match s.twinChanIn with
      | none => some s
      | some c =>
        let r := s.post c m none
        match r.2 with
        | .full => none
        | _ => some r.1

/-- TWIN_CTRL_FRAME (R288, R290). -/
def execTwinCtrlFrame (f : TwinFrame) (s : State) : Out := done <| s.twinIn f 0x07 fun s => s.takeCtrl f.payload

/-- TWIN_TIME_FRAME: with the twin as its source, the time base follows the twin's, which is AUX and the frame's flight
further on, within 1.06 ns; any other device answers with its own time (R226; the exchange is the twin-link protocol's, and
the flight a free value: DESIGN CHOICE, log 147). -/
def execTwinTimeFrame (f : TwinFrame) (s : State) : Out :=
  done <| s.twinIn f 0x06 fun s => some <|
    if s.aon.tsource = 0 then
      let flight : U64 := ((Config.freeWord s.freeCtr).setWidth 32).setWidth 64
      s.takeFree.syncTime (f.aux + flight) 1085
    else s.twinSend 0x06 0 [] 0 none

/-- TWIN_SEAL_FRAME: segments of a seal of the partner, compared once the last is in (R251, R290). -/
def execTwinSealFrame (f : TwinFrame) (s : State) : Out :=
  done <| s.twinIn f 0x04 fun s =>
    let k := bits f.aux.toNat 0 32
    let sofar := if bits f.aux.toNat 32 16 = 0 then [] else ((s.twin.sealSeg.find? fun e => e.1 = k).map Prod.snd).getD []
    let all := sofar ++ f.payload
    let rest := s.twin.sealSeg.filter fun e => e.1 != k
    if f.aux.getLsbD 48 then
      let s := { s with twin := { s.twin with sealSeg := rest } }
      some (match s.partnerOf (bits f.aux.toNat 0 16) with
        | none => s
        | some c =>
          let no := bits f.aux.toNat 16 16
          (s.updCtx c fun x => { x with sealsPeer := x.sealsPeer ++ [(no, all)] }).compareSeals c no)
    else some { s with twin := { s.twin with sealSeg := rest ++ [(k, all)] } }

/-! ### Fabric messages over the twin link (R269) -/

/-- A fabric message as its FAB frames spell it. -/
def fabOf (l : List Byte) (mask : BitVec 128) : FabFrame :=
  let u (o n : Nat) : Nat := fld l o n
  { ver := BitVec.ofNat 8 (u 0 1), typ := BitVec.ofNat 8 (u 1 1), flags := BitVec.ofNat 8 (u 2 1)
    status := BitVec.ofNat 8 (u 3 1), srcdev := BitVec.ofNat 32 (u 4 4), dstdev := BitVec.ofNat 32 (u 8 4)
    srcep := BitVec.ofNat 16 (u 12 2), dstep := BitVec.ofNat 16 (u 14 2), srcctx := BitVec.ofNat 8 (u 16 1)
    dstctx := BitVec.ofNat 8 (u 17 1), epoch := BitVec.ofNat 32 (u 20 4), psn := 0, apsn := 0, sack := 0
    w0 := BitVec.ofNat 64 (u 40 8), w1 := BitVec.ofNat 64 (u 48 8), w2 := BitVec.ofNat 32 (u 56 4)
    w3 := BitVec.ofNat 32 (u 60 4), payload := l.drop 64, mask := mask, crc := 0, ce := false, port := 0 }

/-- The endpoint that a message over the twin link names is granted, over that path, to its sender (R262, R266). -/
def State.epTwinOk (s : State) (f : FabFrame) : Bool :=
  let c := f.dstctx.toNat
  let x := s.ctx c
  let e := x.endpoint f.dstep.toNat
  c < 16 && s.exists_ c && x.granted f.dstep.toNat && epTwin e && epDev e = f.srcdev.toNat
    && epCtx e = f.srcctx.toNat && epPeer e = f.srcep.toNat && epEpoch e = f.epoch.toNat

/-- A message that was turned away is answered by an ACK message that names the SEQ of its last frame (DESIGN
CHOICE, log 22: PSN and APSN are 0 on this path). -/
def State.twinRefuse (s : State) (f : FabFrame) (status : Nat) (seq : U32) : State :=
  let g : FabFrame :=
    { ver := 1, typ := 7, flags := 0, status := BitVec.ofNat 8 status, srcdev := s.fab.fabdev, dstdev := f.srcdev
      srcep := f.dstep, dstep := f.srcep, srcctx := f.dstctx, dstctx := f.srcctx, epoch := f.epoch, psn := 0
      apsn := 0, sack := 0, w0 := 0, w1 := 0, w2 := seq, w3 := 0, payload := [], mask := 0, crc := 0, ce := false
      port := 0 }
  s.twinFab (g.bytes.take 64) [] 0 none

/-- A whole message takes effect; one that finds no room waits (R267, R269). -/
def State.takeFab (s : State) (f : FabFrame) (seq : U32) : Option State :=
  if f.ver != 1 || f.typ = 0 || 9 ≤ f.typ.toNat || f.typ = 7 then some s
  else if !s.epTwinOk f then
    let c := f.dstctx.toNat
    let s := if (f.typ = 5 || f.typ = 6) && c < 16 && s.exists_ c then s.barDrop c else s
    some (s.twinRefuse f 3 seq)
  else
    let c := f.dstctx.toNat
    let o : Origin := (f.dstep.toNat, none)
    let apply (s : State) : State :=
      if f.typ = 1 then (if f.w1.getLsbD 48 then s.takeResult c f else s.takeContribution c f)
      else if f.typ = 5 then s.takeSignal c o.1 f
      else if f.typ = 6 then (if f.w0.getLsbD 8 then s.takeRelease c o.1 f else s.takeArrive c o.1 f)
      else if f.typ = 8 then s.takeAbandon c f
      else s.takeDispatch c f o
    match s.fabCheck c f with
    | .busy => none
    | .planmiss => some (s.twinRefuse f 0x81 seq)
    | .isolated => some ((apply s).twinRefuse f 3 seq)
    | .ok => some (apply s)

/-- The fragment whose message the twin turned away fails before ASEQ completes it. -/
def State.twinRefused (s : State) (f : TwinFrame) : State :=
  let g := fabOf f.payload 0
  if f.chan = 0x05 && g.typ = 7 && f.ver = 1 && f.crcOk && f.seq = s.twin.rxSeq then
    match s.twin.unacked.find? fun u => u.seq = g.w2 with
    | none => s
    | some u =>
      let s := { s with twin := { s.twin with
        unacked := s.twin.unacked.map fun v => if v.seq = g.w2 then { v with dep := none } else v } }
      match u.dep with
      | some d => s.depLost d (if g.status = 3 then 3 else 4)
      | none => s
  else s

/-- TWIN_FAB_FRAME: segments of a fabric message, applied at its endpoint once the last is in (R269, R290). -/
def execTwinFabFrame (x : BankedTwin) (s : State) : Out :=
  let f := x.f
  done <| s.withBank x.bank fun s =>
    let s := if s.twin.up && s.twin.paired then s.twinRefused f else s
    s.twinIn f 0x05 fun s =>
      let seg := bits f.aux.toNat 0 16
      let sofar := if seg = 0 then [] else s.twin.fabSeg
      let all := sofar ++ f.payload
      -- the poison bits of the segments, of which the header takes the first granule
      let old : Nat := if seg = 0 then 0 else s.twin.fabMask
      let m := old + f.mask.toNat * 2 ^ (64 * seg)
      if f.aux.getLsbD 16 then
        (s.takeFab (fabOf all (BitVec.ofNat 128 (m / 2))) f.seq).map fun t =>
          { t with twin := { t.twin with fabSeg := [], fabMask := 0 } }
      else some { s with twin := { s.twin with fabSeg := all, fabMask := m } }

/-! ### The buddy region (R290, R295, R296) -/

/-- DDR5 offset of a byte of this device's buddy region. -/
def Twin.regionOfs (w : Twin) (o : Nat) : Option Nat := (w.region[o >>> 36]?).map fun u => u * 2 ^ 36 + o % 2 ^ 36

/-- TWIN_BREQ_FRAME: bytes of the buddy region, at most 4 MiB, go back in BDATA frames with their poison (Table
11.2). -/
def execTwinBreqFrame (f : TwinFrame) (s : State) : Out :=
  done <| s.twinIn f 0x02 fun s =>
    let n := min (fld f.payload 0 4) (4 * 2 ^ 20)
    let o := f.aux.toNat
    let ad (i : Nat) : Nat := (s.twin.regionOfs (o + i)).getD 0
    let inside : Bool := (s.twin.regionOfs (o + n - 1)).isSome
    let s := s.readFinds .ddr ((List.range (n / 64 + 2)).map fun k => ad (64 * k))
    some <| if !inside then s
    else s.each (List.range ((n + 4095) / 4096)) fun s k =>
      let len := min 4096 (n - 4096 * k)
      let l := (List.range len).map fun i => s.byteAt .ddr (ad (4096 * k + i))
      let m := bitSet ((List.range 64).filter fun g => 64 * g < len && s.bad .ddr (ad (4096 * k + 64 * g)))
      s.twinSend 0x03 (BitVec.ofNat 64 (o + 4096 * k)) l (BitVec.ofNat 64 m) none

/-- Ranges (offset, length) without the bytes `o` to `o + n − 1`. -/
def cutRange (l : List (Nat × Nat)) (o n : Nat) : List (Nat × Nat) :=
  l.flatMap fun h =>
    (if h.1 < o then [(h.1, min h.2 (o - h.1))] else [])
      ++ (if o + n < h.1 + h.2 then [(max h.1 (o + n), h.1 + h.2 - max h.1 (o + n))] else [])

/-- TWIN_BDATA_FRAME: bytes that a BREQ asked for, or of a boot image (R290, R390). A byte that this device has written since
it asked stands as written (log 62). -/
def execTwinBdataFrame (f : TwinFrame) (s : State) : Out :=
  done <| s.twinIn f 0x03 fun s =>
    let o := f.aux.toNat
    some <|
      if s.aon.imageWait.isSome then
        { s with twin := { s.twin with imageBuf := Memory.writeN s.twin.imageBuf o f.payload } }
      else
        let n := f.payload.length
        let ws : List W := ((List.range n).filter fun i => !s.twin.inOwn.contains (o + i)).map fun i =>
          { addr := o + i, val := f.payload.getD i 0, bad := f.mask.getLsbD (i / 64) }
        let s := s.land .buddy ws
        let s : State := { s with twin := { s.twin with
          inHave := s.twin.inHave ++ [(o, n)]
          inAsked := cutRange s.twin.inAsked o n
          inOwn := s.twin.inOwn.filter fun a => a < o || o + n ≤ a } }
        s.pokeDisps

/-- TWIN_BUDDY_FRAME: data lands in the buddy region in DDR5, poison with it (Table 11.2). -/
def execTwinBuddyFrame (f : TwinFrame) (s : State) : Out :=
  done <| s.twinIn f 0x01 fun s =>
    let o := f.aux.toNat
    some (s.store .ddr ((List.range f.payload.length).filterMap fun i =>
      (s.twin.regionOfs (o + i)).map fun a => { addr := a, val := f.payload.getD i 0, bad := f.mask.getLsbD (i / 64) }))

/-- TWIN_IDLE_FRAME: keeps the link alive, and carries ASEQ (R292). -/
def execTwinIdleFrame (f : TwinFrame) (s : State) : Out := done <| s.twinIn f 0x00 fun s => some s

/-! ### Timers (R291, R292) -/

/-- The link is down: fragments that depend on an unacknowledged frame complete with LINK; other frames wait for
the retrain (R291). -/
def State.twinDown (s : State) : State :=
  let deps := s.twin.unacked.filterMap (·.dep) ++ s.twin.waiting.filterMap (·.dep)
  let rest : List TwinUnacked := s.twin.unacked.map fun u => { u with dep := none }
  let wait : List TwinWaiting := s.twin.waiting.map fun u => { u with dep := none }
  let s := { s with twin := { s.twin with up := false, rounds := 0, unacked := rest, waiting := wait } }
  let s := s.each deps fun s d => s.depLost d 4
  s.each [12, 13, 14, 15] fun s t => s.receiverDown t 1

/-- Sends every frame of the window again from ASEQ. -/
def State.twinResend (s : State) : State :=
  let s := { s with twin := { s.twin with progressAt := s.now, lastTx := s.now } }
  s.each s.twin.unacked fun s u =>
    s.emit (.twin (TwinFrame.sealed ⟨1, u.chan, u.seq, s.twin.rxSeq, u.aux, u.payload, u.mask, 0⟩))

/-- TWIN_RETRANSMIT_TIMER: 3 µs without progress; after 16 rounds the link is down (R291). -/
def execTwinRetransmitTimer (s : State) : Out :=
  done <|
    if s.twin.up && !s.twin.unacked.isEmpty && 3 * usCycles ≤ s.now - s.twin.progressAt then
      if 16 ≤ s.twin.rounds then s.twinDown
      else
        let w : Twin := { s.twin with rounds := s.twin.rounds + 1 }
        State.twinResend { s with twin := w }
    else s

/-- TWIN_KEEPALIVE_TIMER: an IDLE frame after 1 µs with nothing else to send; a device that follows its twin's time asks for
it instead (R226, R292; log 147). -/
def execTwinKeepaliveTimer (s : State) : Out :=
  done <|
    if s.twin.up && usCycles ≤ s.now - s.twin.lastTx then
      if s.aon.tsource = 0 && s.twin.unacked.isEmpty then s.twinSend 0x06 0 [] 0 none
      else
      let w : Twin := { s.twin with lastTx := s.now }
      State.emit { s with twin := w }
        (.twin (TwinFrame.sealed ⟨1, 0, 0, s.twin.rxSeq, 0, [], 0, 0⟩))
    else s

/-- TWIN_SILENT: no valid frame for 10 µs (R292, R320). -/
def execTwinSilent (s : State) : Out :=
  done <|
    if s.twin.paired && !s.twin.silent && 10 * usCycles ≤ s.now - s.twin.lastRx then
      let s := { s with twin := { s.twin with silent := true } }
      let s := s.each [12, 13, 14, 15] fun s t => s.receiverDown t 2
      s.noticeDev 0x23 0 0 0 []
    else s

/-- The link trains on the largest working set of lanes; frames that wait go out (R288, R291). A boot ROM that
waits for the twin's image asks for it (R390). -/
def State.trainTwin (s : State) (lanes : Nat) : State :=
  if lanes = 8 || lanes = 4 || lanes = 2 then
    let s := { s with twin := { s.twin with up := true, lanes := lanes, lastRx := s.now, rounds := 0 } }
    let s := if lanes < 8 then s.raise { event := 0x0C, unit := 6, loc := 0x40 } else s
    let s := s.twinResend.twinGo twinWindow
    if s.aon.imageWait.isSome then s.hokSend 0x1003 0 [] else s
  else s.raise { event := 0x0C, unit := 6, loc := 0x40 }

/-- TWIN_LINK_RETRAIN: both sides have released the link and it trains; with equal TWINSIDE straps it does not, and
a link event says so (`lanes` = 0; R288, R291, R409). -/
def execTwinLinkRetrain (lanes : Nat) (s : State) : Out :=
  done <|
    if s.twin.up || s.mem.inReset.contains .twin || s.pwr.dev = .standby
        || !(7 ≤ s.aon.stage || (s.aon.bootsrc = 3 && 3 ≤ s.aon.stage)) then s
    else s.trainTwin lanes

/-! ### Loss of the twin (R320, R321) -/

/-- FAILING to the twin, for a condition of R320; the code of its cause is not the spec's (log 12). -/
def State.failing (s : State) (cause : Nat) : State :=
  if s.twin.up && s.twin.paired then s.twinSend 0x08 ((Config.failCause cause).setWidth 64) [] 0 none else s

/-- Own contexts of lower priority are stopped, lowest first, until `k` slices and `h` HBM units are free. A context that is
stopped for this is destroyed, so that its slices and units are free (DESIGN CHOICE, log 151: R321 has them stopped or
shrunk). -/
def State.freeFor (s : State) (prio k h : Nat) : Nat → State
  | 0 => s
  | n + 1 =>
    if k ≤ s.freeSlices.length && (s.growHbm [] false 0 h).isSome then s
    else
      let l := (List.range 16).filter fun c => s.exists_ c && (s.ctx c).cfg.set.prio < prio
      match l.foldl (fun b c => match b with
          | none => some c
          | some d => if (s.ctx c).cfg.set.prio < (s.ctx d).cfg.set.prio then some c else some d) none with
      | none => s
      | some c =>
        let l := (s.ctx c).slices
        let s := ((s.abandonAll c).cutOff c).destroyCtx c
        State.freeFor (s.each l fun s j => s.switchEnd j) prio k h n

/-- Positions in the region of the units that hold DDR5 shards. -/
def Src.ddrAt (x : Src) : List Nat :=
  (List.zip (manEntries x.man) x.ofs).filterMap fun e => if e.1.1 = 1 then some (e.2 >>> 36) else none

/-- The area whose first unit is position `i` of the region, if a valid slot lies there: the location word of the newest,
and its checkpoint (R307, R321). -/
def State.areaAt (s : State) (m : Memory) (i : Nat) : Option (U64 × Src) :=
  (s.areaNewest 16 m (i * 2 ^ 36)).map fun z =>
    (z.location, srcFrom s.kept m (unitsImage s.mem.ddrPoison s.twin.region 30) z.man z.ofs)

/-- Positions in the region that an area takes: those its settings size (R297). -/
def Src.areaSize (x : Src) : Nat :=
  x.capt.cfg.set.genUnits x.capt.ddrUnits x.capt.hbmBytes (manVcores x.man)

/-- Staging units that the plans of a configuration reach: the restored context is given as many (DEDUCED, log 152: R305 does
not name the allocation). -/
def CtxCfg.stageNeed (g : CtxCfg) : Nat :=
  let kib := (g.collPlans.filter fun e => Plan.op e.2 != 0).map (fun e => Plan.fld e.2 160 32 + Plan.fld e.2 384 32)
    ++ (g.dispPlans.filter fun e => Plan.kind e.2 != 0).map fun e => Plan.fld e.2 160 32 + Plan.fld e.2 320 32
  (kib.foldl max 0 + 1023) / 1024

/-- Hub die, staging units and directory base for a context that needs so much of them, die 0 first. -/
def State.hubRoom (s : State) (stage dir : Nat) : Option (Nat × List Nat × Nat) :=
  [0, 1].findSome? fun h => match takeN (s.freeStage h) stage, s.freeDir h dir with
    | some u, some b => some (h, u, b)
    | _, _ => none

/-- The context that an adoption forms, in the state that holds it; none where slices, units, staging or directory do not
suffice (R321). -/
def State.adoptCtx (s : State) (c : Nat) (x : Src) : Option State :=
  let want := manVcores x.man / 16
  let slices := s.freeSlices.take want
  match s.growHbm [] false 0 (hbmShards x.capt.hbmBytes).length, s.hubRoom x.capt.cfg.stageNeed x.capt.dirSize with
  | some h, some r =>
    if slices.isEmpty || hbmBytes h.1 < x.capt.hbmBytes then none
    else
      let y : Ctx :=
        { state := .ready, cfg := x.capt.cfg, hbmUnits := h.1
          ddrUnits := x.ddrAt.filterMap fun p => s.twin.region[p]?
          stageHub := r.1, stageUnits := r.2.1, dirBase := r.2.2, dirSize := x.capt.dirSize }
      let s := s.updCtx c fun _ => y
      some (({ s with mem := { s.mem with bandLocal := h.2 } }.setSlices c slices).freshCores c)
  | _, _ => none

/-- Adopts one context of the lost twin, or leaves its area for the host (R321 steps 2 and 3); a spare adopts every
protected one (R293). Its endpoints wait for the host's grants (R313 step 5). -/
def State.adopt (s : State) (i : Nat) (a : U64 × Src) (all : Bool) : State :=
  let x := a.2
  let set := x.capt.cfg.set
  let want := manVcores x.man / 16
  let c := manCtx x.man
  let cs := c :: (List.range 16).filter (· != c)
  if a.1 != 0 || !(set.adopt || all) then s
  else match cs.find? fun k => k < 16 && !s.exists_ k with
    | none => s
    | some c =>
      match (s.freeFor set.prio want (hbmShards x.capt.hbmBytes).length 16).adoptCtx c x with
      | none => s
      | some t =>
        let restart : Bool := (t.ctx c).slices.length != want
        if (t.verify 16 x set.arrival).isSome || (t.restorable c x restart).isSome then s
        else
          let du := (t.ctx c).ddrUnits
          let s := t.restore c x restart none
          let s := s.updCtx c fun y => { y with withdrawn := y.cfg.validEps }
          let area := ((List.range x.areaSize).map (i + ·)).filterMap fun p => s.twin.region[p]?
          let s := s.zeroDdr (area.filter fun u => !du.contains u)
          { s with twin := { s.twin with region := s.twin.region.map fun u => if area.contains u then 4096 + u else u } }

/-- The survivor takes over (R321, R417): checkpoints in copy are abandoned, the pair mode is Solo, a pair event is
raised and the twin-reset pattern sent; then each protected context of the twin is adopted or kept for the host. -/
def State.takeover (s : State) : State :=
  let mode := s.twin.mode
  let s := { s with twin := { s.twin with mode := 0, paired := false, isSpare := false, lost := true } }
  let s := s.each ((List.range 16).filter fun c => (s.ctx c).ckpt.copying.isSome) fun s c => s.abandonCkpt c 4
  let s := s.each [12, 13, 14, 15] fun s t => s.receiverDown t 2
  let s := (s.raise { event := 0x0D, unit := 7 }).emit .twinReset
  -- the endpoints that the lost twin served are lost with it (R277)
  let s := s.each (List.range 16) fun s c =>
    s.each (((s.ctx c).cfg.endpoints.filter fun e => epValid e.2 && epTwin e.2).map Prod.fst) fun s ep => s.endpointLost c ep
  if mode = 1 || mode = 3 then
    let region := s.twin.region
    let s := s.findErrs .ddr fun a => region.contains (a >>> 36)
    let m := unitsImage s.mem.ddr s.twin.region 36
    let l := (List.range s.twin.region.length).filterMap fun i => (s.areaAt m i).map fun a => (i, a)
    let ranked := (List.range 16).reverse.flatMap fun p => l.filter fun e => e.2.2.capt.cfg.set.prio = p
    let s := s.each ranked fun s e => s.adopt e.1 e.2 (decide (mode = 3))
    { s with twin := { s.twin with region := s.twin.region.filter fun u => u < 4096 } }
  else s

/-- TWIN_FAILING_FRAME: the twin is lost, and the takeover starts (R320). -/
def execTwinFailingFrame (f : TwinFrame) (s : State) : Out := done <| s.twinIn f 0x08 fun s => some s.takeover

end Sys2Proof.Machine
end

