-- ==== Sys2Proof/Machine/Host.lean ====
section
/-! DEFINITION. Host ports, sessions and bulk ports (13_mailboxes R361 to R373). -/

namespace Sys2Proof.Machine

/-! ### Ports -/

def State.updHport (s : State) (k : Nat) (f : HostPort → HostPort) : State :=
  { s with hub := if k = 0 then { s.hub with port0 := f s.hub.port0 } else { s.hub with port1 := f s.hub.port1 } }

/-- A host port's link is up. -/
def State.hostUp (s : State) (k : Nat) : Bool :=
  (s.hub.hport k).rate != 0 && !s.mem.inReset.contains (.host k)

/-! ### Doorbells (R357) -/

/-- Reports doorbell bits of a channel that are set and not masked. -/
def State.ringDb (s : State) (n : Nat) (bits : U32) : State :=
  let d := bindDst (s.bind n)
  let b := bits &&& ~~~(s.chan n).mask
  if b = 0 then s
  else if d < 8 then
    if (s.session d).opened then
      s.hostSend d 0x0B (BitVec.ofNat 8 n) 0 0 (eventBytes 3 0 0 0 0 b.toNat)
    else s
  else if d < 12 then s.emit (.stewardIrq (s.hub.server (d - 8)) n b)
  else if d < 16 then s.when s.twin.up fun s => s.twinSend 0x07 0 (eventBytes 3 0 0 0 0 b.toNat) 0 none
  else s.emit (.hokNotice n 3 b.toNat)

/-- Sets doorbell bits; a receiver that is in reset or dead has its registers in reset (R357, R359). -/
def State.setDb (s : State) (n : Nat) (bits : U32) : State :=
  let r := s.recvState (bindDst (s.bind n))
  if !bindValid (s.bind n) || 2 ≤ r then s
  else (s.updChan n fun c => { c with db := c.db ||| bits }).ringDb n bits

/-! ### Acknowledgements (R366) -/

/-- Frames that came within the window when others were acknowledged go out. -/
def State.hostFlush (s : State) (k : Nat) (before : List U32) : State :=
  s.each (((s.session k).unacked.take hostWindow).filter fun u => !before.contains u.seq) fun s u =>
    let s := s.updSession k fun x =>
      { x with unacked := x.unacked.map fun v => if v.seq = u.seq then { v with sentAt := s.now } else v }
    s.emit (.host (s.hostFrame k u.typ u.seq u.chan u.status u.word u.payload))

/-- A frame of Yaril's has been received: a message leaves its channel, reported doorbell bits clear (R357,
R358). -/
def State.hostGot (s : State) (u : HostUnacked) : State :=
  if u.typ = 0x08 then (s.take u.chan.toNat).1
  else if u.typ = 0x0B && fld u.payload 0 1 = 3 then
    s.updChan u.chan.toNat fun c => { c with db := c.db &&& ~~~(BitVec.ofNat 32 (fld u.payload 8 4)) }
  else s

/-- ASEQ and SACK of a frame received. -/
def State.hostAcked (s : State) (k : Nat) (f : HostFrame) : State :=
  let x := s.session k
  let gone := x.unacked.filter fun u => ackedBy f.aseq f.sack u.seq
  if gone.isEmpty then s
  else
    let before := (x.unacked.take hostWindow).map (·.seq)
    let s := s.updSession k fun x => { x with unacked := x.unacked.filter fun u => !ackedBy f.aseq f.sack u.seq }
    let s := s.hostFlush k before
    s.each gone State.hostGot

/-! ### Bulk ports (R368 to R372, Table 13.11) -/

/-- Context `c` is bound to session `k` (R353, R355). -/
def State.bound (s : State) (k c : Nat) : Bool := (s.findChan k (16 + c)).isSome

/-- Where a byte of a bulk space lies. -/
inductive BulkAt where
  | mem (p : Spot)
  | staging (o : Nat)
  | ddr (o : Nat)
  | restore (o : Nat)
deriving DecidableEq, Repr

/-- A snapshot area: its units, the linear offset of its first byte in their list, and its newest slot's
manifest offset, if valid. -/
structure Area where
  units : List Nat
  base : Nat
  slot : Nat
  man : List Byte
  ofs : List Nat
deriving DecidableEq, Repr

/-- The area a handle reads, at the slot it names (R309, R370). -/
def State.area (s : State) (h : Handle) : Option Area :=
  let units := if h.kind = 0 then (s.ctx h.ctx).localUnits else s.twin.region
  let base := if h.kind = 0 then 0 else h.unit * 2 ^ 36
  let m := unitsImage s.mem.ddr units 36
  let slot := base + if h.slotB then 0x80000 else 0
  (slotAt m slot).map fun z =>
    ⟨units, base, slot, z.2, (List.range (manShards z.2)).map fun i => base + leNat (Memory.readN m (slot + 0x40 + 8 * i) 8)⟩

/-- Padded lengths of the shards of a manifest (R309). -/
def manPads (m : List Byte) : List Nat := (manEntries m).map fun e => 65536 * pagesOf e.2.2

/-- Bytes of a checkpoint set. -/
def setLen (m : List Byte) : Nat := manLen m + 256 + (manPads m).sum

/-- The shard that holds offset `o` past the closure record: its place in the list and the offset in it. -/
def padAt : List Nat → Nat → Nat → Option (Nat × Nat)
  | [], _, _ => none
  | p :: r, i, o => if o < p then some (i, o) else padAt r (i + 1) (o - p)

/-- The DDR5 byte of a checkpoint set's offset in its area (R309). -/
def Area.at_ (a : Area) (o : Nat) : Option Nat :=
  let lin :=
    if o < manLen a.man then some (a.slot + 0x10000 + o)
    else if o < manLen a.man + 256 then some (a.slot + 0x70000 + (o - manLen a.man))
    else (padAt (manPads a.man) 0 (o - manLen a.man - 256)).map fun z => a.ofs.getD z.1 0 + z.2
  lin.bind fun l => (a.units[l >>> 36]?).map fun u => u * 2 ^ 36 + l % 2 ^ 36

/-- Length of the run from 0 that ranges cover. -/
def coveredTo (l : List (Nat × Nat)) : Nat :=
  (List.range (l.length + 1)).foldl (fun t _ =>
    l.foldl (fun t e => if e.1 ≤ t then max t (e.1 + e.2) else t) t) 0

/-- Length of a restore target's manifest, once its header has landed. -/
def Handle.manLen (h : Handle) : Option Nat :=
  if 0x1B0 ≤ coveredTo h.landed then some (Machine.manLen (Memory.readN h.data 0 0x1B0)) else none

/-- A byte range of a restore target that may not be written before the manifest (R370); while the manifest's
header is missing, every byte beyond the shortest manifest. -/
def Handle.early (h : Handle) (o n : Nat) : Bool :=
  match h.manLen with
  | none => 0x290 < o + n
  | some l => coveredTo h.landed < l && l + 256 < o + n

/-- No handle: the default of the handle table. -/
def Handle.none_ : Handle := { sess := 0, kind := 255, ctx := 0, slotB := false }

def State.handle (s : State) (n : Nat) : Handle := SMap.get Handle.none_ s.hub.handles n
def State.setHandle (s : State) (n : Nat) (h : Handle) : State :=
  { s with hub := { s.hub with handles := SMap.set Handle.none_ s.hub.handles n h } }

/-- A session's bulk port. -/
def State.bport (s : State) (k p : Nat) : BulkPort := SMap.get {} (s.session k).ports p

/-- The byte of a bulk address, if the space has it (R370). -/
def State.bulkAt (s : State) (b : BulkPort) (ar : Option Area) (wr : Bool) (a : Int) : Option BulkAt :=
  match a with
  | .negSucc _ => none
  | .ofNat n =>
    if b.space = 1 then (s.spot b.ctx.toNat a).map .mem
    else if b.space = 2 then
      let h := s.handle b.handle.toNat
      if h.kind = 2 then (if wr && n < 2 ^ 48 then some (.restore n) else none)
      else if wr then none
      else (ar.bind fun x => x.at_ n).map .ddr
    else if n < 2 ^ 26 then some (.staging n) else none

/-- Rows of an access: address of each byte in order. -/
def bulkAddrs (start stride : Int) (rowlen rows : Nat) : List Int :=
  (List.range rows).flatMap fun (r : Nat) => (List.range rowlen).map fun (i : Nat) => start + r * stride + i

/-- A space that a session's port may use (Table 13.10 NOSPACE). -/
def State.bulkSpace (s : State) (k : Nat) (b : BulkPort) : Bool :=
  if b.space = 1 then s.bound k b.ctx.toNat
  else if b.space = 2 then (s.hub.handles.any fun h => h.1 = b.handle.toNat && h.2.sess = k)
  else b.space = 3

/-- The access of `n` bytes from `addr`: a status, or the start, the rows and the place of every byte. -/
def State.bulkPlan (s : State) (k : Nat) (b : BulkPort) (addr n : Nat) (wr : Bool) :
    Nat ⊕ (Int × Nat × List BulkAt) :=
  let rl := b.rowlen.toNat
  let start : Int := if addr = 2 ^ 64 - 1 then b.addr.toNat else addr
  if !s.bulkSpace k b then .inl 5
  else if rl = 0 || 8192 < rl || 8192 < n || n % rl != 0 then .inl 6
  else
    let l := bulkAddrs start b.stride.toInt rl (n / rl)
    let ar := if b.space = 2 then s.area (s.handle b.handle.toNat) else none
    let inWin (a : Int) : Bool := b.wbase.toNat ≤ a && a < b.wbase.toNat + b.wlim.toNat
    let at_ := l.filterMap fun a => if inWin a then s.bulkAt b ar wr a else none
    if at_.length != l.length then .inl 4 else .inr (start, n / rl, at_)

/-- A byte of a bulk access lies where accesses wait (R334, R421). -/
def State.bulkHeld (s : State) (a : BulkAt) : Bool :=
  match a with
  | .mem q => s.heldAt q.place q.off
  | .ddr o => s.heldAt .ddr o
  | _ => false

/-- It lies behind an isolated interface (R425). -/
def State.bulkIsolated (s : State) (a : BulkAt) : Bool :=
  match a with
  | .mem q => s.isolatedAt q.place q.off
  | .ddr o => s.isolatedAt .ddr o
  | _ => false

/-- A bulk frame waits: a byte that it moves lies where new accesses wait (R334, R421 rule 3). -/
def State.bulkWaits (s : State) (k : Nat) (f : HostFrame) : Bool :=
  let b := s.bport k f.chan.toNat
  let plan (addr n : Nat) (wr : Bool) : Bool := match s.bulkPlan k b addr n wr with
    | .inl _ => false
    | .inr r => r.2.2.any s.bulkHeld
  f.chan.toNat < 16 && (if f.typ = 0x0C then 32 ≤ f.payload.length && plan (fld f.payload 0 8) (f.payload.length - 32) true
    else f.typ = 0x0D && f.payload.length = 16 && plan (fld f.payload 0 8) (fld f.payload 8 4) false)

/-- ADDR after an access (R371). -/
def State.bulkNext (s : State) (k p : Nat) (start : Int) (rows : Nat) : State :=
  s.updSession k fun x => { x with ports := SMap.upd {} x.ports p fun b =>
    { b with addr := BitVec.ofInt 64 (start + rows * b.stride.toInt) } }

/-- A bulk write to the buddy window: runs of bytes go to the twin (R185, Table 11.2). -/
def State.bulkBuddy (s : State) (l : List (Nat × Byte × Bool)) : State :=
  s.sendBuddy (l.map fun e => { addr := e.1, val := e.2.1, bad := e.2.2 }) fun _ => none

/-- A bulk write: the status it is answered with (R370 to R372, R181). `lost` gives the bits of scratchpad
words that their owner's port wrote in the same cycle. -/
def State.bulkWrite (s : State) (k p : Nat) (payload : List Byte) (lost : List LostWord) : State × Nat :=
  let b := s.bport k p
  if payload.length < 32 then (s, 6)
  else
    let data := payload.drop 32
    let mask := fld payload 16 16
    match s.bulkPlan k b (fld payload 0 8) data.length true with
    | .inl st => (s, st)
    | .inr (start, rows, at_) =>
      let all := (List.range at_.length).map fun i => (at_.getD i (.staging 0), data.getD i 0, decide (bits mask (i / 64) 1 = 1))
      let hn := b.handle.toNat
      let early : Bool := b.space = 2 && (s.handle hn).early start.toNat data.length
      if early then (s, 7)
      else
        let spots := all.filterMap fun e => match e.1 with
          | .mem q => some (q, e.2)
          | _ => none
        let all' := spots.map fun e => (e.1.place, ({ addr := e.1.off, val := e.2.1, bad := e.2.2 } : W))
        -- a write that is completed with ISOLATED poisons where it would have landed (R421, R425)
        let cut := all'.filter fun w => s.isolatedAt w.1 w.2.addr
        let ws := all'.filter fun w => !s.isolatedAt w.1 w.2.addr
        let s := s.poisonOrPend (cut.map fun w => (w.1, w.2.addr / 64))
        let lw := spotsLost (fun _ => none) ws lost
        let s := s.storeSpots (spotsKept (fun _ => none) (ws.filter fun w => w.1 != .buddy) lost)
        let s := s.bulkBuddy (ws.filterMap fun w => if w.1 = .buddy then some (w.2.addr, w.2.val, w.2.bad) else none)
        let s := if b.space = 1 then
            s.updCtx b.ctx.toNat fun x =>
              { x.updStep x.step fun d => { d with input := d.input ++ data } with
                ctrs := { x.ctrs with bulklost := x.ctrs.bulklost + BitVec.ofNat 64 lw.length } }
          else if b.space = 3 then
            let sw := all.filterMap fun e => match e.1 with
              | .staging o => some ({ addr := o, val := e.2.1, bad := e.2.2 } : W)
              | _ => none
            s.updSession k fun x =>
              { x with staging := bytesAfter x.staging sw, stgPoison := poisonAfter x.stgPoison sw }
          else
            let h := s.handle hn
            let rows_ := (List.range rows).map fun (r : Nat) =>
              ((start + r * b.stride.toInt).toNat, b.rowlen.toNat)
            let d := all.foldl (fun m e => match e.1 with
                | .restore o => Memory.write m o e.2.1
                | _ => m) h.data
            let h := { h with data := d, landed := h.landed ++ rows_ }
            -- poison of shard bytes, by the granules of the shards
            let top := (h.manLen.map (· + 256)).getD (2 ^ 48)
            let pw := all.filterMap fun e => match e.1 with
              | .restore o => if top ≤ o then some ({ addr := o - top % 64, val := 0, bad := e.2.2 } : W) else none
              | _ => none
            let h := { h with poison := poisonAfter h.poison pw }
            s.setHandle hn h
        (s.bulkNext k p start rows, if lw.isEmpty then 0 else 9)

/-- The bytes of a bulk read with their poison; those behind an isolated interface are free values, and poisoned (R425;
log 34). -/
def State.bulkBytes (s : State) (k : Nat) (l : List BulkAt) : List (Byte × Bool) :=
  (List.range l.length).map fun i =>
    let a := l.getD i (.restore 0)
    if s.bulkIsolated a then ((Config.freeWord (s.freeCtr + i)).setWidth 8, true)
    else match a with
      | .mem q => (s.byteAt q.place q.off, s.bad q.place q.off)
      | .staging o => (Memory.read (s.session k).staging o, SMap.get false (s.session k).stgPoison (o / 64))
      | .ddr o => (s.byteAt .ddr o, s.bad .ddr o)
      | .restore _ => (0, false)

/-- A bulk read: its status and answer (R371, R372). Bytes of the buddy window are asked of the twin first. -/
def State.bulkRead (s : State) (k p : Nat) (payload : List Byte) : State × Nat × List Byte :=
  let b := s.bport k p
  let n := fld payload 8 4
  let pre (a m : Nat) : List Byte := leBytes 8 a ++ zeros 8 ++ leBytes 16 m
  if payload.length != 16 then (s, 6, pre 0 0)
  else match s.bulkPlan k b (fld payload 0 8) n false with
    | .inl st => (s, st, pre (fld payload 0 8) 0)
    | .inr (start, rows, at_) =>
      let far := at_.filterMap fun a => match a with
        | .mem q => if q.place = .buddy then some q.off else none
        | _ => none
      if !far.all fun o => s.twin.inHave.any fun h => h.1 ≤ o && o < h.1 + h.2 then
        let s := s.each (distinct (far.map fun o => o / 4096)) fun s g =>
          s.twinSend 0x02 (BitVec.ofNat 64 (4096 * g)) (leBytes 4 4096) 0 none
        (s, 7, pre start.toNat 0)
      else
        let s := s.each at_ fun s a => match a with
          | .mem q => s.readFinds q.place [q.off]
          | .ddr o => s.readFinds .ddr [o]
          | _ => s
        let l := s.bulkBytes k at_
        let s : State := s.when (at_.any s.bulkIsolated) fun s => { s with freeCtr := s.freeCtr + at_.length }
        let m := bitSet ((List.range 128).filter fun g => ((l.drop (64 * g)).take 64).any (·.2))
        (s.bulkNext k p start rows, if m = 0 then 0 else 1, pre start.toNat m ++ l.map Prod.fst)

/-! ### Frames applied in SEQ order (R366) -/

/-- A MSG frame: one message into its channel, or FULL or DENIED (R356). -/
def State.hostMsg (s : State) (k : Nat) (f : HostFrame) : State :=
  let n := f.chan.toNat
  let l := f.payload
  if l.length < 16 || 256 < l.length || l.length != 16 + fld l 10 2 then s.hostAckOut k f.seq 6
  else if !bindValid (s.bind n) || 64 ≤ n || bindSrc (s.bind n) != k then s.hostAckOut k f.seq 3
  else
    let r := s.post n (Msg.parse l) (some (f.seq.setWidth 16))
    match r.2 with
    | .full => r.1.hostAckOut k f.seq 2
    | .denied => r.1.hostAckOut k f.seq 3
    | _ => r.1

/-- A frame of an open session takes effect (R364 to R371). -/
def State.applyHost (s : State) (k : Nat) (f : HostFrame) (lost : List LostWord) : State :=
  let n := f.chan.toNat
  let own (b : Bool) : Bool := n < 64 && bindValid (s.bind n) && b
  if f.typ = 0x05 then s.sessionDead k
  else if f.typ = 0x06 then s
  else if f.typ = 0x08 then s.hostMsg k f
  else if f.typ = 0x09 then
    if own (bindSrc (s.bind n) = k) then s.setDb n f.word else s.hostAckOut k f.seq 3
  else if f.typ = 0x0A then
    if own (bindDst (s.bind n) = k) then
      let s := s.updChan n fun c => { c with mask := f.word }
      s.ringDb n (s.chan n).db
    else s.hostAckOut k f.seq 3
  else if f.typ = 0x0C then
    if 16 ≤ n then s.hostAckOut k f.seq 5
    else
      let r := s.bulkWrite k n f.payload lost
      r.1.hostAckOut k f.seq (BitVec.ofNat 8 r.2)
  else if f.typ = 0x0D then
    let r := if 16 ≤ n then (s, 5, zeros 32) else s.bulkRead k n f.payload
    r.1.hostSend k 0x0E f.chan (BitVec.ofNat 8 r.2.1) 0 r.2.2
  else s.hostAckOut k f.seq 3

/-- Frames received ahead are applied as their SEQ comes up; a bulk access that waits keeps those after it waiting. -/
def State.hostDrain (s : State) (k : Nat) : Nat → State
  | 0 => s
  | n + 1 =>
    let x := s.session k
    match x.ahead.find? fun g => g.1.seq = x.rxSeq with
    | none => s
    | some g =>
      if s.bulkWaits k g.1 then s else
      let s := s.updSession k fun x => { x with ahead := x.ahead.erase g, rxSeq := x.rxSeq + 1 }
      State.hostDrain (s.applyHost k g.1 g.2) k n

/-- Bulk accesses that waited go on, with the frames behind them. -/
def State.pokeHosts (s : State) : State :=
  s.each (List.range 8) fun s k => if (s.session k).ahead.isEmpty then s else s.hostDrain k hostWindow

/-- An acknowledgement is owed; it goes after 16 frames, or at once where asked for (R366 rule 3). -/
def State.hostOwe (s : State) (k : Nat) (f : HostFrame) : State :=
  if !(s.session k).opened then s
  else
    let s := s.updSession k fun x =>
      { x with owed := x.owed + 1, owedSince := if x.owed = 0 then s.now else x.owedSince }
    if 16 ≤ (s.session k).owed || f.flags.getLsbD 0 then s.hostAckOut k f.seq 0 else s

/-- Types assigned to the host's direction (Table 13.9). -/
def hostType (t : Byte) : Bool := [0x01, 0x03, 0x05, 0x06, 0x07, 0x08, 0x09, 0x0A, 0x0C, 0x0D].contains t.toNat

/-- A frame reaches a host port: dropped by its UDP port, CRC, version or type, or passed on (R362 to R364). -/
def State.hostPre (s : State) (f : HostFrame) (typ : Byte) (body : State → State) : State :=
  if !s.hostUp f.port || s.pwr.dev = .standby then s
  else if f.ip.dport != s.hub.udp then s.updHport f.port fun p => { p with hostother := p.hostother + 1 }
  else if !f.crcOk then s.updHport f.port fun p => { p with hostcrc := p.hostcrc + 1 }
  else if f.ver != 1 || !hostType f.typ || f.typ != typ then s
  else body s

/-- Answers go to the port, source address and UDP port of the latest frame accepted (R16, R367). -/
def State.answersTo (s : State) (k : Nat) (f : HostFrame) : State :=
  s.updSession k fun x => { x with addr := f.addr, udp := f.udp, port := f.port }

/-- A frame of an open session (R366): one that is applied, or kept ahead of its SEQ, is accepted; a duplicate and one
beyond the window are not. -/
def State.hostIn (s : State) (f : HostFrame) (typ : Byte) (bank : BankEnv) : State :=
  s.hostPre f typ fun s =>
    let k := f.sess.toNat
    if 8 ≤ k || !(s.session k).opened then s
    else if f.cookie != (s.session k).cookie then
      -- the answer goes to where the frame came from
      s.emit (.host { s.hostFrame k 0x07 0 0 8 f.seq [] with
        addr := f.addr, udp := f.udp, port := f.port, ip := s.hostIp f.port f.addr f.udp })
    else
      let s := (s.updSession k fun x => { x with lastRx := s.now }).addWaits bank
      if typ = 0x07 then (s.answersTo k f).hostAcked k f
      else
        let x := s.session k
        let d := (f.seq - x.rxSeq).toNat
        let here : Bool := x.ahead.any fun g => g.1.seq = f.seq
        if d = 0 && !here && !s.bulkWaits k f then
          let s := (s.answersTo k f).hostAcked k f
          let s := s.updSession k fun x => { x with rxSeq := x.rxSeq + 1 }
          let s := s.applyHost k f bank.lost
          (s.hostDrain k hostWindow).hostOwe k f
        else if d < hostWindow && !here then
          let s := (s.answersTo k f).hostAcked k f
          (s.updSession k fun x => { x with ahead := x.ahead ++ [(f, bank.lost)] }).hostOwe k f
        else
          let s := s.hostAcked k f
          if d < hostWindow || 2 ^ 31 ≤ d then s.hostOwe k f else s

/-! ### Opening a session (R365) -/

/-- A session opens for the host a frame came from; one that is open is replaced, and becomes dead. -/
def State.openSession (s : State) (k : Nat) (f : HostFrame) : State :=
  let s := if (s.session k).opened then s.sessionDead k else s
  let cookie : U32 := (Config.freeWord s.freeCtr).setWidth 32
  let s := s.takeFree
  let s := s.updSession k fun x =>
    { x with
      opened := true, nonce := none, cookie := cookie, addr := f.addr, udp := f.udp, port := f.port
      txSeq := 0, rxSeq := 0, ahead := [], owed := 0, unacked := [], lastRx := s.now, ports := [] }
  s.hostSend k 0x04 0 0 cookie
    (leBytes 4 (s.devWord 0) ++ leBytes 4 (if (s.session k).admin then 1 else 0))

/-- A frame outside a session, to where frame `f` came from. -/
def State.hostAnswer (s : State) (f : HostFrame) (typ : Byte) (payload : List Byte) : State :=
  s.emit (.host (HostFrame.sealed
    { ver := 1, typ := typ, sess := 0xFF, flags := 0, cookie := 0, seq := 0, aseq := 0, sack := 0, chan := 0
      status := 0, word := 0, payload := payload, crc := 0, addr := f.addr, udp := f.udp, port := f.port
      ip := s.hostIp f.port f.addr f.udp }))

/-- OPEN: READY at once where the session's HKEY is zero, else a challenge with a fresh nonce (R365). -/
def execOpen (f : HostFrame) (s : State) : Out :=
  done <| s.hostPre f 0x01 fun s =>
    let k := f.word.toNat
    if 8 ≤ k then s
    else if (s.session k).hkey = 0 then s.openSession k f
    else
      let n := Config.freeKey s.freeCtr
      let s := s.takeFree
      (s.updSession k fun x => { x with nonce := some n }).hostAnswer f 0x02 (leBytes 48 n.toNat)

/-- The bytes a proof signs: nonce, session number, source address and port as the packet headers give them; an
IPv4 address is the low four bytes of ::ffff:a.b.c.d (R365; DEDUCED, log 23). -/
def proofBytes (nonce : BitVec 384) (k : Nat) (f : HostFrame) : List Byte :=
  let a := f.addr.toNat
  let ip := if a / 2 ^ 32 = 0xFFFF then beBytes 4 (a % 2 ^ 32) else beBytes 16 a
  leBytes 48 nonce.toNat ++ leBytes 1 k ++ ip ++ beBytes 2 f.udp.toNat

/-- PROVE: the key's hash must be HKEY and the signature verify; then READY with a new cookie, else CLOSE (R365). A
PROVE names no session, so it is tried against each challenge outstanding. -/
def execProve (f : HostFrame) (s : State) : Out :=
  done <| s.hostPre f 0x03 fun s =>
    let key := (f.payload.drop 96).take 97
    let ok (k : Nat) : Bool :=
      let x := s.session k
      match x.nonce, ecParse key with
      | some n, some q =>
        leNat (sha384 key) = x.hkey.toNat && ecVerify q (proofBytes n k f) (fld f.payload 0 48) (fld f.payload 48 48)
      | _, _ => false
    match (List.range 8).find? fun k => f.payload.length = 193 && ok k with
    | some k => s.openSession k f
    | none => s.hostAnswer f 0x05 []

/-- CLOSE ends the session (R367). -/
def execClose (f : HostFrame) (s : State) : Out := done (s.hostIn f 0x05 {})
/-- KEEP keeps a session from timing out (R367). -/
def execKeep (f : HostFrame) (s : State) : Out := done (s.hostIn f 0x06 {})
/-- HOST_ACK acknowledges Yaril's frames (R366). -/
def execHostAck (f : HostFrame) (s : State) : Out := done (s.hostIn f 0x07 {})
/-- MSG posts a message (R356). -/
def execMsg (f : HostFrame) (s : State) : Out := done (s.hostIn f 0x08 {})
/-- DB sets doorbell bits (R357). -/
def execDb (f : HostFrame) (s : State) : Out := done (s.hostIn f 0x09 {})
/-- MASK sets the host's doorbell mask (R357). -/
def execMask (f : HostFrame) (s : State) : Out := done (s.hostIn f 0x0A {})
/-- BULKW: a bulk write (R371). -/
def execBulkw (f : HostFrame) (bank : BankEnv) (s : State) : Out := done (s.hostIn f 0x0C bank)
/-- BULKR: a bulk read (R371). -/
def execBulkr (f : HostFrame) (s : State) : Out := done (s.hostIn f 0x0D {})

/-- HOST_OTHER_FRAME: ARP, neighbour discovery and echo are answered; others, a fabric frame too, are dropped and counted
(R362). -/
def execHostOtherFrame (port : Nat) (o : OtherFrame) (s : State) : Out :=
  done <| match o with
  | .bad => if s.hostUp port then s.updHport port fun p => { p with hostother := p.hostother + 1 } else s
  | .transport _ => if s.hostUp port then s.updHport port fun p => { p with hostother := p.hostother + 1 } else s
  | o => if s.hostUp port then s.emit (.answer true port o) else s

/-! ### Timers (R366, R367) -/

/-- HOST_RETRANSMIT_TIMER: 200 µs, doubled by each retransmission up to 12.8 ms; after the twelfth the session is
dead (R366, R367). -/
def execHostRetransmitTimer (sess : Nat) (seq : U32) (s : State) : Out :=
  let x := s.session sess
  done <| match (x.unacked.take hostWindow).find? fun u => u.seq = seq with
  | none => s
  | some u =>
    if !x.opened || s.now - u.sentAt < min 12800 (200 * 2 ^ u.retx) * usCycles then s
    else if 12 ≤ u.retx then s.sessionDead sess
    else
      let s := s.updSession sess fun x =>
        { x with
          hostretx := x.hostretx + 1
          unacked := x.unacked.map fun v => if v.seq = seq then { v with retx := v.retx + 1, sentAt := s.now } else v }
      s.emit (.host (s.hostFrame sess u.typ u.seq u.chan u.status u.word u.payload))

/-- HOST_ACK_TIMER: what is owed is acknowledged within 10 µs (R366). -/
def execHostAckTimer (sess : Nat) (s : State) : Out :=
  let x := s.session sess
  done <| if x.opened && 0 < x.owed && 10 * usCycles ≤ s.now - x.owedSince then s.hostAckOut sess (x.rxSeq - 1) 0 else s

/-- A second in arithmetic-clock cycles. -/
def secCycles : Nat := 940000000

/-- SESSION_TIMEOUT: no valid frame within the session's timeout (R367). -/
def execSessionTimeout (sess : Nat) (s : State) : Out :=
  let x := s.session sess
  done <| if x.opened && x.timeout * secCycles ≤ s.now - x.lastRx then s.sessionDead sess else s

/-- HOST_LINK_CHANGE: a host port's link goes down, or comes up at its rate (R361). -/
def execHostLinkChange (port rate : Nat) (s : State) : Out :=
  done <|
    if [0, 200, 400, 800].contains rate && (rate = 0 || 6 ≤ s.aon.stage || s.aon.recovery) then
      s.updHport port fun p => { p with rate := rate }
    else s

end Sys2Proof.Machine
end

