-- ==== Sys2Proof/Machine/Mailbox.lean ====
section
/-! DEFINITION. Mailbox channels as stewards and the twin use them, their registers, the intake of requests, and
steward failure (13_mailboxes R349 to R360, R374, R375; 00 R7 to R10; 15 R419). -/

namespace Sys2Proof.Machine

/-! ### Life cycle (Table 14.2) -/

/-- The life-cycle state code. -/
def Part.lc (p : Part) : Nat :=
  if p.lcpos.getLsbD 3 then 4
  else if p.lcpos.getLsbD 2 then 3
  else if p.lcpos.getLsbD 1 then 2
  else if p.lcpos.getLsbD 0 then 1
  else 0

/-! ### Requests (R374 to R376) -/

/-- Commands on a session–steward channel (Table 13.14, S). -/
def cmdsS : List Nat :=
  [0x0101, 0x0102, 0x0103, 0x0301, 0x0601, 0x0602, 0x0603, 0x0604, 0x0703, 0x0802, 0x0901, 0x0902, 0x0903,
   0x0A01, 0x0A02, 0x0B03, 0x0B04, 0x0C01, 0x0C02, 0x0C03]

/-- Commands on a session–context channel (Table 13.14, C). -/
def cmdsC : List Nat :=
  [0x0201, 0x0202, 0x0203, 0x0204, 0x0205, 0x0206, 0x0207, 0x0208, 0x0209, 0x020A, 0x020B, 0x020C, 0x020D,
   0x0302, 0x0401, 0x0402, 0x0501, 0x0502, 0x0503, 0x0504, 0x0701, 0x0702, 0x0704, 0x0705, 0x0801, 0x0803,
   0x0804, 0x0B01, 0x0B02]

/-- Commands that only an ADMIN session may give (R375). -/
def cmdAdmin (c : Nat) : Bool := c / 256 = 6 || c / 256 = 9 || c / 256 = 12 || c = 0x0B04

/-- Commands answered in recovery (R352), and after a life-cycle burn (R391). -/
def cmdRecovery (c : Nat) : Bool := [0x0101, 0x0901, 0x0902, 0x0903, 0x0A01].contains c
def cmdBurned (c : Nat) : Bool := [0x0101, 0x0903, 0x0A01].contains c

/-- Requests that change state; those that read a log do when they clear it (R351, R375). -/
def changesState (m : Msg) : Bool :=
  let c := m.cmd.toNat
  if c = 0x0803 || c = 0x0B02 then fld m.payload 4 1 != 0
  else if c = 0x0B03 then fld m.payload 4 4 != 0
  else !([0x0101, 0x0102, 0x0103, 0x0203, 0x0503, 0x0705, 0x0801, 0x0802, 0x0804, 0x0A01, 0x0A02, 0x0B01].contains c)

/-- What a request is answered with before it is executed: status and DETAIL (R352, R375, R391). The order of the
tests is the model's (DESIGN CHOICE, log 24). -/
def State.refuse (s : State) (n : Nat) (m : Msg) : Option (Nat × Nat) :=
  let c := m.cmd.toNat
  let b := s.bind n
  let known : Bool := if bindDst b < 12 then cmdsS.contains c else cmdsC.contains c
  if m.kind != 0 || !known || 8 ≤ bindSrc b then some (2, 0)
  else if s.aon.recovery && !cmdRecovery c then some (0x0F, 0)
  else if s.aon.lcBurned && !cmdBurned c then some (0x11, s.part.lc)
  else if cmdAdmin c && !(s.session (bindSrc b)).admin then some (7, 0)
  else none

/-- The one response to a request, on the channel with the reverse binding (R375). -/
def State.respond (s : State) (n : Nat) (m : Msg) (status detail : Nat) (payload : List Byte) : State :=
  let b := s.bind n
  match s.findChan (bindDst b) (bindSrc b) with
  | some r => s.sendMsg r ⟨m.cmd, 1, BitVec.ofNat 8 status, m.tag, 0, BitVec.ofNat 32 detail, payload⟩
  | none => s

/-- The identity set that a destination belongs to (R349): Sk, and C(4k) to C(4k + 3). -/
def idSet (d : Nat) : Option Nat :=
  if 8 ≤ d && d < 12 then some (d - 8) else if 16 ≤ d && d < 32 then some ((d - 16) / 4) else none

/-- A working steward serves the receiver of channel `n`. -/
def State.attended (s : State) (n : Nat) : Bool :=
  match idSet (bindDst (s.bind n)) with
  | some k => (stewGet s.hub (s.hub.server k)).works && !s.hub.halted.contains (s.hub.server k)
  | none => false

/-- A request ends: its channel moves on, and its journal entry is closed (R351, R375). -/
def State.closeReq (s : State) (n : Nat) : State :=
  let s := s.updChan n fun c => { c with req := none }
  { s with hub := { s.hub with journal := s.hub.journal.filter fun j => j.ch != n } }

/-- Answers the request that channel `n` has taken. -/
def State.answer (s : State) (n : Nat) (m : Msg) (status detail : Nat) (payload : List Byte) : State :=
  (s.closeReq n).respond n m status detail payload

/-! ### Posts and takes (R356, R358) -/

/-- MAILBOX_POST: a steward, a twin steward or Hokunuon posts a message, or the post fails (R356, R359). Host
sessions post by MSG frames. -/
def execMailboxPost (ch : Nat) (m : Msg) (s : State) : Out :=
  done <| if ch < 64 && bindValid (s.bind ch) && 8 ≤ bindSrc (s.bind ch) then (s.post ch m none).1 else s

/-- MAILBOX_TAKE: the receiver takes the oldest message. Hokunuon takes a request once the one before it is
answered, and answers at once what it will not execute (R356, R375). A host receiver takes by its acknowledgement
(R358), and the twin by its own of the CTRL frame. -/
def execMailboxTake (ch : Nat) (s : State) : Out :=
  done <|
    let b := s.bind ch
    let d := bindDst b
    if 64 ≤ ch || !bindValid b || d < 8 then s
    else if 12 ≤ d && d < 16 then
      if s.twin.unsent fun n _ _ => n = 0x07 then s else (s.take ch).1
    else if !s.attended ch || (s.chan ch).req.isSome then s
    else
      let r := s.take ch
      match r.2 with
      | none => s
      | some m =>
        let s := r.1
        match s.refuse ch m with
        | some e => if m.kind != 0 && 12 ≤ bindSrc b then s else s.respond ch m e.1 e.2 []
        | none =>
          let s := s.updChan ch fun c => { c with req := some m }
          if changesState m then
            let k := s.hub.server ((idSet d).getD 0)
            { s with hub := { s.hub with journal := s.hub.journal ++ [(⟨ch, k⟩ : Journal)] } }
          else s

/-! ### Registers (R7 to R10, Tables 13.2, 13.4) -/

/-- A channel's registers are out of reset. -/
def State.chanLive (s : State) (n : Nat) : Bool :=
  n < 64 && bindValid (s.bind n) && s.recvState (bindDst (s.bind n)) < 2

/-- DBSET_WRITE: the sender sets doorbell bits (R357). -/
def execDbsetWrite (ch : Nat) (bits : U32) (s : State) : Out :=
  done <| if ch < 64 && 8 ≤ bindSrc (s.bind ch) then s.setDb ch bits else s

/-- Clears doorbell bits; those that `setNow` sets in the same cycle end set (R8, Table 13.6). -/
def State.clearDb (s : State) (n : Nat) (bits setNow : U32) : State :=
  if s.chanLive n then
    (s.updChan n fun c => { c with db := (c.db &&& ~~~bits) ||| setNow }).ringDb n setNow
  else s

/-- DB_CLEAR (R8). -/
def execDbClear (ch : Nat) (bits setNow : U32) (s : State) : Out := done (s.clearDb ch bits setNow)

/-- LOCK_WRITE: LOCK is write-once-to-1 (R9, Table 13.2). -/
def State.writeLock (s : State) (v : Bool) : State :=
  { s with hub := { s.hub with lock := s.hub.lock || v } }

/-- LOCK_WRITE (R9). -/
def execLockWrite (val : Bool) (s : State) : Out := done (s.writeLock val)

/-- REGISTER_WRITE: a write acts as the access code of the register says; reserved bits read 0 (R7, R9, R10). -/
def execRegisterWrite (r : RegId) (val : U32) (s : State) : Out :=
  done <| match r with
  | .bind n =>
    if s.hub.lock || 64 ≤ n then s
    else { s with hub := { s.hub with bind := SMap.set 0 s.hub.bind n ((val &&& 0x7FF).setWidth 16) } }
  | .chstat _ => s
  | .mask n =>
    if s.chanLive n then
      let s := s.updChan n fun c => { c with mask := val }
      s.ringDb n (s.chan n).db
    else if n < 64 && !bindValid (s.bind n) then s.updChan n fun c => { c with mask := val }
    else s
  | .db n => s.clearDb n val 0
  | .dbset n => if n < 64 then s.setDb n val else s
  | .block => s.writeLock (val.getLsbD 0)
  | .feature _ => s

/-! ### Stewards (R350, R351, R359, R419) -/

def State.setStew (s : State) (k : Nat) (x : StewState) : State := { s with hub := stewSet s.hub k x }

/-- STEWARD_WAKE: an asleep steward runs again (R359). -/
def execStewardWake (k : Nat) (s : State) : Out :=
  done <| match stewGet s.hub k with
  | .waking => s.setStew k .working
  | .asleep => s.setStew k .working
  | _ => s

/-- A steward that may take identities over: one that works, or stands by after its own failure (DEDUCED, log 25:
R419 calls it a standby for the takeover rule). -/
def StewState.canServe : StewState → Bool
  | .working => true
  | .standby => true
  | _ => false

/-- Who takes over from steward `k`: its sibling, else the lower-numbered of the other hub die (R350). -/
def Hub.successor (h : Hub) (k : Nat) : Option Nat :=
  let sib := if k % 2 = 0 then k + 1 else k - 1
  let o := if k < 2 then 2 else 0
  [sib, o, o + 1].find? fun j => (stewGet h j).canServe

/-- A command in progress that a successor undoes is answered ABORTED (R351). -/
def State.undo (s : State) (n : Nat) : State :=
  match (s.chan n).req with
  | some m => s.answer n m 0x10 0 []
  | none => s

/-- Steward `k` fails: its identities move at once, and its journal is worked off; `finished` lists the channels
whose command the successor goes on with (R350, R351). With none left the device sends FAILING (R320). -/
def State.stewFail (s : State) (k : Nat) (finished : List Nat) : State :=
  let ids := (List.range 4).filter fun j => s.hub.server j = k
  let s := s.setStew k (.inReset s.now)
  match s.hub.successor k with
  | none =>
    let s := s.setStew k .failed
    let s := s.each ids fun s j => s.receiverDown (8 + j) 2
    s.failing 2
  | some t =>
    let s := s.each ids fun s j => s.receiverDown (8 + j) 1
    let s := if ids.isEmpty then s else s.setStew t .working
    let s := { s with hub := { s.hub with
      serves := (List.range 4).map fun j => if ids.contains j then t else s.hub.server j } }
    let mine := (s.hub.journal.filter fun (j : Journal) => j.steward = k).map (·.ch)
    let move (j : Journal) : Journal := if j.steward = k then { j with steward := t } else j
    let s := { s with hub := { s.hub with journal := s.hub.journal.map move } }
    s.each (mine.filter fun n => !finished.contains n) State.undo

/-- WATCHDOG_EXPIRY: a steward has failed, by its watchdog or by an error in its memory or state (R350). -/
def execWatchdogExpiry (k : Nat) (finished : List Nat) (s : State) : Out :=
  done <| if k < 4 && (stewGet s.hub k).canServe then s.stewFail k finished else s

/-- STEWARD_RELOAD: after 100 µs the steward has loaded the image again, and stands by where its hash is the
running image's (R419). -/
def execStewardReload (k : Nat) (ok : Bool) (s : State) : Out :=
  done <| match stewGet s.hub k with
  | .inReset t =>
    if 100 * usCycles ≤ s.now - t && 4 ≤ s.aon.stage then s.setStew k (if ok then .standby else .failed) else s
  | _ => s

end Sys2Proof.Machine
end

