-- ==== Sys2Proof/Machine/Requests.lean ====
section
/-! DEFINITION. What every Hokunuon command shares: its request, its length, BUSY, staging and answers
(13_mailboxes R368, R374 to R376). -/

namespace Sys2Proof.Machine

/-! ### The request under execution -/

/-- Session and context of a channel's request. -/
def State.reqSess (s : State) (n : Nat) : Nat := bindSrc (s.bind n)
def State.reqCtx (s : State) (n : Nat) : Nat := bindDst (s.bind n) - 16

/-- Executes the request that channel `n` has taken, if it is the command with `code`; its length is checked
first (R375, Table 13.13). -/
def State.serve (s : State) (n code len : Nat) (f : State → Msg → State) : State :=
  match (s.chan n).req with
  | some m =>
    if m.cmd.toNat != code || !s.attended n then s
    else if m.payload.length != len then s.answer n m 3 len []
    else f s m
  | none => s

/-- A command for a context that must exist, answered BUSY while a † command runs on it and the request changes
state (R375). -/
def State.serveCtx (s : State) (n code len : Nat) (f : State → Msg → Nat → State) : State :=
  s.serve n code len fun s m =>
    let c := s.reqCtx n
    if !s.exists_ c then s.answer n m 5 0 []
    else if changesState m && ((s.ctx c).dagger.isSome || (s.ctx c).resize.any (·.receiver)) then s.answer n m 0x0E 0 []
    else f s m c

/-- OK, with a payload. -/
def State.ok (s : State) (n : Nat) (m : Msg) (payload : List Byte) : State := s.answer n m 0 0 payload

/-- A † command of a context starts: STARTED, and the notice COMPLETE follows (R375). -/
def State.started (s : State) (n c : Nat) (m : Msg) : State :=
  (s.answer n m 1 0 []).updCtx c fun x =>
    { x with dagger := some { ch := n, tag := m.tag, cmd := m.cmd, status := 0, detail := 0, ready := false } }

/-- A † command of the device starts; `f` is its long operation, which ends with a status and DETAIL. -/
def State.devDagger (s : State) (n : Nat) (m : Msg) (f : State → State × Nat × Nat) : State :=
  let s := s.answer n m 1 0 []
  let r := f s
  let d : Dagger :=
    { ch := n, tag := m.tag, cmd := m.cmd, status := BitVec.ofNat 8 r.2.1, detail := BitVec.ofNat 32 r.2.2, ready := true }
  { r.1 with hub := { r.1.hub with dagger := some d } }

/-! ### Staging (R368) -/

/-- Bytes of a session's staging buffer. -/
def stagingBytes : Nat := 2 ^ 26

def State.stgRead (s : State) (k o n : Nat) : List Byte := Memory.readN (s.session k).staging o n

/-- Hokunuon writes bytes to staging; granules written whole lose their poison (Table 7.8). -/
def State.stgWrite (s : State) (k o : Nat) (l : List Byte) : State :=
  s.updSession k fun x =>
    { x with staging := Memory.writeN x.staging o l
             stgPoison := SMap.clear x.stgPoison ((o + 63) / 64) ((o + l.length) / 64) }

/-- Bytes that a command writes to staging at its STGOFS, and then OK. -/
def State.okStaged (s : State) (n : Nat) (m : Msg) (l : List Byte) : State :=
  let o := fld m.payload 0 4
  if stagingBytes < o + l.length then s.answer n m 4 0 []
  else (s.stgWrite (s.reqSess n) o l).ok n m []

/-- Bytes that a command reads from staging at its STGOFS. -/
def State.withStaged (s : State) (n : Nat) (m : Msg) (len : Nat) (f : State → List Byte → State) : State :=
  let o := fld m.payload 0 4
  if stagingBytes < o + len then s.answer n m 4 0 [] else f s (s.stgRead (s.reqSess n) o len)

/-! ### COMPLETE (R375, R380) -/

/-- A restore from the context's own newest checkpoint, as far as it comes; while it waits for the twin, DETAIL
holds its mode (R312 to R314). -/
def State.tryRestore (s : State) (c : Nat) (restart : Bool) : State :=
  match s.restoreOwn c restart with
  | .waiting s => s
  | .refused s r => s.daggerEnd c r.1 r.2
  | .restored s => s.daggerEnd c 0 0

/-- A CKPT.RESTORE that waited for pages of the twin goes on. -/
def State.pushRestore (s : State) (c : Nat) : State :=
  match (s.ctx c).dagger with
  | some d => if d.cmd = 0x0704 && !d.ready then s.tryRestore c (d.detail = 1) else s
  | none => s

/-! ### QUERY (R376) -/

/-- QUERY.DEVICE. -/
def execQueryDevice (ch : Nat) (s : State) : Out :=
  done <| s.serve ch 0x0101 4 fun s m => s.okStaged ch m ((List.range 0x900).flatMap fun k => leBytes 4 (s.devWord k))

/-- Code of a service state (Table 12.4). -/
def SvcState.code : SvcState → Nat
  | .serving => 0
  | .suspect => 1
  | .proofing => 2
  | .released => 3
  | .retired => 4
  | .absent => 5

/-- The byte of QUERY.CORES for a physical core. -/
def State.coreByte (s : State) (p : Nat) : Byte :=
  if s.hub.withheld.any fun k => (s.part.sliceCores k).contains p then 0xFF
  else if s.part.absentCore p then 5
  else BitVec.ofNat 8 (s.core p).svc.code

/-- QUERY.CORES. -/
def execQueryCores (ch : Nat) (s : State) : Out :=
  done <| s.serve ch 0x0102 4 fun s m => s.okStaged ch m ((List.range 272).map s.coreByte)

/-- QUERY.BIND. -/
def execQueryBind (ch : Nat) (s : State) : Out :=
  done <| s.serve ch 0x0103 0 fun s m =>
    s.ok ch m ((List.range 64).flatMap (fun k => leBytes 2 (s.bind k).toNat) ++ leBytes 1 (s.reqSess ch))

end Sys2Proof.Machine
end

