-- ==== Sys2Proof/Machine/CtxCommands.lean ====
section
/-! DEFINITION. The CTX and MEM commands of Hokunuon (13_mailboxes R369, R373, R376, R377; 04 R100, R117; 05
R143; 07 R181, R186 to R196; 10 R262, R263, R271, R280, R281; 11 R294 to R297, R315, R317; 15 R418, R422). -/

namespace Sys2Proof.Machine

/-! ### CTX.CREATE (Table 13.15) -/

/-- The settings a creation payload gives. -/
def settingsOf (p : List Byte) : Settings :=
  let opt (o : Nat) : Option Nat := if fld p o 1 = 0xFF then none else some (fld p o 1)
  { arrival := decide (fld p 3 1 = 1)
    seed := BitVec.ofNat 64 (fld p 0x10 8), job := BitVec.ofNat 64 (fld p 0x18 8)
    wlim := BitVec.ofNat 16 (fld p 0x20 2), smpl := fld p 0x22 1
    sealbar := opt 0x23, swapbar := opt 0x24, snapbar := opt 0x25
    prio := fld p 0x26 1, target := if fld p 0x27 1 = 1 then 1 else if fld p 0x27 1 = 2 then 2 else 0
    localu := fld p 0x28 1, gens := fld p 0x29 1, ckperiod := fld p 0x2A 2
    autorestore := decide (fld p 0x2C 1 = 1), adopt := decide (fld p 0x2D 1 = 1), partner := opt 0x2E
    bscratch := fld p 0x2F 1
    signers := ((List.range 4).map fun k => slice p (0x30 + 48 * k) 48).filter fun h => leNat h != 0 }

/-- The first field of a creation payload outside its range: its offset. -/
def badField (p : List Byte) : Option Nat :=
  let u (o : Nat) : Nat := fld p o 1
  let bar (o : Nat) : Bool := u o < 64 || u o = 0xFF
  let rules : List (Nat × Bool) :=
    [(0x02, fld p 0 2 != 0 || (1 ≤ u 2 && u 2 ≤ 16)), (0x03, u 3 < 2), (0x04, u 4 ≤ 72), (0x06, u 6 < 2),
     (0x07, u 7 < 2), (0x22, u 0x22 < 8), (0x23, bar 0x23), (0x24, bar 0x24), (0x25, bar 0x25),
     (0x26, u 0x26 < 16), (0x27, u 0x27 < 3), (0x28, u 0x28 ≤ 128), (0x29, u 0x29 = 1 || u 0x29 = 2),
     (0x2C, u 0x2C < 2), (0x2D, u 0x2D < 2), (0x2E, u 0x2E < 16 || u 0x2E = 0xFF), (0x2F, u 0x2F ≤ 128)]
  (rules.find? fun r => !r.2).map (·.1)

/-- A pair-mode rule that a creation breaks: DETAIL of MODE_CONFLICT (R21, R294, R295). -/
def State.modeConflict (s : State) (g : Settings) : Option Nat :=
  if s.twin.mode = 2 && g.arrival && g.partner.isSome then some 0
  else if s.twin.mode = 3 && s.twin.isSpare then some 1
  else if g.target = 2 && !(s.twin.mode = 1 || (s.twin.mode = 3 && !s.twin.isSpare)) then some 2
  else none

/-- The slices that a creation asks for, if they are free (R377). -/
def State.pickSlices (s : State) (mask n : Nat) : Option (List Nat) :=
  if mask != 0 then
    let l := (List.range 16).filter fun k => bits mask k 1 = 1
    if l.all fun k => s.freeSlices.contains k then some l else none
  else takeN s.freeSlices n


/-- The context that a creation forms, with the bands that are then stack-local, or the DETAIL of NO_RESOURCE. -/
def State.formCtx (s : State) (p : List Byte) : Nat ⊕ (Ctx × List Nat) :=
  let g := settingsOf p
  let hub := fld p 7 1
  let nst := fld p 8 2
  let ndir := fld p 0x0C 4
  let loc := decide (fld p 6 1 = 1)
  let mask := bits (fld p 0x0A 2) 0 12
  match s.pickSlices (fld p 0 2) (fld p 2 1) with
  | none => .inl 0
  | some sl =>
    if sl.isEmpty then .inl 0 else
    match s.growHbm [] loc mask (fld p 4 1) with
    | none => .inl 1
    | some h =>
      match takeN s.freeDdr (fld p 5 1 + g.localu) with
      | none => .inl 2
      | some d =>
        match takeN (s.freeStage hub) nst with
        | none => .inl 3
        | some st =>
          match s.freeDir hub ndir with
          | none => .inl 4
          | some db =>
            let x : Ctx :=
              { state := .ready, cfg := { set := g, margin := marginDefault }
                slices := sortNat sl, grid := s.part.gridOf (sortNat sl)
                hbmUnits := h.1, stackLocal := loc, stackMask := mask
                ddrUnits := d.take (fld p 5 1), localUnits := d.drop (fld p 5 1)
                stageHub := hub, stageUnits := st, dirBase := db, dirSize := ndir }
            let used : Bool := nst != 0 || ndir != 0
            if used && (s.fab.engine false hub = .withheld || s.fab.engine true hub = .withheld) then .inl 3
            else match s.buddyPlace (x.areaUnits + g.bscratch) with
              | none => .inl 5
              | some b => .inr ({ x with areaBase := b, areaLen := x.areaUnits }, h.2)

/-- The context view as a payload: the 240 bytes that a message carries (log 26). -/
def State.viewPayload (s : State) (c : Nat) : List Byte := (List.range 60).flatMap fun k => leBytes 4 (s.ctxWord c (0x900 + k))

/-- CTX.CREATE. -/
def execCtxCreate (ch : Nat) (s : State) : Out :=
  done <| s.serve ch 0x0201 240 fun s m =>
    let c := s.reqCtx ch
    let p := m.payload
    if s.exists_ c then s.answer ch m 5 1 []
    else if s.aon.zeroing then s.answer ch m 0x0E 0 []
    else match badField p with
      | some o => s.answer ch m 4 o []
      | none =>
        match s.modeConflict (settingsOf p) with
        | some d => s.answer ch m 9 d []
        | none =>
          match s.formCtx p with
          | .inl d => s.answer ch m 6 d []
          | .inr (x, lb) =>
            let s := s.updCtx c fun _ => x
            let s := { s with mem := { s.mem with bandLocal := lb } }
            let s := (s.freshCores c).tellCouples
            s.ok ch m (s.viewPayload c)

/-- CTX.DESTROY: refused with STATE while a stream is Running or Waiting (R230). -/
def execCtxDestroy (ch : Nat) (s : State) : Out :=
  done <| s.serveCtx ch 0x0202 0 fun s m c =>
    if !s.quiet c then s.answer ch m 5 2 []
    else
      let s := (s.abandonAll c).abandonCkpt c 6
      (s.destroyCtx c).tellCouples.ok ch m []

/-- CTX.QUERY: the context view, then the endpoint table with withdrawn grants invalid (log 26). -/
def execCtxQuery (ch : Nat) (s : State) : Out :=
  done <| s.serveCtx ch 0x0203 4 fun s m c =>
    let x := s.ctx c
    let ep (n : Nat) : Nat :=
      let e := (x.endpoint n).toNat
      if x.withdrawn.contains n then e - bits e 181 1 * 2 ^ 181 else e
    s.okStaged ch m ((List.range 64).flatMap (fun k => leBytes 4 (s.ctxWord c (0x900 + k)))
      ++ (List.range 8192).flatMap fun n => leBytes 32 (ep n))

/-! ### Tables (R100, R112, R125, R143) -/

/-- A format-table entry that a load refuses (R100). -/
def entryBad (w : Nat) : Bool := bits w 24 2 = 3 || (bits w 24 2 = 1 && bits w 0 16 = 0)

/-- Byte offset of the first bad entry of a table image (R100, R143). -/
def imageBad (l : List Byte) : Option Nat :=
  let offs := (List.range 1024).map (4 * ·)
    ++ (List.range 8).flatMap fun k => [0x20, 0x24, 0x28].map fun o => 4112 + 4160 * k + o
  offs.find? fun o => entryBad (fld l o 4)

/-- A curve byte with its reserved bits 0 (R10, Table 5.4). -/
def curveByte (o : Nat) (b : Byte) : Byte :=
  if (5 ≤ o && o < 0x10) || (0x2C ≤ o && o < 0x40) || (0x40 ≤ o && 12 ≤ o % 16) then 0
  else if o = 0x23 || o = 0x27 || o = 0x2B then b &&& 0x03 else b

/-- Loads a table image whole (R125). -/
def CtxCfg.loadImage (g : CtxCfg) (l : List Byte) : CtxCfg :=
  { g with
    fmt := (List.range 1024).foldl (fun m k => SMap.set 0 m k (BitVec.ofNat 32 (fld l (4 * k) 4 % 2 ^ 26))) []
    margin := (List.range 16).foldl (fun m k => SMap.set 0 m k (fld l (4096 + k) 1)) []
    curves := Memory.writeN [] 0 ((List.range 33280).map fun k => curveByte (k % 4160) (l.getD (4112 + k) 0)) }

/-- CTX.TABLES: the table image, while no stream is Running or Waiting (R100, R125, R143). -/
def execCtxTables (ch : Nat) (s : State) : Out :=
  done <| s.serveCtx ch 0x0204 8 fun s m c =>
    if fld m.payload 4 4 != 37392 then s.answer ch m 4 4 []
    else if !s.quiet c then s.answer ch m 5 2 []
    else s.withStaged ch m 37392 fun s l =>
      match imageBad l with
      | some o => s.answer ch m 0x0A o []
      | none => (s.updCtx c fun x => { x with cfg := x.cfg.loadImage l }).ok ch m []

/-- A tensor table of 4,096 entries (R112, R244). -/
def loadTtab (l : List Byte) : SMap TensorEnt :=
  (List.range 4096).foldl (fun m k => SMap.set {} m k
    { key := BitVec.ofNat 64 (fld l (16 * k) 8), tid := BitVec.ofNat 32 (fld l (16 * k + 8) 4)
      ctl := BitVec.ofNat 32 (fld l (16 * k + 12) 4 % 2 ^ 15) }) []

/-- CTX.TTAB: only instructions that issue later see the new entries (R112). -/
def execCtxTtab (ch : Nat) (s : State) : Out :=
  done <| s.serveCtx ch 0x0205 4 fun s m c =>
    s.withStaged ch m 65536 fun s l => (s.updCtx c fun x => { x with cfg := { x.cfg with ttab := loadTtab l } }).ok ch m []

/-! ### CTX.PLANS (R262, R263, R271, R280, R281) -/

/-- A region of `n` bytes lies wholly in one partition; `wide` adds staging and scratchpad windows (R271). -/
def Ctx.regionOk (x : Ctx) (wide : Bool) (base n : Nat) : Bool :=
  let inside (lo len : Nat) : Bool := lo ≤ base && base + n ≤ lo + len
  n = 0 || inside 0 (hbmBytes x.hbmUnits) || inside 0x100000000000 (x.ddrUnits.length * 2 ^ 36)
    || (wide && (inside 0x300000000000 (x.stageUnits.length * 2 ^ 20)
      || (0x280000000000 ≤ base && base + n ≤ 0x300000000000 && base % 2 ^ 24 + n ≤ spBytes)))

/-- The rank-map checks of R271, and that the ranks' endpoints are granted (R262). -/
def Ctx.ranksOk (x : Ctx) (rm nrank my : Nat) : Bool :=
  nrank != 0 && my < nrank && rm + nrank ≤ 65536 && (x.rankEp rm my).isNone
    && (List.range nrank).all fun r => match x.rankEp rm r with
      | some e => x.granted e
      | none => true

/-- STAGEKIB and STAGESZ lie in the context's staging allocation. -/
def Ctx.stageOk (x : Ctx) (kib sz : Nat) : Bool := kib + sz ≤ x.stageUnits.length * 1024

/-- A collective plan entry that loads (R271, R278). With OP 0 it is the null plan, whose other fields say nothing and are
not checked (DEDUCED, log 27). -/
def Ctx.collOk (x : Ctx) (p : Plan) : Bool :=
  let sz := Plan.fld p 384 32
  let ext := (Plan.len p + 1) / 2
  let need := if Plan.op p ≤ 2 then (Plan.blks p * (Plan.nrank p + 1) * 1280 + 1023) / 1024 else Plan.blks p * 16
  Plan.op p = 0 || (Plan.op p ≤ 4 && (Plan.red p ≤ 2 || 3 ≤ Plan.op p)
    && 1 ≤ Plan.len p && Plan.len p ≤ 2 ^ 40 && 1 ≤ Plan.blks p && Plan.blks p ≤ 64
    && x.ranksOk (Plan.rmbase p) (Plan.nrank p) (Plan.myrank p)
    && x.regionOk true (Plan.src p) ext && x.regionOk true (Plan.dst p) ext
    && need ≤ sz && x.stageOk (Plan.fld p 160 32) sz)

/-- A format that dispatch carries: no MX, crumb or reserved code. -/
def dispFmt (f : Nat) : Bool := f < 12 && !fmtMx f

/-- A dispatch plan entry that loads (R281); fields outside their ranges are refused too, and KIND 0 is
the null plan (R11; log 27). -/
def Ctx.dispOk (x : Ctx) (p : Plan) : Bool :=
  let sz := Plan.fld p 320 32
  let need := (8 * Plan.tmax p * Plan.k p + 16 * Plan.nrank p + 1023) / 1024 + 64
  Plan.kind p = 0 || (Plan.kind p = 1 && dispFmt (Plan.fmt p) && dispFmt (Plan.ofmt p)
    && Plan.h p * fmtWidth (Plan.fmt p) % 8 = 0 && Plan.h p * fmtWidth (Plan.ofmt p) % 8 = 0
    && 1 ≤ Plan.k p && Plan.k p ≤ 16 && Plan.nlocal p ≤ 4096 && Plan.cap p ≤ 2 ^ 24 && 1 ≤ Plan.h p
    && Plan.tmax p ≤ 65535
    && x.ranksOk (Plan.drmbase p) (Plan.nrank p) (Plan.myrank p)
    && x.regionOk false (Plan.rxbase p) (Plan.nlocal p * Plan.cap p * Plan.tokBytes p)
    && x.regionOk false (Plan.cntbase p) (4 * Plan.nlocal p)
    && need ≤ sz && x.stageOk (Plan.fld p 160 32) sz)

/-- Bits that a table entry holds; the reserved ones read 0 (R10; Tables 10.2, 10.5, 10.7, 10.8). -/
def maskBits (l : List (Nat × Nat)) (v : Nat) : Nat := (l.map fun r => bits v r.1 r.2 * 2 ^ r.1).sum
def epBits (v : Nat) : Nat := maskBits [(0, 182), (192, 16), (224, 32)] v
def collBits (v : Nat) : Nat := maskBits [(0, 16), (32, 80), (128, 296)] v
def dispBits (v : Nat) : Nat := maskBits [(0, 408)] v
def dirBits (v : Nat) : Nat := maskBits [(0, 28), (63, 1)] v

/-- Entry size and count of the tables of CTX.PLANS. -/
def Ctx.planTable (x : Ctx) (t : Nat) : Option (Nat × Nat) :=
  if t = 0 then some (32, 8192)
  else if t = 1 then some (2, 65536)
  else if t = 2 || t = 3 then some (64, 4096)
  else if t = 4 then some (8, x.dirSize)
  else none

/-- Endpoints granted again start their connections anew; what an old connection carried fails with LINK. -/
def State.regrant (s : State) (c : Nat) (l : List Nat) : State :=
  let s := s.each l fun s n =>
    let deps := ((s.ctx c).conn n).unacked.filterMap (·.dep)
    let s := s.updCtx c fun x => { x with conns := SMap.set {} x.conns n {} }
    s.each deps fun s d => s.depLost d 4
  s.updCtx c fun x => { x with withdrawn := x.withdrawn.filter fun n => !l.contains n }

/-- Entries loaded from `first` on into table `t`. -/
def State.loadPlans (s : State) (c t first : Nat) (l : List Nat) : State :=
  let idx := (List.range l.length).map (first + ·)
  let es := List.zip idx l
  let put {w : Nat} (d : BitVec w) (m : SMap (BitVec w)) : SMap (BitVec w) :=
    es.foldl (fun m e => SMap.set d m e.1 (BitVec.ofNat w e.2)) m
  if t = 0 then
    (s.updCtx c fun x => { x with cfg := { x.cfg with endpoints := put 0 x.cfg.endpoints } }).regrant c idx
  else if t = 1 then s.updCtx c fun x => { x with cfg := { x.cfg with rankmap := put 0xFFFF x.cfg.rankmap } }
  else if t = 2 then s.updCtx c fun x => { x with cfg := { x.cfg with collPlans := put 0 x.cfg.collPlans } }
  else if t = 3 then s.updCtx c fun x => { x with cfg := { x.cfg with dispPlans := put 0 x.cfg.dispPlans } }
  else
    let x := s.ctx c
    let lo := x.stageHub * 1048576 + x.dirBase
    let putD (m : SMap U64) : SMap U64 := es.foldl (fun m e => SMap.set 0 m (lo + e.1) (BitVec.ofNat 64 e.2)) m
    if x.cfg.active1 then { s with mem := { s.mem with dir0 := putD s.mem.dir0 } }
    else { s with mem := { s.mem with dir1 := putD s.mem.dir1 } }

/-- CTX.PLANS: every entry is checked before one is loaded; a bad one is named by its offset in the staged data. -/
def execCtxPlans (ch : Nat) (s : State) : Out :=
  done <| s.serveCtx ch 0x0206 16 fun s m c =>
    let x := s.ctx c
    let t := fld m.payload 4 1
    let first := fld m.payload 8 4
    let n := fld m.payload 12 4
    match x.planTable t with
    | none => s.answer ch m 4 4 []
    | some (z, top) =>
      if top < first then s.answer ch m 4 8 []
      else if top < first + n then s.answer ch m 4 12 []
      else s.withStaged ch m (z * n) fun s l =>
        let keep (v : Nat) : Nat :=
          if t = 0 then epBits v else if t = 2 then collBits v else if t = 3 then dispBits v
          else if t = 4 then dirBits v else v
        let es := (List.range n).map fun k => keep (fld l (z * k) z)
        let good (v : Nat) : Bool :=
          if t = 2 then x.collOk (BitVec.ofNat 512 v) else if t = 3 then x.dispOk (BitVec.ofNat 512 v) else true
        match (List.range n).find? fun k => !good (es.getD k 0) with
        | some k => s.answer ch m 0x0A (z * k) []
        | none => (s.loadPlans c t first es).ok ch m []

/-- CTX.SWAP: the swap takes effect at the next release of the swap barrier (R280). -/
def execCtxSwap (ch : Nat) (s : State) : Out :=
  done <| s.serveCtx ch 0x0207 0 fun s m c => (s.updCtx c fun x => { x with swapReq := true }).ok ch m []

/-! ### Semaphores (R210, R373) -/

/-- A semaphore of the context. -/
def Ctx.hasSem (x : Ctx) (n : Nat) : Bool := n < 256 * x.grid.length

/-- Sets semaphore `n`; increments of its cell in the same cycle come after the set (Table 8.1, R219). -/
def State.setSem (s : State) (c n : Nat) (v : U32) : State :=
  match s.pcore c (n / 256) with
  | some p => s.updCore p fun k =>
      let same := if k.incCycle = s.now then k.incs.filter fun d => d.cell = n % 256 else []
      { k with cells := SMap.set 0 k.cells (n % 256) (v + BitVec.ofNat 32 (same.map Inc.inc).sum) }
  | none => s

/-- CTX.SETSEM: while no stream is Running or Waiting (Table 8.1). -/
def execCtxSetsem (ch : Nat) (s : State) : Out :=
  done <| s.serveCtx ch 0x0208 8 fun s m c =>
    let n := fld m.payload 0 2
    if !(s.ctx c).hasSem n then s.answer ch m 4 0 []
    else if !s.quiet c then s.answer ch m 5 2 []
    else (s.setSem c n (BitVec.ofNat 32 (fld m.payload 4 4))).ok ch m []

/-- CTX.SIGNAL: an increment as by a remote signal (R373). Bulk writes of lower SEQ have landed: a frame takes
effect in SEQ order (R366). -/
def execCtxSignal (ch : Nat) (s : State) : Out :=
  done <| s.serveCtx ch 0x0209 3 fun s m c =>
    let n := fld m.payload 0 2
    let i := fld m.payload 2 1
    if !(s.ctx c).hasSem n then s.answer ch m 4 0 []
    else if i = 0 || 16 < i then s.answer ch m 4 2 []
    else (s.signal c n i hostKey).ok ch m []

/-! ### Size, sampler and reset -/

/-- CTX.RESIZE †: the change is made at a hold (R315). -/
def execCtxResize (ch : Nat) (s : State) : Out :=
  done <| s.serveCtx ch 0x020A 5 fun s m c =>
    let p := m.payload
    if 16 < fld p 2 1 then s.answer ch m 4 2 []
    else if 72 < fld p 3 1 then s.answer ch m 4 3 []
    else
      let r : Resize :=
        { mask := fld p 0 2, nslice := fld p 2 1, hbmu := fld p 3 1, ddru := fld p 4 1, other := none
          receiver := false, held := false, was := none }
      (s.started ch c m).updCtx c fun x => { x with resize := some r }

/-- CTX.LEND †: slices and units move to the receiver at a hold of both (R317). -/
def execCtxLend (ch : Nat) (s : State) : Out :=
  done <| s.serveCtx ch 0x020B 6 fun s m c =>
    let p := m.payload
    let x := s.ctx c
    let o := fld p 0 1
    let r : Resize :=
      { mask := fld p 2 2, nslice := 0, hbmu := fld p 4 1, ddru := fld p 5 1, other := some o, receiver := false
        held := false, was := none }
    let sl := (List.range 16).filter fun k => bits r.mask k 1 = 1
    if 16 ≤ o || o = c then s.answer ch m 4 0 []
    else if !s.bound (s.reqSess ch) o then s.answer ch m 7 1 []
    else if (s.ctx o).dagger.isSome then s.answer ch m 0x0E 0 []
    else if !(sl.all fun k => x.slices.contains k) || x.slices.length ≤ sl.length then s.answer ch m 6 0 []
    else if x.hbmUnits.length < r.hbmu || (s.exists_ o && r.hbmu != 0 && (s.ctx o).stackLocal != x.stackLocal)
        || (r.hbmu != 0 && (s.ctx o).hbmUnits.contains 71) then s.answer ch m 6 1 []
    else if x.ddrUnits.length < r.ddru then s.answer ch m 6 2 []
    else
      let s := (s.started ch c m).updCtx c fun x => { x with resize := some r }
      if s.exists_ o then s.updCtx o fun y => { y with resize := some { r with other := some c, receiver := true } } else s

/-- CTX.SAMPLER (Table 6.13). -/
def execCtxSampler (ch : Nat) (s : State) : Out :=
  done <| s.serveCtx ch 0x020C 1 fun s m c =>
    let v := fld m.payload 0 1
    if 7 < v then s.answer ch m 4 0 []
    else (s.updCtx c fun x => { x with cfg := { x.cfg with set := { x.cfg.set with smpl := v } } }).ok ch m []

/-- CTX.RESET: the context is reset while its Cn receiver is in reset, and then answered (R422). -/
def execCtxReset (ch : Nat) (s : State) : Out :=
  done <| s.serveCtx ch 0x020D 0 fun s m c => (s.ctxReset c).ok ch m []

/-! ### MEM -/

/-- A bulk port as its 40-byte image, and back; reserved bits read 0 (Table 13.11). -/
def BulkPort.bytes (b : BulkPort) : List Byte :=
  leBytes 2 (b.space.toNat + 16 * b.ctx.toNat) ++ leBytes 2 b.handle.toNat ++ leBytes 8 b.addr.toNat
    ++ leBytes 4 b.stride.toNat ++ leBytes 8 b.rowlen.toNat ++ leBytes 8 b.wbase.toNat ++ leBytes 8 b.wlim.toNat

def bportOf (l : List Byte) : BulkPort :=
  { space := BitVec.ofNat 3 (fld l 0 1), ctx := BitVec.ofNat 4 (fld l 0 1 / 16), handle := BitVec.ofNat 16 (fld l 2 2)
    addr := BitVec.ofNat 64 (fld l 4 8), stride := BitVec.ofNat 32 (fld l 12 4), rowlen := BitVec.ofNat 14 (fld l 16 2)
    wbase := BitVec.ofNat 64 (fld l 24 8), wlim := BitVec.ofNat 64 (fld l 32 8) }

/-- MEM.BPORT. -/
def execMemBport (ch : Nat) (s : State) : Out :=
  done <| s.serve ch 0x0301 48 fun s m =>
    let k := s.reqSess ch
    let n := fld m.payload 0 1
    let b := bportOf (slice m.payload 8 40)
    if 16 ≤ n then s.answer ch m 4 0 []
    else if b.space = 1 && !s.bound k b.ctx.toNat then s.answer ch m 7 1 []
    else
      let s := s.updSession k fun x => { x with ports := SMap.set {} x.ports n b }
      s.ok ch m b.bytes

/-- Zeros over a range of one region; in the buddy window they go to the twin. -/
def State.zeroCtx (s : State) (c a n : Nat) : State :=
  match s.spot c (a : Nat) with
  | none => s
  | some p =>
    if p.place = .buddy then
      s.each (List.range ((n + 4095) / 4096)) fun s k =>
        s.twinSend 0x01 (BitVec.ofNat 64 (p.off + 4096 * k)) (zeros (min 4096 (n - 4096 * k))) 0 none
    else s.ctxWrite c a (zeros n)

/-- MEM.ZERO: writes of zero over the range (Table 13.14, Table 7.8, R181). -/
def execMemZero (ch : Nat) (s : State) : Out :=
  done <| s.serveCtx ch 0x0302 16 fun s m c =>
    let a := fld m.payload 0 8
    let n := fld m.payload 8 8
    let win : Bool := a < 0x300000000000 && 0x280000000000 < a + n
    let inside : Bool := n = 0 || (match s.spot c (a : Nat), s.spot c ((a + n - 1 : Nat) : Int) with
      | some p, some q => decide (p.place = q.place)
      | _, _ => false)
    if !inside then s.answer ch m 4 0 []
    else if win && !s.quiet c then s.answer ch m 5 2 []
    else (s.zeroCtx c a n).ok ch m []

end Sys2Proof.Machine
end

