-- ==== Sys2Proof/Machine/RunCommands.lean ====
section
/-! DEFINITION. The PROG, STRAND, CKPT and context TELE and FAULT commands of Hokunuon (13_mailboxes R376 to R381;
02 R30; 07 R207; 08 R233; 09 R249, R254; 11 R309, R312, R313). -/

namespace Sys2Proof.Machine

/-! ### PROG (R379) -/

/-- PROG.LOAD †: suspect cores leave with a load that passes (R334); a refused one changes nothing else. -/
def execProgLoad (ch : Nat) (s : State) : Out :=
  done <| s.serveCtx ch 0x0401 16 fun s m c =>
    let p := m.payload
    let n := fld p 4 4
    let base := fld p 8 8
    let k := s.reqSess ch
    if !s.quiet c then s.answer ch m 5 2 []
    else s.withStaged ch m (16 * n) fun s l =>
      let es := unpackLoad l (fun o n => s.stgRead k o n) stagingBytes
      let s := s.started ch c m
      let t := s.dropSuspects c
      match t.loadCheck c es base with
      | 0 => (t.install c es base).daggerEnd c 0 0
      | d => s.daggerEnd c 0x0B d

/-- PROG.UNLOAD: programs are removed, strands Idle. -/
def execProgUnload (ch : Nat) (s : State) : Out :=
  done <| s.serveCtx ch 0x0402 0 fun s m c =>
    if !s.quiet c then s.answer ch m 5 2 []
    else
      let s := s.updCtx c fun x => { x with cfg := { x.cfg with
        loaded := false, lkey := 0, progs := [], images := [], progHash := [], loadList := [], loadBase := 0 } }
      (s.idleStreams c).ok ch m []

/-! ### STRAND (R30) -/

/-- The strands a START or STOP names: virtual cores in order, strands of the mask. -/
def strandsNamed (c first n mask : Nat) : List StrandId :=
  (List.range n).flatMap fun v => (allStrands.filter fun t => bits mask t 1 = 1).map fun t => ⟨c, first + v, t⟩

/-- START and STOP take the same payload; virtual cores beyond VCORES are a bad field. -/
def State.strandCmd (s : State) (ch code : Nat) (f : State → Msg → Nat → List StrandId → State) : State :=
  s.serveCtx ch code 5 fun s m c =>
    let first := fld m.payload 0 2
    let n := fld m.payload 2 2
    let top := (s.ctx c).grid.length
    if top < first then s.answer ch m 4 0 []
    else if top < first + n then s.answer ch m 4 2 []
    else f s m c (strandsNamed c first n (fld m.payload 4 1))

/-- STRAND.START: programs that do not cover the context's VCORES must be loaded first (R57; log 30). -/
def execStrandStart (ch : Nat) (s : State) : Out :=
  done <| s.strandCmd ch 0x0501 fun s m c l =>
    if !(s.ctx c).cfg.loaded then s.answer ch m 0x0B 7 []
    else (s.each l fun s t => s.startStrand t (s.reqSess ch)).ok ch m []

/-- STRAND.STOP. -/
def execStrandStop (ch : Nat) (s : State) : Out :=
  done <| s.strandCmd ch 0x0502 fun s m _ l => (s.each l State.stopStrand).ok ch m []

/-- State codes of R304. -/
def StreamState.code : StreamState → Nat
  | .idle => 0
  | .running => 1
  | .waiting => 2
  | .done => 3
  | .stopped => 4
  | .faulted => 5

/-- STRAND.STATUS. -/
def execStrandStatus (ch : Nat) (s : State) : Out :=
  done <| s.serveCtx ch 0x0503 4 fun s m c =>
    s.okStaged ch m ((s.streamsOf c).map fun i => BitVec.ofNat 8 (s.stream i).state.code)

/-- STRAND.STEP: the step number, with what depends on its change (R112, R123, R246). -/
def execStrandStep (ch : Nat) (s : State) : Out :=
  done <| s.serveCtx ch 0x0504 8 fun s m c => (s.setStep c (BitVec.ofNat 64 (fld m.payload 0 8))).ok ch m []

/-! ### CKPT -/

/-- CKPT.ARM: where the pair mode gives the context no snapshot target, MODE_CONFLICT (R295, R299). -/
def execCkptArm (ch : Nat) (s : State) : Out :=
  done <| s.serveCtx ch 0x0701 0 fun s m c =>
    if !s.mayCheckpoint c then s.answer ch m 9 2 []
    else (s.updCtx c fun x => { x with ckpt := { x.ckpt with armed := true } }).ok ch m []

/-- CKPT.DRAINED: the committed checkpoint of that STEP (R309). -/
def execCkptDrained (ch : Nat) (s : State) : Out :=
  done <| s.serveCtx ch 0x0702 8 fun s m c =>
    let n := fld m.payload 0 8
    let k := (s.ctx c).ckpt
    match [false, true].find? fun b => (k.slot b).valid && manStep (k.slot b).manifest = n with
    | none => s.answer ch m 4 0 []
    | some b =>
      let s := if (k.slot b).buddy then s.hokSend 0x1007 2 (leBytes 1 c ++ leBytes 8 n) else s
      (s.updCtx c fun x => { x with ckpt := x.ckpt.setSlot b { x.ckpt.slot b with drained := true } }).ok ch m []

/-- The area in this device's buddy region of the twin's context `c`: position of its first unit. -/
def State.areaOf (s : State) (c : Nat) : Option (Nat × U64 × Src) :=
  let m := unitsImage s.mem.ddr s.twin.region 36
  (List.range s.twin.region.length).findSome? fun i =>
    match s.areaAt m i with
    | some a => if manCtx a.2.man = c then some (i, a) else none
    | none => none

/-- The lowest handle number, from 1, that names nothing. -/
def State.freeHandle (s : State) : Nat :=
  ((List.range (s.hub.handles.length + 1)).map (· + 1)).find? (fun n => !s.hub.handles.any fun h => h.1 = n)
    |>.getD 0

/-- CKPT.OPEN: a handle for a checkpoint of a context that the session is bound to (R309, R370). -/
def execCkptOpen (ch : Nat) (s : State) : Out :=
  done <| s.serve ch 0x0703 3 fun s m =>
    let k := s.reqSess ch
    let kind := fld m.payload 0 1
    let c := fld m.payload 1 1
    let slot := fld m.payload 2 1
    let give (s : State) (unit : Nat) : State :=
      let n := s.freeHandle
      let h : Handle :=
        { sess := k, kind := kind, ctx := c, slotB := decide (slot = 1), unit := unit, data := [], landed := [] }
      (s.setHandle n h).ok ch m (leBytes 2 n)
    if 2 < kind then s.answer ch m 4 0 []
    else if 16 ≤ c then s.answer ch m 4 1 []
    else if 1 < slot then s.answer ch m 4 2 []
    else if !s.bound k c then s.answer ch m 7 1 []
    else if kind = 1 then
      match s.areaOf c with
      | some a => give s a.1
      | none => s.answer ch m 5 0 []
    else if !s.exists_ c && kind = 0 then s.answer ch m 5 0 []
    else give s 0

/-- A restore from a checkpoint at hand. -/
def State.restoreSrc (s : State) (c : Nat) (x : Src) (restart : Bool) : State :=
  match s.restorable c x restart with
  | some r => s.daggerEnd c r.1 r.2
  | none =>
    match s.verify c x (s.ctx c).cfg.set.arrival with
    | some r => s.daggerEnd c r.1 r.2
    | none => (s.restore c x restart none).daggerEnd c 0 0

/-- CKPT.RESTORE † (R312, R313): from the context's own newest checkpoint, from the copy in this device's buddy
region, or from a set that the host wrote. -/
def execCkptRestore (ch : Nat) (s : State) : Out :=
  done <| s.serveCtx ch 0x0704 4 fun s m c =>
    let src := fld m.payload 0 1
    let mode := fld m.payload 1 1
    let n := fld m.payload 2 2
    let h := s.handle n
    let restart : Bool := mode = 1
    if 2 < src then s.answer ch m 4 0 []
    else if 1 < mode then s.answer ch m 4 1 []
    else if src = 2 && !(h.kind = 2 && h.sess = s.reqSess ch && h.ctx = c) then s.answer ch m 4 2 []
    else if !s.quiet c then s.answer ch m 5 2 []
    else
      let s := s.started ch c m
      if src = 0 then
        let s := s.updCtx c fun x => { x with dagger := x.dagger.map fun d => { d with detail := BitVec.ofNat 32 mode } }
        s.tryRestore c restart
      else if src = 1 then
        match s.areaOf c with
        | some a => if a.2.1 = 0 then s.restoreSrc c a.2.2 restart else s.daggerEnd c 0x0C 0xFFFFFFFF
        | none => s.daggerEnd c 0x0C 0xFFFFFFFF
      else s.restoreSrc c (srcSet s.kept h.data h.poison) restart

/-- Offset of the first field of Table 9.7 that a part of R254 finds different. -/
def State.replayDiff (s : State) (c part : Nat) (r : List Byte) : Option Nat :=
  let g := (s.ctx c).cfg
  let rv := fld r 0x98 2
  let mine := s.replayRec c
  let mine := if g.lkey != 0 && rv != 0 then
      mine.take 0x60 ++ hashProgs (g.entsFor rv) rv ++ slice mine 0x90 8 ++ slice r 0x98 2 ++ mine.drop 0x9A
    else mine
  let fields : List (Nat × Nat) :=
    if part = 3 then [(0x10, 16), (0x28, 8), (0x30, 48)]
    else if part = 4 then [(0x60, 48), (0x90, 8), (0x98, 2), (0x9A, 1)]
    else [(0x9C, 4), (0xA0, 48)]
  (fields.find? fun f => slice r f.1 f.2 != slice mine f.1 f.2).map (·.1)

/-- CKPT.VERIFY: part 3, 4 or 5 of R254 against a replay record in staging. -/
def execCkptVerify (ch : Nat) (s : State) : Out :=
  done <| s.serveCtx ch 0x0705 5 fun s m c =>
    let part := fld m.payload 4 1
    if part < 3 || 5 < part then s.answer ch m 4 4 []
    else s.withStaged ch m 304 fun s r =>
      match s.replayDiff c part r with
      | some o => s.answer ch m 0x0D o []
      | none => s.ok ch m []

/-! ### Counter records (R380) -/

/-- One counter record: chapter, table, row, index, strand and stream; counters that no table holds carry table 0
(log 28). -/
def telRec (chap tab row idx st sm : Nat) (v : U64) : List Byte :=
  leBytes 1 chap ++ leBytes 1 tab ++ leBytes 2 row ++ leBytes 2 idx ++ leBytes 1 st ++ leBytes 1 sm ++ leBytes 8 v.toNat

/-- Counters of Table 4.7 in row order. -/
def NumCtrs.rows (n : NumCtrs) : List U64 :=
  [n.sat, n.ufl, n.infw, n.nanw, n.nfmap, n.accovf, n.crumbsat, n.amaxskip]

/-- Records of one row for every stream that keeps it. -/
def State.perStream (s : State) (c : Nat) (es : List Eng) (chap tab row : Nat) (f : Stream → U64) : List Byte :=
  ((s.streamsOf c).filter fun i => es.contains i.eng).flatMap fun i =>
    telRec chap tab row i.vc i.st i.eng.num (f (s.stream i))

/-- Records of one row for every core of a context. -/
def State.perCore (s : State) (c chap tab row : Nat) (f : Core → U64) : List Byte :=
  let g := (s.ctx c).grid
  (List.range g.length).flatMap fun v => telRec chap tab row v 0xFF 0xFF (f (s.core (g.getD v 0)))

/-- Records of one row of counters of the context. -/
def ctxRecs (chap tab from_ : Nat) (l : List U64) : List Byte :=
  (List.range l.length).flatMap fun k => telRec chap tab (from_ + k) 0 0xFF 0xFF (l.getD k 0)

/-- The counter records of a context, WAITCYC with the cycles of a Waiting not yet left (R233), in the order chapter,
table, row, virtual core, strand, stream. -/
def State.ctxRecords (s : State) (c : Nat) : List Byte :=
  let x := s.ctx c
  let g := x.grid
  let t := x.ctrs
  s.perStream c [.m] 3 8 0 (·.ctrs.mblkload) ++ s.perStream c [.m] 3 8 1 (·.ctrs.mblkreuse)
    ++ s.perStream c [.m] 3 8 2 (·.ctrs.mtile) ++ s.perStream c [.m] 3 8 3 (·.ctrs.mslotwait)
    ++ s.perStream c [.m] 3 8 4 (·.ctrs.mchkskip) ++ s.perCore c 3 8 5 (·.ctrs.mchkfail)
    ++ (List.range 8).flatMap (fun r => s.perStream c allEngs 4 7 r fun y => y.num.rows.getD r 0)
    ++ s.perStream c [.v] 5 6 0 (·.ctrs.velem) ++ s.perStream c [.v] 5 6 1 (·.ctrs.permoor)
    ++ s.perStream c [.v] 5 6 2 (·.ctrs.vintlk)
    ++ s.perStream c [.x] 6 0 0 (·.ctrs.xnull)
    ++ (List.range g.length).flatMap (fun v => (List.range 24).flatMap fun b =>
        telRec 7 2 0 v b 0xFF (SMap.get 0 (s.core (g.getD v 0)).ctrs.bkwait b))
    ++ s.perStream c allEngs 7 2 1 (·.ctrs.lostw) ++ ctxRecs 7 2 2 [t.bulklost] ++ ctxRecs 7 0 0 [t.xlogdrop]
    ++ s.perStream c allEngs 8 6 0 (fun y => (y.leaveWait s.now).ctrs.waitcyc) ++ s.perCore c 8 6 1 (·.ctrs.semdefer)
    ++ ctxRecs 8 6 2 [t.rsigdrop]
    ++ (List.range 64).flatMap (fun b => telRec 8 6 3 b 0xFF 0xFF (x.unit b).barrel)
    ++ (List.range 64).flatMap (fun b => telRec 8 6 4 b 0xFF 0xFF ((x.unit b).barlate.setWidth 64))
    ++ ctxRecs 9 0 0 [t.glzdrop]
    ++ ctxRecs 10 10 3 [t.fabretx, t.fabce, t.xcollskip, t.dispinv, t.dispdrop, t.abandons]
    ++ (s.strandsOf c).flatMap fun y => telRec 11 0 0 y.vc y.st 0xFF (s.strand y).gathEvict

/-- TELE.COUNTERS: the response says how many records were written (log 29). -/
def execTeleCounters (ch : Nat) (s : State) : Out :=
  done <| s.serveCtx ch 0x0801 4 fun s m c =>
    let l := s.ctxRecords c
    let o := fld m.payload 0 4
    if stagingBytes < o + l.length then s.answer ch m 4 0 []
    else (s.stgWrite (s.reqSess ch) o l).ok ch m (leBytes 4 (l.length / 16))

/-! ### Logs -/

/-- Writes log records to staging, answers with their number, and clears the log where asked (log 29). -/
def State.okLog (s : State) (ch : Nat) (m : Msg) (recs : List (List Byte)) (clear : State → State) : State :=
  let o := fld m.payload 0 4
  let l := recs.flatten
  if stagingBytes < o + l.length then s.answer ch m 4 0 []
  else
    let s := s.stgWrite (s.reqSess ch) o l
    let s := if fld m.payload 4 1 = 1 then clear s else s
    s.ok ch m (leBytes 4 recs.length)

/-- A record is one of those that a layer glaze sums (R250). -/
def GlazeRec.inLayer (a b : GlazeRec) : Bool := a.step = b.step && a.sealNo = b.sealNo && a.layer = b.layer

/-- The layer glaze of a record's step, seal and LAYER: the sum of the glaze fields of the records with all three
(R250). -/
def layerGlaze (l : List GlazeRec) (r : GlazeRec) : U64 := ((l.filter r.inLayer).map (·.glaze)).sum

/-- The layer glazes of a glaze log, in the order in which their first records stand: step, sum, seal and LAYER, in 24
bytes (R250; the form is a DESIGN CHOICE, log 150). -/
def layerGlazes (l : List GlazeRec) : List (List Byte) :=
  (l.foldl (fun (a : List GlazeRec) r => if a.any r.inLayer then a else a ++ [r]) []).map fun r =>
    leBytes 8 r.step.toNat ++ leBytes 8 (layerGlaze l r).toNat ++ leBytes 2 r.sealNo ++ leBytes 2 r.layer ++ zeros 4

/-- TELE.GLAZE: the glaze log, oldest record first, and behind it the layer glazes (R249, R250); the answer tells how many
there are of each (logs 29, 150). -/
def execTeleGlaze (ch : Nat) (s : State) : Out :=
  done <| s.serveCtx ch 0x0803 5 fun s m c =>
    let g := (s.ctx c).glog
    let ls := layerGlazes g
    let o := fld m.payload 0 4
    let l := (g.map GlazeRec.bytes).flatten ++ ls.flatten
    if stagingBytes < o + l.length then s.answer ch m 4 0 []
    else
      let s := s.stgWrite (s.reqSess ch) o l
      let s := if fld m.payload 4 1 = 1 then s.updCtx c fun x => { x with glog := [] } else s
      s.ok ch m (leBytes 4 g.length ++ leBytes 4 ls.length)

/-- A barrier unit's status (Table 8.5). -/
def BarUnit.status (u : BarUnit) : List Byte :=
  leBytes 16 (u.gen.toNat + 2 ^ 32 * (u.arr.length % 2 ^ 13) + 2 ^ 45 * (u.next.length % 2 ^ 13)
    + 2 ^ 64 * (u.child.length % 256) + (if u.sent then 2 ^ 72 else 0) + 2 ^ 96 * u.barlate.toNat)

/-- TELE.SYNC: barrier statuses, then every semaphore cell. -/
def execTeleSync (ch : Nat) (s : State) : Out :=
  done <| s.serveCtx ch 0x0804 4 fun s m c =>
    let x := s.ctx c
    s.okStaged ch m ((List.range 64).flatMap (fun b => (x.unit b).status)
      ++ (List.range (256 * x.grid.length)).flatMap fun n => leBytes 4 (s.sem c n).toNat)

/-- FAULT.RECORDS: fault records of the last stop (Table 2.4). -/
def execFaultRecords (ch : Nat) (s : State) : Out :=
  done <| s.serveCtx ch 0x0B01 4 fun s m c => s.okLog ch m ((s.ctx c).records.map FaultRec.bytes) id

/-- A transfer log record (Table 7.10). -/
def XlogRec.bytes (r : XlogRec) : List Byte :=
  [r.status, r.frag, r.strand, r.ctx] ++ leBytes 2 r.vcore.toNat ++ leBytes 2 r.pcore.toNat ++ leBytes 4 r.pc.toNat
    ++ zeros 4 ++ leBytes 8 r.mask.toNat ++ leBytes 8 r.addr.toNat

/-- FAULT.XLOG: the transfer log, oldest record first (R207). -/
def execFaultXlog (ch : Nat) (s : State) : Out :=
  done <| s.serveCtx ch 0x0B02 5 fun s m c =>
    s.okLog ch m ((s.ctx c).xlog.map XlogRec.bytes) fun s => s.updCtx c fun x => { x with xlog := [] }

end Sys2Proof.Machine
end

