-- ==== Sys2Proof/Machine/DevCommands.lean ====
section
/-! DEFINITION. The PAIR, device TELE and FAULT, and CFG commands of Hokunuon (13_mailboxes R376, R380, R381; 01
R18; 08 R226; 09 R258; 10 R259 to R261; 11 R293 to R296, R320; 12 R343 to R346; 15 R417, R430, R431). -/

namespace Sys2Proof.Machine

/-! ### Pair modes (R18, R293, R294, R296) -/

/-- Units of the tier that a buddy region of `n` units takes: the highest-numbered, if no partition or LOCAL area
holds one (R296). -/
def State.regionFor (s : State) (n : Nat) : Option (List Nat) :=
  let top := s.mem.ddrGib / 64
  let l := (List.range top).drop (top - n)
  let free := s.freeDdr ++ s.twin.region
  if n ≤ top && l.all fun u => free.contains u then some l else none

/-- Context `c` of this device and `n` of the twin form a check couple: each names the other, with the same order mode, seed
and VCORES (R294; the settings of Table 9.1 that a creation makes). -/
def State.couple (s : State) (c n : Nat) : Bool :=
  let x := s.ctx c
  let p := s.twin.peer n
  s.exists_ c && x.cfg.set.partner = some n && p.partner = c && p.arrival = x.cfg.set.arrival && p.seed = x.cfg.set.seed
    && p.vcores = x.vcores

/-- A context of either twin that takes part in the comparison has no partner on the other (R294). -/
def State.lonely (s : State) : Bool :=
  let mine := (List.range 16).any fun c => s.exists_ c && match (s.ctx c).cfg.set.partner with
    | some n => !s.couple c n
    | none => false
  let theirs := (List.range 16).any fun n => (s.twin.peer n).partner < 16 && !s.couple (s.twin.peer n).partner n
  mine || theirs

/-- A rule of R21 or R294 that forbids the change to `mode`: DETAIL of MODE_CONFLICT. The twin that is given a
buddy region in Spare is the spare (DEDUCED, log 31). -/
def State.modeRule (s : State) (mode units : Nat) : Option Nat :=
  let spare : Bool := mode = 3 && units != 0
  let arrival : Bool := (List.range 16).any fun c =>
    (s.exists_ c && (s.ctx c).cfg.set.partner.isSome && (s.ctx c).cfg.set.arrival)
      || ((s.twin.peer c).partner < 16 && (s.twin.peer c).arrival)
  if mode = 0 then none
  else if s.twin.mode != 0 || !s.twin.paired then some 1
  else if mode = 1 && (s.mem.ddrGib = 0 || !s.twin.peerDdr) then some 1
  else if mode = 2 && arrival then some 0
  else if mode = 2 && s.lonely then some 1
  else if spare && (s.mem.ddrGib = 0 || s.nctxs != 0) then some 1
  else if mode = 3 && !spare && (!s.twin.peerDdr || s.twin.peerCtxs != 0) then some 1
  else none

/-- The own buddy region holds a committed checkpoint that the host has not drained (R296). -/
def State.regionHeld (s : State) : Bool :=
  let m := unitsImage s.mem.ddr s.twin.region 36
  (List.range s.twin.region.length).any fun i => [false, true].any fun b =>
    match s.areaSlot 16 m (i * 2 ^ 36) b with
    | some z => !s.twin.peerDrained.contains (manCtx z.man, manStep z.man)
    | none => false

/-- A change of the pair mode: status and DETAIL (R294, R296, R417). -/
def State.enterMode (s : State) (mode units discard : Nat) : State × Nat × Nat :=
  let copying : Bool := ((List.range 16).any fun c => (s.ctx c).ckpt.copying.isSome) || (s.twin.paired && s.twin.peerCopy != 0)
  if copying then (s, 5, 3)
  else match s.modeRule mode units with
    | some d => (s, 9, d)
    | none =>
      if mode = 0 then
        if discard != 1 && s.regionHeld then (s, 6, 5)
        else
          let s := s.zeroDdr s.twin.region
          let s := { s with twin := { s.twin with mode := 0, isSpare := false, region := [], peerDrained := [] } }
          ({ s with aon := { s.aon with twinRstEnable := false } }.tellTwin, 0, 0)
      else
        let n := if mode = 2 then 0 else units
        match s.regionFor n with
        | none => (s, 6, 5)
        | some l =>
          let s := { s with twin := { s.twin with
            mode := mode, isSpare := decide (mode = 3 ∧ units ≠ 0), region := l, peerDrained := [] } }
          ({ s with aon := { s.aon with twinRstEnable := true } }.tellTwin, 0, 0)

/-- The exchange of a pairing has brought the twin's record: the grade and the numerics signature decide (R18). -/
def State.pairUp (s : State) (mode units : Nat) : State × Nat × Nat :=
  if s.twin.peerPart != s.part.part then (s, 8, 0)
  else if s.twin.peerSig.toNat != nsig then (s, 8, 1)
  else
    let t : State := { s with twin := { s.twin with paired := true, lost := false, lastRx := s.now } }
    let r := t.enterMode mode units 0
    if r.2.1 = 0 then r else (s, r.2)

/-- A device command answers BUSY while another † command of the device runs (log 31). -/
def State.serveDev (s : State) (ch code len : Nat) (f : State → Msg → State) : State :=
  s.serve ch code len fun s m => if s.hub.dagger.isSome then s.answer ch m 0x0E 0 [] else f s m

/-- PAIR.PAIR †: the exchange starts; a link that is down ends it with ABORTED (R18, R288; log 31). The mode and
region asked for stand in STATUS and DETAIL until it ends. -/
def execPairPair (ch : Nat) (s : State) : Out :=
  done <| s.serveDev ch 0x0601 2 fun s m =>
    let mode := fld m.payload 0 1
    let units := fld m.payload 1 1
    if 3 < mode then s.answer ch m 4 0 []
    else if !s.twin.up then s.devDagger ch m fun s => (s, 0x10, 0)
    else
      let s := s.answer ch m 1 0 []
      let d : Dagger :=
        { ch := ch, tag := m.tag, cmd := m.cmd, status := BitVec.ofNat 8 mode, detail := BitVec.ofNat 32 units
          ready := false }
      let s := { s with hub := { s.hub with dagger := some d }, twin := { s.twin with peerCkpt := [] } }
      s.sendRecords 0x1001 0

/-- PAIR.MODE †. -/
def execPairMode (ch : Nat) (s : State) : Out :=
  done <| s.serveDev ch 0x0602 3 fun s m =>
    let mode := fld m.payload 0 1
    if 3 < mode then s.answer ch m 4 0 []
    else s.devDagger ch m fun s => s.enterMode mode (fld m.payload 1 1) (fld m.payload 2 1)

/-- PAIR.TAKEOVER †: the host confirms the loss of a silent twin; with the twin heard, nothing is taken over
(R320; log 31). -/
def execPairTakeover (ch : Nat) (s : State) : Out :=
  done <| s.serveDev ch 0x0603 0 fun s m =>
    s.devDagger ch m fun s => if s.twin.paired && s.twin.silent then (s.takeover, 0, 0) else (s, 0x10, 0)

/-- PAIR.TIME: the time source (R226). -/
def execPairTime (ch : Nat) (s : State) : Out :=
  done <| s.serve ch 0x0604 1 fun s m =>
    let v := fld m.payload 0 1
    if 2 < v then s.answer ch m 4 0 []
    else
      let s : State := { s with aon := { s.aon with tsource := v } }
      s.ok ch m []

/-- A pairing whose exchange has brought the twin's record ends. -/
def State.pushPair (s : State) : State :=
  match s.hub.dagger with
  | some d =>
    if d.cmd = 0x0601 && !d.ready && !s.twin.peerCkpt.isEmpty then
      let r := s.pairUp d.status.toNat d.detail.toNat
      let e : Dagger := { d with ready := true, status := BitVec.ofNat 8 r.2.1, detail := BitVec.ofNat 32 r.2.2 }
      { r.1 with hub := { r.1.hub with dagger := some e } }
    else if d.cmd = 0x0601 && !d.ready && !s.twin.up then
      let e : Dagger := { d with ready := true, status := 0x10, detail := 0 }
      { s with hub := { s.hub with dagger := some e } }
    else s
  | none => s

/-- The notice COMPLETE of a † command (R375, R380). -/
def State.noteComplete (s : State) (d : Dagger) : State :=
  let b := s.bind d.ch
  match s.findChan (bindDst b) (bindSrc b) with
  | some r => s.noticeOn r 0x22 d.tag d.status d.detail []
  | none => s

/-- COMMAND_COMPLETE: the long operation of a context's † command, or with `c` = 16 of the device's, has ended; a
restore or a pairing that waits for the twin first goes on as far as it can. -/
def execCommandComplete (c : Nat) (s : State) : Out :=
  done <|
    if c < 16 then
      let s := s.pushRestore c
      match (s.ctx c).dagger with
      | some d => if d.ready then (s.updCtx c fun x => { x with dagger := none }).noteComplete d else s
      | none => s
    else
      let s := s.pushPair
      match s.hub.dagger with
      | some d => if d.ready then ({ s with hub := { s.hub with dagger := none } } : State).noteComplete d else s
      | none => s

/-! ### TELE.DEVICE (R380, R381, R434; log 28) -/

/-- Records of one row, an index for each value. -/
def idxRecs (chap tab row : Nat) (l : List U64) : List Byte :=
  (List.range l.length).flatMap fun k => telRec chap tab row k 0xFF 0xFF (l.getD k 0)

/-- The device's counter records. -/
def State.devRecords (s : State) : List Byte :=
  let mem := s.mem.corrected
  let row (k : Nat) : U64 := SMap.get 0 mem k
  let ports := (List.range 16).map fun k => (SMap.get {} s.fab.ports k : FabPort)
  let cores := (List.range 272).map s.core
  let chans := (List.range 64).map s.chan
  idxRecs 7 6 0 [row 0, row 1] ++ idxRecs 7 6 1 [row 2] ++ idxRecs 7 6 2 [row 3] ++ idxRecs 7 6 3 [row 4]
    ++ idxRecs 7 6 4 [row 5] ++ idxRecs 7 6 5 [row 6]
    ++ idxRecs 10 10 0 (ports.map (·.fabother)) ++ idxRecs 10 10 1 (ports.map (·.fabmisdir))
    ++ idxRecs 10 10 2 (ports.map (·.fabcrc))
    ++ idxRecs 11 0 1 [s.twin.twldrop]
    ++ idxRecs 12 3 0 (cores.map (·.ctrs.smplrun)) ++ idxRecs 12 3 1 (cores.map (·.ctrs.smplskip))
    ++ idxRecs 12 3 2 (cores.map (·.ctrs.smplfail)) ++ idxRecs 12 3 3 (cores.map (·.ctrs.smplhost))
    ++ idxRecs 13 18 0 [s.hub.port0.hostother, s.hub.port1.hostother]
    ++ idxRecs 13 18 1 [s.hub.port0.hostcrc, s.hub.port1.hostcrc]
    ++ idxRecs 13 18 2 ((List.range 8).map fun k => (s.session k).hostretx)
    ++ idxRecs 13 18 3 (chans.map (·.mbabort)) ++ idxRecs 13 18 4 (chans.map (·.mbfull))
    ++ (List.range 64).flatMap (fun k => telRec 15 12 0 (k / 8) (k % 8) 0xFF (SMap.get 0 s.pwr.lvltime k))
    ++ idxRecs 15 12 1 [s.pwr.limstep] ++ idxRecs 15 12 2 [s.pwr.grantgate] ++ idxRecs 15 12 3 [s.pwr.thrtime]
    ++ idxRecs 15 12 4 (cores.map (·.ctrs.wakes))

/-- TELE.DEVICE. -/
def execTeleDevice (ch : Nat) (s : State) : Out :=
  done <| s.serve ch 0x0802 4 fun s m =>
    let l := s.devRecords
    let o := fld m.payload 0 4
    if stagingBytes < o + l.length then s.answer ch m 4 0 []
    else (s.stgWrite (s.reqSess ch) o l).ok ch m (leBytes 4 (l.length / 16))

/-! ### FAULT.CPER (R343 to R346) -/

/-- Severity of an event (Table 12.7). -/
def cperSev (e : Nat) : Nat :=
  if e = 0x07 || e = 0x0C then 2 else if e = 0x0A || e = 0x0B then 3 else if e = 0x0D then 1 else 0

/-- The Milide section (Table 12.8). -/
def Cper.section (r : Cper) : List Byte :=
  leBytes 2 1 ++ [r.event, r.verdict, r.unit, r.ustate, r.die]
    ++ leBytes 1 (if r.pcore.toNat < 272 then coreQuad r.pcore.toNat else 0xFF)
    ++ leBytes 2 r.pcore.toNat ++ leBytes 2 r.vcore.toNat ++ [r.ctx, r.strand, r.stream, r.aquad]
    ++ leBytes 8 r.step.toNat ++ leBytes 8 r.time.toNat ++ leBytes 16 nsig ++ leBytes 8 r.loc.toNat
    ++ [r.vofs, r.fofs, r.presult, 0] ++ leBytes 4 r.count24.toNat ++ leBytes 8 r.fsig.toNat
    ++ leBytes 8 r.case.toNat ++ slice r.record 0 64 ++ slice r.opdigest 0 48 ++ slice r.detail 0 64

/-- A record of one header, one section descriptor and one Milide section (R343; the UEFI layout of Appendix N is
PRESUMED, log 12). -/
def State.cperBytes (s : State) (r : Cper) : List Byte :=
  let sev := cperSev r.event.toNat
  let timed : Bool := s.aon.tsource != 2
  leBytes 4 0x52455043 ++ leBytes 2 0x0101 ++ leBytes 4 0xFFFFFFFF ++ leBytes 2 1 ++ leBytes 4 sev
    ++ leBytes 4 (if timed then 3 else 1) ++ leBytes 4 456
    ++ (if timed then slice (Config.cperTime r.time) 0 8 else zeros 8)
    ++ slice s.vault.devidHash 0 16 ++ zeros 16
    ++ leBytes 16 0x587da3f0c429e1b64d8f5a307c1e9b42 ++ leBytes 16 0x05bc26f4a1e7389d4f61c2a40b5d7e93
    ++ leBytes 8 r.id.toNat ++ zeros 24
    ++ leBytes 4 200 ++ leBytes 4 256 ++ leBytes 2 0x0101 ++ zeros 6
    ++ leBytes 16 0xe4d0f9526bc13a8e4b0594d73f8a6c21 ++ zeros 16 ++ leBytes 4 sev
    ++ slice (Config.fruText s.part.part.toNat r.die.toNat) 0 20 ++ r.section

/-- FAULT.CPER: the records held, oldest first, and then the oldest of them are acknowledged; the response gives
their number and the overflow count (R346; log 29). -/
def execFaultCper (ch : Nat) (s : State) : Out :=
  done <| s.serve ch 0x0B03 8 fun s m =>
    let o := fld m.payload 0 4
    let l := s.hub.cper.flatMap s.cperBytes
    if stagingBytes < o + l.length then s.answer ch m 4 0 []
    else
      let n := s.hub.cper.length
      let s := s.stgWrite (s.reqSess ch) o l
      let lost := s.hub.cperLost
      let s : State := { s with hub := { s.hub with cper := s.hub.cper.drop (fld m.payload 4 4) } }
      s.ok ch m (leBytes 4 n ++ leBytes 4 lost)

/-! ### FAULT.CASE (R258) -/

/-- The case bundle (R258): the replay record of the last agreed state, the parties' outputs, what was captured. -/
def Arb.bundle (a : Arb) : List Byte := a.record ++ a.outs.flatten ++ a.captured

/-- Bytes that the emulator's output of a case takes: the longest party's. -/
def Arb.partLen (a : Arb) : Nat := (a.outs.map List.length).foldl max 0

/-- The cores of this device that each party of a case is. -/
def Arb.parties (a : Arb) : List (List Nat) :=
  if a.checker = 0 then [[a.producer], [a.checkerCore], a.thirdCores]
  else if a.produces then [a.cores, [], a.thirdCores] else [[], a.cores, a.thirdCores]

/-- The cores that the emulator's output confirms: those whose output differs from it. One that reproduces neither party
names a program defect, and confirms none (R258). -/
def Arb.confirmed (a : Arb) (out : List Byte) : List Nat :=
  let wrong (l : List Byte) : Bool := l ++ zeros (a.partLen - l.length) != out
  let bad := (List.range a.outs.length).filter fun k => wrong (a.outs.getD k [])
  if bad.contains 0 && bad.contains 1 then [] else bad.flatMap fun k => a.parties.getD k []

/-- FAULT.CASE: exports a case bundle, or takes the emulator's output for it. -/
def execFaultCase (ch : Nat) (s : State) : Out :=
  done <| s.serve ch 0x0B04 17 fun s m =>
    let case := fld m.payload 8 8
    let dir := fld m.payload 16 1
    if 1 < dir then s.answer ch m 4 16 []
    else match s.hub.arbs.find? fun a => a.case = case && a.verdict.any fun v => 2 ≤ v with
      | none => s.answer ch m 4 8 []
      | some a =>
        if dir = 0 then
          let o := fld m.payload 0 4
          let l := a.bundle
          if stagingBytes < o + l.length then s.answer ch m 4 0 []
          else (s.stgWrite (s.reqSess ch) o l).ok ch m (leBytes 4 l.length)
        else s.withStaged ch m a.partLen fun s l =>
          (s.mapArbs fun z => if z.case = case then { z with emulator := some (a.confirmed l) } else z).ok ch m []

/-! ### CFG (R259 to R261, R362, R430, R431) -/

/-- What a fabric configuration says. -/
structure FabCfg where
  ifaces : List Nat
  fabdev : U32
  addrs : List (BitVec 128)
  nexthops : List (BitVec 128)
  pay : Nat
  udp : U16
  dscp : Nat
  pfc : Option Nat
deriving DecidableEq, Repr, Inhabited

/-- The fabric configuration that staged bytes spell; their layout is not the spec's (log 12). -/
opaque fabCfgRead : List Byte → FabCfg

/-- An IPv4 address as ::ffff:a.b.c.d. -/
def isV4 (a : BitVec 128) : Bool := bits a.toNat 32 96 = 0xFFFF

/-- Port k's address is port 0's plus k in the last 16 bits, or for IPv4 in the last octet (R261). -/
def addrStep (a0 a : BitVec 128) (k : Nat) : Bool :=
  let w := if isV4 a0 then 8 else 16
  bits a0.toNat 0 w + k < 2 ^ w && a.toNat = a0.toNat + k

/-- A configuration that R261 and R264 allow. -/
def FabCfg.ok (g : FabCfg) : Bool :=
  let a0 := g.addrs.getD 0 0
  g.fabdev != 0 && g.fabdev != 0xFFFFFFFF && [2048, 4096, 8192].contains g.pay
    && (List.range 16).all fun k => addrStep a0 (g.addrs.getD k 0) k

/-- CFG.FABRIC: a configuration that breaks R261 or R264 is refused. -/
def execCfgFabric (ch : Nat) (s : State) : Out :=
  done <| s.serve ch 0x0C01 4 fun s m =>
    let o := fld m.payload 0 4
    s.withStaged ch m (min 4096 (stagingBytes - o)) fun s l =>
      let g := fabCfgRead l
      if !g.ok then s.answer ch m 4 0 []
      else
        let port (k : Nat) (p : FabPort) : FabPort :=
          { p with iface := g.ifaces.getD k 0, addr := g.addrs.getD k 0, nexthop := g.nexthops.getD k 0 }
        let s : State := { s with fab := { s.fab with
          fabdev := g.fabdev, fabpay := g.pay, udp := g.udp, dscp := g.dscp, pfc := g.pfc
          ports := (List.range 16).foldl (fun m k => SMap.upd {} m k (port k)) s.fab.ports } }
        s.ok ch m []

/-- A host-port entry of the binding record (R355). -/
def HostPort.load (p : HostPort) (l : List Byte) : HostPort :=
  { p with
    addr := BitVec.ofNat 128 (beNat (slice l 0 16)), gateway := BitVec.ofNat 128 (beNat (slice l 16 16))
    prefixLen := fld l 32 1, vlan := fld l 33 2 }

/-- Both host-port entries and the UDP port, in the layout of the binding record from its offset 0x288 on. -/
def Hub.loadNet (h : Hub) (l : List Byte) : Hub :=
  { h with
    port0 := h.port0.load (slice l 0 48), port1 := h.port1.load (slice l 48 48)
    udp := BitVec.ofNat 16 (fld l 96 2) }

/-- CFG.HOSTNET. -/
def execCfgHostnet (ch : Nat) (s : State) : Out :=
  done <| s.serve ch 0x0C02 4 fun s m =>
    s.withStaged ch m 98 fun s l =>
      let s : State := { s with hub := s.hub.loadNet l }
      s.ok ch m []

/-- CFG.POWER: mode and cap; a cap below 600 W is refused (R431). -/
def execCfgPower (ch : Nat) (s : State) : Out :=
  done <| s.serve ch 0x0C03 4 fun s m =>
    let mode := fld m.payload 0 1
    let cap := fld m.payload 2 2
    if 2 < mode then s.answer ch m 4 0 []
    else if cap != 0 && cap < 600 then s.answer ch m 4 2 []
    else
      let s : State := { s with pwr := { s.pwr with mode := mode, cap := cap } }
      s.ok ch m []

end Sys2Proof.Machine
end

