-- ==== Sys2Proof/Machine/Security.lean ====
section
/-! DEFINITION. Signed objects, keys, the vault, and what the boot ROM does with them (14_security R382 to R394,
R396, R398 to R400; 13 R352, R355). -/

namespace Sys2Proof.Machine

/-! ### Fuses (R382, R383) -/

/-- The value of a thermometer field: the number of its highest bit set, plus 1. -/
def thermo (n : Nat) : Nat := if n = 0 then 0 else Nat.log2 n + 1

/-- A thermometer field of value `v`. -/
def thermoBits (v : Nat) : Nat := 2 ^ v - 1

/-- Fused security version. -/
def Part.svnVal (p : Part) : Nat := thermo p.svn.toNat

/-- The next TAMPCNT bit, saturating at 32 (Table 14.1). -/
def Part.burnTamper (p : Part) : Part :=
  { p with tampcnt := BitVec.ofNat 32 (thermoBits (min 32 (thermo p.tampcnt.toNat + 1))) }

/-- Life-cycle state reached: its LCPOS bit is burned (Table 14.2). -/
def Part.burnLc (p : Part) (to_ : Nat) : Part :=
  { p with lcpos := p.lcpos ||| BitVec.ofNat 4 (if to_ = 0 then 0 else 2 ^ (to_ - 1)) }

/-- Bytes of a fused 48-byte value. -/
def hashBytes (h : BitVec 384) : List Byte := leBytes 48 h.toNat

/-! ### Signed objects (R387, R388) -/

def objKind (b : List Byte) : Nat := fld b 6 1
def objKey (b : List Byte) : Nat := fld b 7 1
def objSvn (b : List Byte) : Nat := fld b 8 4
def objLen (b : List Byte) : Nat := fld b 0x10 8
def objBind (b : List Byte) : Nat := fld b 0x18 8
def objPub (b : List Byte) : List Byte := slice b 0x20 97
def objBody (b : List Byte) (n : Nat) : Nat := fld b 0x90 n

/-- The SHA-384 that a key index of an object must match; none where the index may not sign (R388 check 2). -/
def Part.keyHash (p : Part) (k : Nat) : Option (List Byte) :=
  if k < 4 then (if p.revoke.getLsbD k then none else some (hashBytes (p.rk.getD k 0)))
  else if k = 0xFF && p.lc = 0 then some (hashBytes p.mfgKey)
  else none

/-- DEVIDHASH of this part as far as Hokunuon knows it: derived, or from the DeviceID certificate (R388). -/
def State.devid (s : State) : List Byte :=
  if !s.vault.devidHash.isEmpty then s.vault.devidHash
  else if s.flash.cert.isEmpty then [] else Config.certDevid s.flash.cert

/-- A transition that a life-cycle token may make (Table 14.3). -/
def lcStep (lc to_ : Nat) : Bool :=
  (lc = 1 && to_ = 2) || (lc = 2 && to_ = 3) || ((lc = 1 || lc = 2 || lc = 3) && to_ = 4)

/-- The object must name its device (Table 14.3, R405). -/
def needsBind (b : List Byte) : Bool := (objKind b = 1 && objBody b 1 != 2) || objKind b = 3

/-- Kinds and bodies that the life-cycle state allows (R384, R385, R405). -/
def kindAllowed (lc : Nat) (b : List Byte) : Bool :=
  if objKind b = 0 then lc < 4 && (lc != 0 || objKey b = 0xFF)
  else if objKind b = 1 then lcStep lc (objBody b 1)
  else if objKind b = 2 then lc = 1 || lc = 2 || lc = 3
  else lc = 1 || lc = 2

/-- The first check of R388 that fails: status and DETAIL. -/
def State.objCheck (s : State) (b : List Byte) : Option (Nat × Nat) :=
  let n := objLen b
  let o := b.take n
  if fld b 0 4 != 0x4D594657 then some (4, 0)
  else if fld b 4 2 != 1 then some (4, 4)
  else if 3 < objKind b then some (4, 6)
  else if b.length < n || 2 ^ 26 < n || n < 0x90 + 96 then some (4, 0x10)
  else if s.part.keyHash (objKey b) != some (sha384 (objPub b)) then some (4, 7)
  else if (objBind b != 0 && (s.devid.isEmpty || objBind b != fld s.devid 0 8)) || (objBind b = 0 && needsBind b) then
    some (4, 0x18)
  else if objKind b = 0 && (objSvn b < s.part.svnVal || 64 < objSvn b) then some (4, 8)
  else if !((ecParse (objPub b)).any fun k => ecVerifyObj k o) then some (0x0C, 0xFFFFFFFF)
  else if !kindAllowed s.part.lc b then some (0x11, s.part.lc)
  else none

/-- A firmware image that may run. -/
def State.imageOk (s : State) (b : List Byte) : Bool := objKind b = 0 && (s.objCheck b).isNone

/-! ### The vault (R398 to R400) -/

/-- A wipe: the key register is cleared and every word is zero. What Hokunuon knows of public keys stays. -/
def Vault.wiped (v : Vault) : Vault := { v with alias_ := 0, ckpt := 0, key := 0, csr := [], valid := false }

def State.wipeVault (s : State) : State := { s with vault := s.vault.wiped }

/-- VAULT_ERROR: an uncorrectable vault error wipes the vault; Hokunuon holds no private key until a reset of
SYSRST_N reach (R399, R400). -/
def execVaultError (s : State) : Out :=
  done <|
    let s := s.wipeVault
    let s : State := { s with aon := { s.aon with keysLost := true } }
    s.raise { event := 0x06, unit := 7 }

/-! ### Identity keys (R394, R396) -/

/-- The bytes of an ASCII label. -/
def ascii (x : String) : List Byte := x.toList.map fun c => BitVec.ofNat 8 c.toNat

def kdf (k : List Byte) (label : String) (ctx : List Byte) : List Byte := hmac384 k (ascii label ++ [0x00] ++ ctx)

def keygen (k : List Byte) (label : String) : Nat :=
  let a := hmac384 k (ascii label ++ [0x01])
  let b := hmac384 k (ascii label ++ [0x02])
  beNat (a ++ b) % (ecN - 1) + 1

/-- A certificate or request of a kind over a subject, signed with a private key (R396; log 12). -/
def signedCert (kind : Nat) (subject : List Byte) (d : Nat) : List Byte :=
  Config.certBytes kind subject (ecSigBytes d (Config.certBytes kind subject []))

/-- Keys are derived in PROVISIONED and DEPLOYED, while the UDS gate opens (R383, R384, R405). -/
def State.derives (s : State) : Bool := (s.part.lc = 1 || s.part.lc = 2) && s.aon.debugScope.isNone

/-- The boot ROM fills the vault for an image (R386 step 4, R394); the vault key is drawn fresh (R398). -/
def State.fillVault (s : State) (image : List Byte) (svn key : Nat) : State :=
  let fresh := Config.freeKey s.freeCtr
  let s := s.takeFree
  if !s.derives then
    { s with vault := { s.vault.wiped with key := fresh, certs := [], devidHash := [], ckptHash := [] } }
  else
    let uds := hashBytes s.part.uds
    let devid := keygen uds "MYL DEVICEID"
    let ckpt := keygen uds "MYL CHECKPOINT"
    let fwid := sha384 image
    let cdi := kdf uds "MYL CDI" (fwid ++ leBytes 4 svn ++ leBytes 1 s.part.lc ++ leBytes 1 key)
    let al := keygen cdi "MYL ALIAS"
    let pub (d : Nat) : List Byte := ecPoint (ecPub d)
    { s with vault :=
      { alias_ := BitVec.ofNat 384 al, ckpt := BitVec.ofNat 384 ckpt, key := fresh
        csr := if s.flash.cert.isEmpty then signedCert 0 (pub devid) devid else []
        certs := [signedCert 1 (pub al ++ fwid) devid, signedCert 2 (pub ckpt) devid]
        devidHash := sha384 (pub devid), ckptHash := sha384 (pub ckpt), valid := true } }

/-! ### The binding record (R355, R388) -/

/-- The binding of channel `n` in the default table (Table 13.3). -/
def bindDefault (n : Nat) : U16 :=
  let b (src dst : Nat) : U16 := BitVec.ofNat 16 (src + 32 * dst + 1024)
  if n < 8 then b n (8 + n / 2)
  else if n < 16 then b (8 + (n - 8) / 2) (n - 8)
  else if n < 32 then b 0 (16 + (n - 16))
  else if n < 48 then b (16 + (n - 32)) 0
  else if n < 52 then b (12 + (n - 48)) (8 + (n - 48))
  else if n < 56 then b (8 + (n - 52)) (12 + (n - 52))
  else 0

/-- Bindings as the registers hold them: reserved bits 0. -/
def bindMap (f : Nat → U16) : SMap U16 := (List.range 64).foldl (fun m n => SMap.set 0 m n (f n &&& 0x7FF)) []

/-- The kind of an identity (Table 13.1): 0 H, 1 S, 2 T, 3 C. -/
def idKind (d : Nat) : Nat := if d < 8 then 0 else if d < 12 then 1 else if d < 16 then 2 else 3

/-- A pair of identities that a record may bind: H–S, H–C or T–S, either way. -/
def pairOk (a b : Nat) : Bool :=
  let p := (min (idKind a) (idKind b), max (idKind a) (idKind b))
  p = (0, 1) || p = (0, 3) || p = (1, 2)

/-- The rules of R355 on a record's bindings. -/
def bindsOk (f : Nat → U16) : Bool :=
  let l := (List.range 64).filter fun n => bindValid (f n)
  let ends := l.map fun n => (bindSrc (f n), bindDst (f n))
  ends.all fun e =>
    pairOk e.1 e.2
      && (!(e.1 < 8) || ends.contains (e.2, e.1))
      && (!(16 ≤ e.2 && e.1 < 8) || ends.all fun g => !(g.2 = e.2 && g.1 < 8 && g.1 != e.1))

/-- Image of channel `n` in a record. -/
def recBind (l : List Byte) (n : Nat) : U16 := BitVec.ofNat 16 (fld l (8 + 2 * n) 2)

/-- Keys that may have signed the binding record: the running image's, or in recovery every root key that is not
revoked, or in RAW the manufacturing key (R388). -/
def State.recordKeys (s : State) : List (List Byte) :=
  if s.aon.recovery then
    let hs := if s.part.lc = 0 then [hashBytes s.part.mfgKey]
      else ((List.range 4).filter fun k => !s.part.revoke.getLsbD k).map fun k => hashBytes (s.part.rk.getD k 0)
    let known := [objPub s.flash.copyA, objPub s.flash.copyB] ++ hs.map signerKey
    known.filter fun k => hs.contains (sha384 k)
  else [objPub s.aon.image]

/-- The record in the boot flash verifies and breaks no rule of R355. -/
def State.recordOk (s : State) : Bool :=
  let l := s.flash.binding.take 0x360
  l.length = 0x360 && fld l 0 4 = 0x4D594252 && fld l 4 2 = 1
    && (s.recordKeys.any fun k => (ecParse k).any fun q => ecVerifyObj q l)
    && bindsOk (recBind l)

/-- A session's settings from its entry; what it held before is gone. -/
def sessionOf (old : Session) (l : List Byte) : Session :=
  { hkey := BitVec.ofNat 384 (fld l 0 48), admin := (fld l 48 1) % 2 = 1, timeout := fld l 52 2, hostretx := old.hostretx }

/-- A session of the default table: no key, only H0 is ADMIN. -/
def sessionDefault (old : Session) (k : Nat) : Session := { admin := decide (k = 0), hostretx := old.hostretx }

/-- Sessions, port entries and UDP port as the record gives them, or the default table's (R352, R355, R362). -/
def State.takeRecordNet (s : State) : State :=
  let l := s.flash.binding
  let ok := s.recordOk
  let sess (k : Nat) : Session :=
    if ok then sessionOf (s.session k) (slice l (0x88 + 64 * k) 64) else sessionDefault (s.session k) k
  let h := s.hub
  let h := { h with
    sessions := (List.range 8).foldl (fun m k => SMap.set {} m k (sess k)) []
    bindRecord := if ok then l.take 0x360 else [] }
  { s with hub := if ok then h.loadNet (slice l 0x288 98) else { h with udp := 48213 } }

/-- The binding table is written and locked before the host ports open (R355). -/
def State.takeBinding (s : State) : State :=
  let ok := s.recordOk
  let f : Nat → U16 := if ok then recBind s.flash.binding else bindDefault
  let s := s.takeRecordNet
  let s : State := { s with hub := { s.hub with bind := bindMap f, lock := true } }
  if ok then s else s.tell 0x355 []

/-- In recovery the loader serves every session itself; its channels are the model's own: those of the default
table between hosts and stewards (DESIGN CHOICE, log 32). -/
def State.takeRecovery (s : State) : State :=
  let s := s.takeRecordNet
  { s with hub := { s.hub with bind := bindMap fun n => if n < 16 then bindDefault n else 0 } }

/-! ### The boot flash (R389, R391, R393) -/

/-- A selector: GEN, the copy it names, and its CRC (Table 14.5). -/
def selBytes (gen : Nat) (b : Bool) : List Byte :=
  let l := leBytes 8 gen ++ [if b then 1 else 0] ++ zeros 3
  l ++ leBytes 4 (crc32c l).toNat

/-- The GEN of the valid selector in force, and whether it is selector 1. -/
def Flash.current (x : Flash) : Option (Nat × Bool) :=
  match Flash.selValid x.sel0, Flash.selValid x.sel1 with
  | true, false => some (fld x.sel0 0 8, false)
  | false, true => some (fld x.sel1 0 8, true)
  | true, true => if fld x.sel0 0 8 < fld x.sel1 0 8 then some (fld x.sel1 0 8, true) else some (fld x.sel0 0 8, false)
  | false, false => none

/-- An image goes to the inactive copy, and then a selector with GEN + 1 names it (R391); without a valid selector it is
selector 0 with GEN 1 (DESIGN CHOICE, log 158). -/
def Flash.commit (x : Flash) (img : List Byte) : Flash :=
  let b := !x.activeB
  let y := if b then { x with copyB := img } else { x with copyA := img }
  match x.current with
  | some (g, one) => if one then { y with sel0 := selBytes (g + 1) b } else { y with sel1 := selBytes (g + 1) b }
  | none => { y with sel0 := selBytes 1 b }

/-- The fused SVN follows the lower of both copies' once both pass (R393). -/
def State.raiseSvn (s : State) : State :=
  let a := s.flash.copyA
  let b := s.flash.copyB
  let lo := min (objSvn a) (objSvn b)
  if s.imageOk a && s.imageOk b && s.part.svnVal < lo then
    { s with part := { s.part with svn := BitVec.ofNat 64 (thermoBits lo) } }
  else s

/-! ### What Hokunuon applies at boot (R339) -/

/-- A retired core's place at boot: the spare that its entry names takes it, or, where that spare does not work any
more, another of the die; without one, or with no spare named, its slice is withheld (R334, R339; DEDUCED, log 128). -/
def State.fillPlace (s : State) (e : Nat × Nat × Nat) : State :=
  let p := 68 * e.1 + e.2.2
  match s.part.sliceOf p with
  | none => s
  | some k =>
    let q := if e.2.1 = 4 then none
      else if s.spareFree e.1 e.2.1 then some e.2.1
      else s.spareQuad p
    match q with
    | some q => { s with part := s.part.setSpare e.1 q e.2.2 }
    | none => { s with hub := { s.hub with withheld := s.hub.withheld ++ [k] } }

/-- Fused retirements are applied. -/
def State.applyRetired (s : State) : State :=
  let s : State := { s with part := { s.part with dieB := [0, 0, 0, 0] } }
  let s := s.each s.part.retired fun s e => s.updCore (68 * e.1 + e.2.2) fun k => { k with svc := .retired }
  s.each s.part.retired State.fillPlace

/-- Standing offsets from the unit record; without one they are 0, and an event says so. -/
def State.applyUnit (s : State) : State :=
  if s.unitOk then
    let l := s.flash.unit.take (s.flash.unit.length - 96)
    s.each (chunksOf 4 (l.length + 1) l) fun s e =>
      s.updCore (fld e 0 2) fun k => { k with voff := fld e 2 1, foff := fld e 3 1 }
  else s.tell 0x339 []

end Sys2Proof.Machine
end

