-- ==== Sys2Proof/Machine/Reset.lean ====
section
/-! DEFINITION. Reset sources and their reach, the release sequence with the boot ROM in it, isolation of one
block, clock failures, rails, tamper and thermal trips (15 R408 to R426; 14 R383, R386, R390, R398 to R402; 16 R439,
R449, R450). -/

namespace Sys2Proof.Machine

/-! ### What a reset of SYSRST_N reach leaves (Table 15.4) -/

/-- 400 ns, 64 always-on cycles, and a millisecond's parts, in arithmetic-clock cycles. -/
def holdCycles : Nat := 376
def porCycles : Nat := 2407

/-- Counters set to 0 at POR survive narrower resets (R329, R332, R381, R434). -/
def Chan.fresh (c : Chan) : Chan := { mbabort := c.mbabort, mbfull := c.mbfull }
def Session.fresh (x : Session) : Session := { hostretx := x.hostretx }
def HostPort.fresh (p : HostPort) : HostPort := { hostother := p.hostother, hostcrc := p.hostcrc }
def FabPort.fresh (p : FabPort) : FabPort := { fabother := p.fabother, fabmisdir := p.fabmisdir, fabcrc := p.fabcrc }
def Core.fresh (k : Core) : Core := { tileN := k.tileN, ctrs := k.ctrs }

/-- An engine that is withheld stays so until POR (R341). -/
def EngState.fresh : EngState → EngState
  | .withheld => .withheld
  | _ => .serving

/-- The always-on state listed in Table 15.4 stays; a committed debug token is consumed (R405). -/
def Aon.wide (a : Aon) (cause now : Nat) (hold : Bool) : Aon :=
  { bootsrc := a.bootsrc, clkmode := a.clkmode, twinside := a.twinside, tbase := a.tbase, tfrac := a.tfrac
    faultLog := a.faultLog, recCounter := a.recCounter, caseCounter := a.caseCounter
    resetLog := a.resetLog ++ [cause], railLog := a.railLog, tamperLog := a.tamperLog
    tamperSincePor := a.tamperSincePor, tripped := a.tripped, tamperAt := a.tamperAt, tamperHeld := a.tamperHeld
    debugScope := a.debugToken
    sources := if hold && !a.sources.contains cause then a.sources ++ [cause] else a.sources
    stage := 1, stageAt := now, releaseAt := now + holdCycles
    pwrok := a.pwrok, pwrokFellAt := a.pwrokFellAt, railFaultAt := a.railFaultAt, railsBad := a.railsBad
    throttleLow := a.throttleLow, throttleAt := a.throttleAt, thermtrip := a.thermtrip }

/-- A reset of SYSRST_N reach from a source of Table 15.3 (R413 to R415); `hold` keeps the source asserted. While POR
is asserted there is nothing left to reset. FAILING goes first where no earlier step of the source has sent it
(R320). -/
def State.wideReset (s : State) (cause : Nat) (hold : Bool) : State :=
  if s.aon.stage = 0 then
    let a := s.aon
    { s with aon := { a with sources := if hold && !a.sources.contains cause then a.sources ++ [cause] else a.sources } }
  else
    let s := if cause = 2 || cause = 3 || cause = 4 then s else s.failing 3
    { s with
      cores := SMap.mapv {} s.cores Core.fresh
      ctxs := []
      mem :=
        { hbm := s.mem.hbm, hbmPoison := s.mem.hbmPoison, ddr := s.mem.ddr, ddrPoison := s.mem.ddrPoison
          latent := s.mem.latent.filter fun e => e.store = .hbm || e.store = .ddr
          corrected := s.mem.corrected }
      fab :=
        { ports := SMap.mapv {} s.fab.ports FabPort.fresh, coll0 := s.fab.coll0.fresh, coll1 := s.fab.coll1.fresh
          disp0 := s.fab.disp0.fresh, disp1 := s.fab.disp1.fresh, sseed := s.fab.sseed }
      twin := { twldrop := s.twin.twldrop }
      hub :=
        { chans := SMap.mapv {} s.hub.chans Chan.fresh, sessions := SMap.mapv {} s.hub.sessions Session.fresh
          port0 := s.hub.port0.fresh, port1 := s.hub.port1.fresh }
      aon := s.aon.wide cause s.now hold
      vault := {}
      part := { s.part with dieB := [0, 0, 0, 0] }
      pwr :=
        { lvltime := s.pwr.lvltime, limstep := s.pwr.limstep, grantgate := s.pwr.grantgate, thrtime := s.pwr.thrtime
          idleSince := s.now } }

/-- A source has released; the reset is held a further 400 ns (R413). -/
def State.release (s : State) (cause : Nat) : State :=
  { s with aon := { s.aon with sources := s.aon.sources.filter (· != cause), releaseAt := s.now + holdCycles } }

/-! ### POR and SYSRST_N -/

/-- POR: everything but the fuses and the boot flash; what the memories hold goes at the zeroing of R418. -/
def execPor (s : State) : Out :=
  done
    { pending := s.pending, freeCtr := s.freeCtr, now := s.now, sent := s.sent, flash := s.flash, lib := s.lib
      mem :=
        { hbm := s.mem.hbm, hbmPoison := s.mem.hbmPoison, ddr := s.mem.ddr, ddrPoison := s.mem.ddrPoison
          latent := s.mem.latent.filter fun e => e.store = .hbm || e.store = .ddr }
      part := { s.part with dieB := [0, 0, 0, 0] } }

/-- VDD_AON_VALID: POR is released, the straps are sampled, the time base starts, and Hokunuon draws its sampler seed
for this POR (R408, R413, R329; log 6). -/
def execVddAonValid (bootsrc clkmode : Nat) (twinside : Bool) (s : State) : Out :=
  done <|
    if s.aon.stage = 0 then
      let seed := (Config.freeWord s.freeCtr).setWidth 32
      let s := s.takeFree
      { s with
        fab := { s.fab with sseed := seed }
        aon := { s.aon with
          bootsrc := BitVec.ofNat 2 bootsrc, clkmode := BitVec.ofNat 2 clkmode, twinside := twinside
          sources := s.aon.sources.filter (· != 0), stage := 1, stageAt := s.now, releaseAt := s.now + porCycles } }
    else s

/-- SYSRST: a filtered low on the land, which stays asserted until SYSRST_N_RELEASE, or an internal cause of Table
15.3. -/
def execSysrst (cause : Nat) (s : State) : Out :=
  done <| if 1 ≤ cause && cause ≤ 9 then s.wideReset cause (cause = 1) else s

/-- SYSRST_N_RELEASE: the land is high again. -/
def execSysrstNRelease (s : State) : Out := done <| if s.aon.sources.contains 1 then s.release 1 else s

/-- TWIN_RESET_PATTERN: TWINRST while the enable latch is 1, otherwise a link event (R417). -/
def execTwinResetPattern (s : State) : Out :=
  done <|
    if s.aon.stage = 0 then s
    else if s.aon.twinRstEnable then s.wideReset 9 false
    else s.raise { event := 0x0C, unit := 6, loc := 0x40 }

/-! ### PWROK, rails (R416, R439 to R442) -/

/-- PWROK_FALL: FAILING leaves at once (R416). -/
def execPwrokFall (s : State) : Out :=
  done <|
    if s.aon.pwrok then
      let s := if 2 ≤ s.aon.stage then s.failing 3 else s
      { s with aon := { s.aon with pwrok := false, pwrokFellAt := some s.now } }
    else s

/-- The reset that a fall of PWROK brings. -/
def State.pwrokReset (s : State) : State :=
  let s := s.wideReset 2 (!s.aon.pwrok)
  if s.aon.pwrok then { s with aon := { s.aon with pwrokFellAt := none } } else s

/-- PWROK_RESET_TIMER: 8 µs after the fall (R416). -/
def execPwrokResetTimer (s : State) : Out :=
  done <| match s.aon.pwrokFellAt with
  | some t => if 2 ≤ s.aon.stage && 8 * usCycles ≤ s.now - t then s.pwrokReset else s
  | none => s

/-- PWROK_RISE: once the fall has had its reset, PWROK holds nothing any more (R416). -/
def execPwrokRise (s : State) : Out :=
  done <|
    if s.aon.pwrok then s
    else
      let s := { s with aon := { s.aon with
        pwrok := true, pwrokFellAt := if 2 ≤ s.aon.stage then s.aon.pwrokFellAt else none } }
      s.release 2

/-- RAIL_FAULT: a rail has been outside its transient band for 1 µs. While PWROK is high FAILING is sent and the fault
recorded (R439); with PWROK low on a running device the reset comes at once (R416). -/
def execRailFault (rail deviation : Nat) (s : State) : Out :=
  done <|
    if s.aon.stage = 0 then s
    else if s.aon.pwrok then
      let s := s.failing 1
      { s with aon := { s.aon with
        railLog := s.aon.railLog ++ [(rail, deviation)], railsBad := true
        railFaultAt := if s.aon.railFaultAt.isSome then s.aon.railFaultAt else some s.now } }
    else if 2 ≤ s.aon.stage then s.pwrokReset
    else s

/-- RAIL_FAULT_RESET_TIMER: 5 µs after the fault is found. A tamper trip's own sequence takes its place (R439). -/
def execRailFaultResetTimer (s : State) : Out :=
  done <| match s.aon.railFaultAt with
  | some t =>
    if 5 * usCycles ≤ s.now - t then
      let s := { s with aon := { s.aon with railFaultAt := none } }
      if s.aon.tamperAt.isSome then s else s.wideReset 4 true
    else s
  | none => s

/-- RAILS_GOOD: every rail has been within its static tolerance for 1 ms (R439). -/
def execRailsGood (s : State) : Out :=
  done <|
    if s.aon.railsBad then ({ s with aon := { s.aon with railsBad := false } } : State).release 4 else s

/-! ### Tamper (R402) and thermal trips (R449, R450) -/

/-- A trip: the vault is wiped, FAILING is sent, the source recorded. Trips of one sequence are one event. -/
def State.tamper (s : State) (sensor : Nat) : State :=
  let first : Bool := s.aon.tamperAt.isNone && !s.aon.tamperHeld
  let s := s.wipeVault
  let s := if first then s.failing 4 else s
  let a := s.aon
  let a := { a with
    tamperLog := a.tamperLog ++ [sensor], tamperSincePor := true
    tripped := if a.tripped.contains sensor then a.tripped else a.tripped ++ [sensor]
    tamperAt := if first then some s.now else a.tamperAt }
  -- during the reset of this event the trip holds the reset
  if a.tamperHeld then
    { s with aon := { a with
      sources := if a.sources.contains 3 then a.sources else a.sources ++ [3], stage := min a.stage 1 } }
  else { s with aon := a }

/-- TAMPER_TRIP. The sensors run in every state that has VDD_AON. -/
def execTamperTrip (sensor : Nat) (s : State) : Out := done <| if s.aon.stage = 0 then s else s.tamper sensor

/-- TAMPER_RESET: 10 µs after the trip; during the reset the next TAMPCNT bit is burned, and the reset is held while
any sensor is tripped. -/
def execTamperReset (s : State) : Out :=
  done <| match s.aon.tamperAt with
  | some t =>
    if 10 * usCycles ≤ s.now - t then
      let s := s.wideReset 3 (!s.aon.tripped.isEmpty)
      { s with part := s.part.burnTamper, aon := { s.aon with tamperAt := none, tamperHeld := true } }
    else s
  | none => s

/-- TAMPER_SENSOR_CLEAR: the last tripped sensor is within its limits again. -/
def execTamperSensorClear (s : State) : Out :=
  done <|
    let s : State := { s with aon := { s.aon with tripped := [] } }
    if s.aon.sources.contains 3 then s.release 3 else s

/-- THERMAL_IMMINENT: Tj has reached 115 °C (Table 16.9). -/
def execThermalImminent (s : State) : Out := done (s.failing 0)

/-- THERMAL_TRIP: a sensor at 120 °C; above 140 °C the tamper sequence runs as well (R450). -/
def execThermalTrip (temp : Int) (s : State) : Out :=
  done <|
    if temp < 120 || s.aon.stage = 0 then s
    else
      let s := if 140 < temp then s.tamper 2 else s
      let s : State := { s with aon := { s.aon with thermtrip := true } }
      (s.emit (.pin 0 0)).wideReset 5 true

/-- THERMTRIP_RELEASE: PWROK has been low for 10 ms and every sensor reads below 100 °C (R450). -/
def execThermtripRelease (s : State) : Out :=
  done <| match s.aon.pwrokFellAt with
  | some t =>
    if s.aon.thermtrip && !s.aon.pwrok && 10 * msCycles ≤ s.now - t then
      (({ s with aon := { s.aon with thermtrip := false } } : State).emit (.pin 0 1)).release 5
    else s
  | none => s

/-! ### The boot ROM (R386, R390, R394, R397) -/

/-- An image runs. -/
def State.runImage (s : State) (b : List Byte) : State :=
  let img := b.take (objLen b)
  let s := s.fillVault img (objSvn b) (objKey b)
  { s with aon := { s.aon with image := img, imageKey := BitVec.ofNat 8 (objKey b), imageWait := none } }

/-- No image passes: recovery, with keys derived for the recovery loader (R352, R397). -/
def State.enterRecovery (s : State) : State :=
  let s := s.fillVault Config.recoveryLoader Config.recoverySvn 0xFF
  let s : State :=
    { s with
      aon := { s.aon with recovery := true, imageWait := none }
      hub := { s.hub with stew0 := .working, serves := [0, 0, 0, 0] } }
  s.takeRecovery

/-- DEVIDHASH is known to the boot ROM before it checks an image that names its device (R388, R394). -/
def State.knowDevid (s : State) : State :=
  if s.derives then
    let d := keygen (hashBytes s.part.uds) "MYL DEVICEID"
    { s with vault := { s.vault with devidHash := sha384 (ecPoint (ecPub d)) } }
  else s

/-- The boot ROM at the start of stage 3. In END it accepts nothing and the host ports stay down (Table 14.2). -/
def State.bootRom (s : State) : State :=
  let s : State := { s with aon := { s.aon with tamperHeld := false } }
  let s := s.knowDevid
  if s.part.lc = 4 then s
  else if s.aon.bootsrc = 0 then
    let a := s.flash.active
    let b := if s.flash.activeB then s.flash.copyA else s.flash.copyB
    if s.imageOk a then s.runImage a else if s.imageOk b then s.runImage b else s.enterRecovery
  else if s.aon.bootsrc = 3 then { s with aon := { s.aon with imageWait := some s.now } }
  else s.enterRecovery

/-- The twin's image has come: it runs where it passes R388. -/
def State.bootTwin (s : State) : State :=
  let b := Memory.readN s.twin.imageBuf 0 s.twin.imageTop
  if s.imageOk b then s.runImage b else s.enterRecovery

/-- BOOT_IMAGE_TIMEOUT: the image has not come within 1 s. -/
def execBootImageTimeout (s : State) : Out :=
  done <| match s.aon.imageWait with
  | some t =>
    if secCycles ≤ s.now - t then (if s.twin.imageTop != 0 then s.bootTwin else s.enterRecovery) else s
  | none => s

/-- The manufacturing image in RAW: it burns UDS, the root keys and LCPOS bit 0 and asserts a reset; a part whose UDS is
burned goes to END (R386). -/
def State.provision (s : State) : State :=
  if s.part.uds = 0 then
    let u := Config.freeKey s.freeCtr
    let s := s.takeFree
    let s : State := { s with part := { s.part.burnLc 1 with uds := u, rk := (List.range 4).map fun k => s.part.rk.getD k 0 ||| Config.rootKey k } }
    s.wideReset 10 false
  else ({ s with part := s.part.burnLc 4 } : State).wipeVault

/-! ### The release sequence (R420) -/

/-- A block of these PLLs is kept in reset. -/
def State.pllOut (s : State) (f : PllId → Bool) : Bool := (s.pwr.failed.any fun e => f e.1) || s.pwr.dead.any f

/-- PLLs whose failure is a reset of SYSRST_N reach (R412). -/
def hubPll : PllId → Bool
  | .hub _ => true
  | .steward _ => true
  | _ => false

/-- No source of SYSRST_N reach is asserted (R415). -/
def State.clear (s : State) : Bool :=
  s.aon.sources.isEmpty && s.aon.pwrok && !s.aon.railsBad && decide (s.aon.releaseAt ≤ s.now)

def State.setStage (s : State) (n : Nat) : State := { s with aon := { s.aon with stage := n, stageAt := s.now } }

/-- Stage 4: Hokunuon runs on every steward, raises the fused SVN, and applies retirements and offsets (R339, R393). -/
def State.startHok (s : State) : State :=
  let s : State := { s with hub := { s.hub with
    stew0 := .working, stew1 := .working, stew2 := .working, stew3 := .working, serves := [0, 1, 2, 3] } }
  s.raiseSvn.applyRetired.applyUnit

/-- A population that Table 7.5 has: one module, or two of a kind that are no MRDIMMs, of a capacity of R193. -/
def DimmChan.ok (c : DimmChan) : Bool :=
  match c.slot0, c.slot1 with
  | some d, none => [32, 64, 96, 128, 256].contains d.gib
  | some d, some e => [32, 64, 96, 128, 256].contains d.gib && d = e && !d.mr
  | none, _ => false

def DimmChan.gib (c : DimmChan) : Nat := ((c.slot0.toList ++ c.slot1.toList).map Dimm.gib).sum

/-- GiB of a half whose eight channels are populated alike and all train; a mixed one counts as failed (R193). -/
def halfGib (l : List DimmChan) : Nat :=
  match l with
  | [] => 0
  | c :: r => if c.ok && c.trains && r.all (· = c) then (l.map DimmChan.gib).sum else 0

/-- DDRGIB and the half that runs, 0 for all sixteen channels, for the population: halves that each train and differ are a
mixed population, of which neither runs (R193; log 33). -/
def ddrTier (l : List DimmChan) : Nat × Nat :=
  let lo := halfGib (l.take 8)
  let hi := halfGib (l.drop 8)
  if lo != 0 && hi != 0 then (if l.all (· = l.headD {}) then (lo + hi, 0) else (0, 0))
  else if lo != 0 then (lo, 1) else if hi != 0 then (hi, 2) else (0, 0)

/-- Stage 5: memories train, and the zeroing of R418 begins. The outcome is told as a memory event and as the notice
MEMORY_TIER (R193, R380), in a plain form of the model's own (log 12). -/
def State.train (s : State) : State :=
  let r := ddrTier s.part.dimms
  let s : State :=
    { s with mem := { s.mem with ddrGib := r.1, ddrHalf := r.2 }, aon := { s.aon with zeroing := true } }
  (s.tell 0x193 [r.1, r.2]).noticeDev 0x25 0 0 0 (leBytes 2 r.1 ++ leBytes 1 r.2)

/-- VDD_CORE setpoint in mV of a level (Table 15.10). -/
def levelMv (mode level : Nat) : Nat :=
  let perf := [770, 760, 750, 740, 730, 710, 690, 670]
  let bal := [750, 740, 730, 720, 710, 690, 670, 650]
  let eff := [725, 715, 705, 695, 685, 670, 660, 650]
  (if mode = 0 then perf else if mode = 1 then bal else eff).getD level 650

/-- Setpoints of every rail for a level, with the fused trims, within Table 16.2 (R430, R437). -/
def State.setRails (s : State) (level : Nat) : State :=
  s.each (List.range 8) fun s k =>
    s.emit (.avs k (max 650 (min 900 (levelMv s.pwr.mode level + s.part.trim.getD k 0))))

/-- End of stage 3: Hokunuon takes over where an image runs; recovery and END go no further (R420). -/
def State.leaveRom (s : State) : State :=
  if s.aon.recovery || s.part.lc = 4 then s
  else if !s.aon.image.isEmpty then (if s.part.lc = 0 then s.provision else (s.setStage 4).startHok)
  else if s.aon.imageWait.isSome && s.twin.imageTop != 0 then s.bootTwin
  else s

/-- RELEASE_STAGE: the next stage begins once the one before has ended and no source that covers it is asserted (Table
15.5). -/
def execReleaseStage (s : State) : Out :=
  done <|
    if !s.clear then s
    else if s.aon.stage = 1 then s.setStage 2
    else if s.aon.stage = 2 then (if s.pllOut hubPll then s else (s.setStage 3).bootRom)
    else if s.aon.stage = 3 then s.leaveRom
    else if s.aon.stage = 4 then (s.setStage 5).train
    else if s.aon.stage = 5 then (s.setStage 6).takeBinding
    else if s.aon.stage = 6 then s.setStage 7
    else if s.aon.stage = 7 then (s.setStage 8).setRails 7
    else s

/-- MEMORY_ZEROING: full writes of zero over all HBM4 and DDR5 have ended; poison and held errors are gone (R418). -/
def execMemoryZeroing (s : State) : Out :=
  done <|
    if s.aon.zeroing then
      { s with
        mem := { s.mem with
          hbm := [], hbmPoison := [], ddr := [], ddrPoison := []
          latent := s.mem.latent.filter fun e => e.store != .hbm && e.store != .ddr }
        aon := { s.aon with zeroing := false } }
    else s

/-! ### One block (R421 to R425) -/

/-- CORERST: of a core in a context it is that context's reset (R423). -/
def execCorerst (pc : Nat) (s : State) : Out :=
  done <|
    if 272 ≤ pc then s
    else match s.ownerOf pc with
      | some (c, _) => s.ctxReset c
      | none => s.coreReset pc

/-- A fragment of an XCOPY or XACC reads or writes behind interface `i`. -/
def State.fragBehind (s : State) (x : Xfer) (f : Frag) (i : PortId) : Bool :=
  let o := Word.opc x.latch.word
  (o = 0x60 || o = 0x61) && f.status.isNone && (x.part f).any fun e =>
    s.iface e.dst.place e.dst.off = some i || s.iface e.src.place e.src.off = some i

/-- What the interface had accepted and not completed is answered with ISOLATED: every fragment in flight that reaches
it (R421 rule 1; log 34). -/
def State.cutBehind (s : State) (i : PortId) : State :=
  s.each ((List.range 16).flatMap s.strandsOf) fun s t =>
    s.each (s.strand t).x.xfers fun s x =>
      s.each (List.range x.frags.length) fun s k =>
        match x.frags[k]? with
        | some f => if s.fragBehind x f i then s.fragFail t x.id k 3 else s
        | none => s

/-- A port or interface enters its own reset (Table 15.6). -/
def State.portReset (s : State) (p : PortId) : State :=
  if s.mem.inReset.contains p || s.mem.isolated.contains p then s
  else
    let s : State := { s with mem := { s.mem with inReset := s.mem.inReset ++ [p] } }
    match p with
    | .fabric k => s.updFport k fun q => { q with up := false }
    | .host _ => s
    | .twin => s.twinDown
    | .hbm _ => s.cutBehind p
    | .ddr _ => s.cutBehind p

/-- PORTRST. -/
def execPortrst (p : PortId) (s : State) : Out := done (s.portReset p)

/-- The block is out of its reset. -/
def State.portFree (s : State) (p : PortId) : State :=
  { s with mem := { s.mem with inReset := s.mem.inReset.filter (· != p) } }

/-- A memory interface failed to retrain: a memory event, and ISOLATED from now on (R425). -/
def State.isolate (s : State) (p : PortId) (hbm : Bool) (n : Nat) : State :=
  let s : State := { s.portFree p with mem := { (s.portFree p).mem with isolated := s.mem.isolated ++ [p] } }
  s.raise
    { event := 6, unit := if hbm then 4 else 5, loc := BitVec.ofNat 64 (2 ^ 64 - 256 + n), die := if hbm then n / 3 else 4 + n / 8 }

/-- Collectives and dispatches that waited for an interface go on (R421, R425). -/
def State.pokeEngines (s : State) : State := s.pokeColls.pokeDisps

/-- SUBSTITUTION_COPY_DONE: 12,288 cycles after the copy began the spare takes the core's place; what was held
for it is applied, and the BARs or streams go on (R232, R334). -/
def execSubstitutionCopyDone (pc : Nat) (s : State) : Out :=
  done <| match s.ownerOf pc with
  | none => s
  | some (c, _) =>
    match (s.ctx c).subst.find? fun e => e.1 = pc with
    | none => s
    | some e =>
      if s.now - e.2 < 12288 then s
      else
        let s := s.updCtx c fun x => { x with subst := x.subst.filter fun z => z.1 != pc }
        match s.spareQuad pc with
        | none =>
          -- no spare is left: the increments go to the core itself, and the streams on
          let s := ((s.applyHeld c pc pc).pokeEngines.pokeHosts).unhold c
          if (s.ctx c).holdFor = some pc then s.resumeHeld c else s
        | some q =>
          let sp := s.part.spareCore (coreDie pc) q
          let s := (s.replaceCore c pc sp true).applyHeld c pc sp
          let s := s.pokeEngines.pokeHosts.unhold c
          if (s.ctx c).holdFor = some pc then s.resumeHeld c else s

/-- PORT_RETRAIN_DONE: the block is released once its link is up or it has retrained; a memory interface first writes
the poison that waits for it (R421, R424, R425). A link that does not train stays down. -/
def execPortRetrainDone (p : PortId) (ok : Bool) (s : State) : Out :=
  done <|
    if !s.mem.inReset.contains p || s.pllOut (fun q => q = .serdes p) then s
    else match p with
      | .fabric k => if ok then (s.portFree p).updFport k fun q => { q with up := decide (7 ≤ s.aon.stage) } else s
      | .host _ => if ok then s.portFree p else s
      | .twin => if ok then (s.portFree p).trainTwin (max 2 s.twin.lanes) else s
      | .hbm n => (if ok then (s.flushPend (· = p)).portFree p else s.isolate p true n).pokeEngines.pokeHosts
      | .ddr n => (if ok then (s.flushPend (· = p)).portFree p else s.isolate p false n).pokeEngines.pokeHosts

/-! ### Clocks (R411, R412) -/

/-- Some core is Ready, which with a hub engine active is D-Run (Table 15.9). -/
def State.anyReady (s : State) : Bool := (List.range 272).any fun p => (s.core p).power = .ready

/-- With no core Ready the device is in D-Idle. -/
def State.restIdle (s : State) : State :=
  if s.anyReady then s else { s with pwr := { s.pwr with dev := .idle, idleSince := s.now } }

/-- Cores of a VDD_CORE rail. -/
def railCores (k : Nat) : List Nat := (List.range 272).filter fun p => coreRail p = k

/-- A compute PLL failed: contexts with a core of that half die stop by a control error, what its cores had in flight is
cut off, and the cores are reset (R412, R421). -/
def State.computeFail (s : State) (k : Nat) : State :=
  let ps := railCores k
  let cs := (List.range 16).filter fun c => s.exists_ c && (s.ctx c).grid.any ps.contains
  let s := s.each cs fun s c => s.controlError c { event := 9, die := k / 2, loc := BitVec.ofNat 64 k }
  let s := s.each cs fun s c =>
    s.each ((s.strandsOf c).filter fun t => (s.pcore t.ctx t.vc).any ps.contains) State.cutStrand
  let s := s.each ps fun s p => (s.coreReset p).updCore p fun k => { k with power := .off }
  if s.pwr.dev = .run then s.restIdle else s

/-- CLOCK_FAILURE: the block is reset on a backup clock, an event raised, and the PLL restarted. -/
def execClockFailure (p : PllId) (s : State) : Out :=
  done <|
    if s.aon.stage = 0 || s.pllOut (fun q => q = p) then s
    else
      let s := match p with
        | .compute k => s.computeFail k
        | .serdes q => s.portReset q
        | .timebase => s
        | _ => s.wideReset 8 false
      let s : State := { s with pwr := { s.pwr with failed := s.pwr.failed ++ [(p, s.now)] } }
      s.tell 0x411 []

/-- PLL_LOCK: the block is released 64 cycles later. -/
def execPllLock (p : PllId) (s : State) : Out :=
  done <|
    if s.pwr.failed.any fun e => e.1 = p then
      let s : State := { s with pwr := { s.pwr with failed := s.pwr.failed.filter fun e => e.1 != p } }
      if hubPll p then { s with aon := { s.aon with releaseAt := max s.aon.releaseAt (s.now + 64) } } else s
    else s

/-- PLL_LOCK_TIMEOUT: no lock within 1 ms; the block stays in reset. -/
def execPllLockTimeout (p : PllId) (s : State) : Out :=
  done <|
    if s.pwr.failed.any fun e => e.1 = p && decide (msCycles ≤ s.now - e.2) then
      { s with pwr := { s.pwr with
        failed := s.pwr.failed.filter fun e => e.1 != p, dead := s.pwr.dead ++ [p] } }
    else s

end Sys2Proof.Machine
end

