-- ==== Sys2Proof/Machine/FwCommands.lean ====
section
/-! DEFINITION. The FW and ATT commands of Hokunuon, and the test access port (14 R385, R387 to R393, R396, R397, R404
to R406; 13 R376; 16 R446). -/

namespace Sys2Proof.Machine

/-! ### FW.STAGE, FW.COMMIT, FW.ACTIVATE (R391, R392) -/

/-- FW.STAGE: the object is checked and kept as the one staged object. -/
def execFwStage (ch : Nat) (s : State) : Out :=
  done <| s.serve ch 0x0901 8 fun s m =>
    s.withStaged ch m (fld m.payload 4 4) fun s l =>
      match s.objCheck l with
      | some e => s.answer ch m e.1 e.2 []
      | none =>
        let s : State := { s with hub := { s.hub with staged := some (l.take (objLen l)) } }
        s.ok ch m []

/-- A revocation of root key `k` that R392 refuses. -/
def State.revokeBad (s : State) (b : List Byte) (k : Nat) : Bool :=
  let left := (List.range 4).filter fun j => !s.part.revoke.getLsbD j && j != k
  let mine (x : List Byte) : Bool := !x.isEmpty && fld x 0 4 = 0x4D594657 && objKey x = k
  3 < k || objKey b = k || left.isEmpty || mine s.flash.copyA || mine s.flash.copyB

/-- The effect of a commit (R391, R399). -/
def State.commitObj (s : State) (b : List Byte) : State :=
  let s : State := { s with hub := { s.hub with staged := none } }
  if objKind b = 0 then { s with flash := s.flash.commit b }
  else if objKind b = 1 then
    let s := ({ s with part := s.part.burnLc (objBody b 1) } : State).wipeVault
    { s with aon := { s.aon with lcBurned := true } }
  else if objKind b = 2 then { s with part := { s.part with revoke := s.part.revoke ||| BitVec.ofNat 4 (2 ^ objBody b 1) } }
  else { s.wipeVault with aon := { s.aon with debugToken := some (BitVec.ofNat 32 (objBody b 4 % 8)) } }

/-- FW.COMMIT †: the staged object is checked again, and applied. With nothing staged the answer is STATE (log 35). -/
def execFwCommit (ch : Nat) (s : State) : Out :=
  done <| s.serveDev ch 0x0902 0 fun s m =>
    match s.hub.staged with
    | none => s.answer ch m 5 0 []
    | some b =>
      match s.objCheck b with
      | some e => s.answer ch m e.1 e.2 []
      | none =>
        if objKind b = 2 && s.revokeBad b (objBody b 1) then s.answer ch m 4 0x90 []
        else s.devDagger ch m fun s => (s.commitObj b, 0, 0)

/-- The staged image runs in place of the recovery loader; the UDS gate has closed, so the keys in the vault stay those
of this boot (R383, R390; log 36). -/
def State.runStaged (s : State) (b : List Byte) : State :=
  let s := s.each [0, 1, 2, 3, 4, 5, 6, 7] State.sessionDead
  { s with
    aon := { s.aon with recovery := false, image := b, imageKey := BitVec.ofNat 8 (objKey b) }
    hub := { s.hub with bind := [], staged := none, stew0 := .inReset s.now, serves := [0, 1, 2, 3] } }

/-- FW.ACTIVATE: the answer leaves, and then SYSRST into the active copy; in recovery the staged image runs (R390,
R391). -/
def execFwActivate (ch : Nat) (s : State) : Out :=
  done <| s.serve ch 0x0903 0 fun s m =>
    if s.aon.recovery then
      match s.hub.staged with
      | none => s.answer ch m 5 0 []
      | some b =>
        match s.objCheck b with
        | some e => s.answer ch m e.1 e.2 []
        | none => if objKind b = 0 then (s.ok ch m []).runStaged b else s.answer ch m 5 0 []
    else (s.ok ch m []).wideReset 7 false

/-! ### Attestation (R396, R397) -/

/-- Debug is open: in RAW and RETURNED always, else by a token (Tables 14.2, 14.11). -/
def State.debugOpen (s : State) : Bool := s.part.lc = 0 || s.part.lc = 3 || (s.part.lc != 4 && s.aon.debugScope.isSome)

/-- Reports are signed (R397). -/
def State.signsReports (s : State) : Bool :=
  (s.part.lc = 1 || s.part.lc = 2) && s.vault.valid && !s.debugOpen && !s.aon.keysLost && !s.aon.lcBurned

/-- The image whose code runs, and its security version. -/
def State.running (s : State) : List Byte × Nat :=
  if s.aon.recovery then (Config.recoveryLoader, Config.recoverySvn) else (s.aon.image, objSvn s.aon.image)

/-- A hash, or zeros for what is not there. -/
def hashOr (b : Bool) (l : List Byte) : List Byte := if b then sha384 l else zeros 48

/-- Bytes 0x000 to 0x15F of the report (Table 14.7). -/
def State.reportBody (s : State) (nonce : List Byte) : List Byte :=
  let b (n : Nat) (f : Bool) : Nat := if f then 2 ^ n else 0
  let flags := b 0 s.signsReports + b 1 s.debugOpen + b 2 s.aon.recovery + b 3 s.aon.tamperSincePor + b 4 s.aon.keysLost
  leBytes 4 0x4D594154 ++ leBytes 2 1 ++ leBytes 1 s.part.lc ++ leBytes 1 flags ++ slice nonce 0 48 ++ leBytes 16 nsig
    ++ leBytes 4 (s.devWord 0) ++ leBytes 4 (s.devWord 0x20) ++ [s.aon.imageKey] ++ leBytes 1 s.part.revoke.toNat
    ++ leBytes 1 s.part.svnVal ++ leBytes 1 (thermo s.part.tampcnt.toNat) ++ leBytes 4 s.running.2
    ++ leBytes 8 s.aon.tbase.toNat ++ sha384 s.running.1 ++ hashOr (!s.hub.bindRecord.isEmpty) s.hub.bindRecord
    ++ hashOr s.unitOk s.flash.unit ++ slice s.vault.devidHash 0 48 ++ slice s.vault.ckptHash 0 48
    ++ leBytes 1 s.twin.mode ++ leBytes 1 s.aon.bootsrc.toNat ++ zeros 2
    ++ leBytes 4 (if s.twin.paired then s.twin.peerDev.toNat else 0) ++ zeros 8

/-- The 448-byte report (R397). -/
def State.report (s : State) (nonce : List Byte) : List Byte :=
  let l := s.reportBody nonce
  l ++ (if s.signsReports then ecSigBytes s.vault.alias_.toNat l else zeros 96)

/-- ATT.REPORT. -/
def execAttReport (ch : Nat) (s : State) : Out :=
  done <| s.serve ch 0x0A01 56 fun s m => s.okStaged ch m (s.report (slice m.payload 8 48))

/-- A certificate in staging: length and DER bytes, padded to a multiple of 8 (R396). -/
def certEntry (c : List Byte) : List Byte :=
  let l := leBytes 4 c.length ++ c
  l ++ zeros ((8 - l.length % 8) % 8)

/-- DeviceID certificate, or the request while the flash holds none; then alias and checkpoint (R386, R396). -/
def State.certs (s : State) : List (List Byte) :=
  let dev := if s.flash.cert.isEmpty then s.vault.csr else (s.flash.cert.drop 4).take (fld s.flash.cert 0 4)
  (if dev.isEmpty then [] else [dev]) ++ s.vault.certs

/-- ATT.CERTS. -/
def execAttCerts (ch : Nat) (s : State) : Out :=
  done <| s.serve ch 0x0A02 4 fun s m => s.okStaged ch m (leBytes 4 s.certs.length ++ s.certs.flatMap certEntry)

/-! ### The test access port (R404 to R406, R446) -/

/-- Another instruction is in the port: what EXTEST held is released (R404). -/
def State.tapLoad (s : State) (ir : Nat) : State :=
  let s : State := { s with tap := { s.tap with ir := ir } }
  if s.aon.sources.contains 6 then s.release 6 else s

/-- Data that leaves by TDO. -/
def State.tapOut (s : State) (v : U64) : State :=
  ({ s with tap := { s.tap with data := v } } : State).emit (.pin 1 v.toNat)

/-- BYPASS. -/
def execBypass (s : State) : Out := done (s.tapLoad 0)

/-- The IDCODE register (Table 16.8). -/
def Part.idcode (p : Part) : Nat :=
  1 + 2 * 0x6E3 + 2 ^ 12 * p.part.toNat + 2 ^ 28 * (if p.stepping = 0xB0 then 2 else 1)

/-- IDCODE; in END it acts as BYPASS. -/
def execIdcode (s : State) : Out :=
  done <| if s.part.lc = 4 then s.tapLoad 0 else (s.tapLoad 1).tapOut (BitVec.ofNat 64 s.part.idcode)

/-- SAMPLE/PRELOAD: what the lands carry is the board's (log 6). -/
def execSamplePreload (s : State) : Out :=
  done <|
    if s.part.lc = 4 then s.tapLoad 0
    else
      let v := Config.freeWord s.freeCtr
      (s.takeFree.tapLoad 2).tapOut v

/-- EXTEST: a reset of SYSRST_N reach, held while the instruction stands, and a wipe (R399, R404). -/
def execExtest (s : State) : Out :=
  done <|
    if s.part.lc = 4 then s.tapLoad 0
    else
      let s : State := { s with tap := { s.tap with ir := 3 } }
      s.wipeVault.wideReset 6 true

/-- Scope bits that are open (Table 14.11). -/
def State.scope (s : State) (k : Nat) : Bool :=
  s.part.lc = 0 || s.part.lc = 3 || s.aon.debugScope.any fun v => v.getLsbD k

/-- Bytes of the fuse block (Table 14.1). -/
def Part.fuseBlock (p : Part) : List Byte :=
  zeros 48 ++ (List.range 4).flatMap (fun k => hashBytes (p.rk.getD k 0))
    ++ leBytes 16 (p.revoke.toNat + 2 ^ 4 * p.lcpos.toNat + 2 ^ 8 * p.svn.toNat + 2 ^ 72 * p.tampcnt.toNat)

/-- The byte that a DBGACCESS operation reaches: HBM, DDR5, scratchpads and staging (Table 14.11). -/
def State.dbgPlace (s : State) (st : Store) (a : Nat) : Option Place :=
  let len : Nat := match st with
    | .scratch p => if p < 272 then spBytes else 0
    | .hbm => 1152 * 2 ^ 30
    | .ddr => s.mem.ddrGib * 2 ^ 30
    | _ => 2 ^ 29
  if a < len then Place.ofStore st else none

/-- One access, where its scope is open; no access reaches UDS, the vault or the boot ROM's memory (R406). What a
steward's memory holds is not the spec's (log 6). -/
def State.dbg (s : State) (op : DbgOp) : State :=
  match op with
  | .stewardRead k _ =>
    if s.scope 0 && k < 4 then
      let v := Config.freeWord s.freeCtr
      s.takeFree.tapOut (BitVec.ofNat 64 (v.toNat % 256))
    else s
  | .stewardWrite _ _ _ => s
  | .stewardHalt k =>
    if s.scope 0 && k < 4 && !s.hub.halted.contains k then
      { s with hub := { s.hub with halted := s.hub.halted ++ [k] } }
    else s
  | .stewardStep _ => s
  | .memRead st a =>
    match s.dbgPlace st a with
    | some pl =>
      if s.scope 1 then
        let s := s.readFinds pl [a]
        s.tapOut (BitVec.ofNat 64 (s.byteAt pl a).toNat)
      else s
    | none => s
  | .memWrite st a b =>
    match s.dbgPlace st a with
    | some pl => if s.scope 1 then s.store pl [{ addr := a, val := b }] else s
    | none => s
  | .fuseRead n =>
    if s.scope 2 && 48 ≤ n && n < 256 then s.tapOut (BitVec.ofNat 64 (s.part.fuseBlock.getD n 0).toNat) else s

/-- DBGACCESS: outside its states it acts as BYPASS (Table 14.10). -/
def execDbgaccess (op : DbgOp) (s : State) : Out :=
  done <| if s.debugOpen then (s.tapLoad 4).dbg op else s.tapLoad 0

end Sys2Proof.Machine
end

