-- ==== Sys2Proof/Machine/Power.lean ====
section
/-! DEFINITION. Core and device power states, the power controller, throttling, link lanes, and what a cycle of the
clock does (15 R427 to R434; 16 R437; 12 R341; 08 R226). -/

namespace Sys2Proof.Machine

/-! ### Cores (R427, R428) -/

/-- A core with work: a stream Running or Waiting, or anything in a queue of an engine. -/
def Core.active (k : Core) : Bool :=
  k.strands.any fun e =>
    let t := e.2
    let on (x : Stream) : Bool := x.state = .running || x.state = .waiting || x.resumeReq || !x.xfers.isEmpty
    on t.m || on t.v || on t.x || t.mrun.isSome || !t.closing.isEmpty

/-- The core is the neighbour of a capture that waits for its re-execution (R330). -/
def State.sampled (s : State) (p : Nat) : Bool :=
  (List.range 272).any fun q => ((s.core q).captures.any fun c => !c.done) && s.neighbour q = p

/-- CORE_SLEEP_TIMER: 10 µs Ready with no work; the last core to sleep leaves the device in D-Idle. -/
def execCoreSleepTimer (pc : Nat) (s : State) : Out :=
  done <|
    let k := s.core pc
    if pc < 272 && k.power = .ready && !k.active && 10 * usCycles ≤ s.now - k.powerAt then
      let s := s.updCore pc fun k => { k with power := .asleep, powerAt := s.now }
      s.restIdle
    else s

/-- CORE_OFF_TIMER: 1 ms Asleep while in no context; nothing is kept. -/
def execCoreOffTimer (pc : Nat) (s : State) : Out :=
  done <|
    let k := s.core pc
    if pc < 272 && k.power = .asleep && (s.ownerOf pc).isNone && msCycles ≤ s.now - k.powerAt then
      (s.coreReset pc).updCore pc fun k => { k with power := .off, powerAt := s.now }
    else s

/-- What a wake needs: for an Asleep core work or a sample to re-execute, for one that is Off a context, proofing or an
arbitration (R256, R427). -/
def State.needed (s : State) (p : Nat) : Bool :=
  let k := s.core p
  let judged : Bool := s.hub.arbs.any fun a => a.verdict.isNone && a.checker = 0 && s.thirdCore a.producer = some p
  match k.power with
  | .asleep => k.active || s.sampled p || judged
  | .off => (s.ownerOf p).isSome || k.svc = .proofing || judged
  | _ => false

/-- CORE_WAKE: at most 8 cores of a rail begin a wake in any 100 ns (R428), from stage 8 on and with the rail's PLL
locked (R411, R420). -/
def execCoreWake (pc : Nat) (s : State) : Out :=
  done <|
    let near (p : Nat) : Bool := (s.core p).power = .waking && decide (s.now - (s.core p).powerAt < 94)
    let busy := ((railCores (coreRail pc)).filter near).length
    if pc < 272 && 8 ≤ s.aon.stage && s.needed pc && busy < 8 && !s.pllOut (fun q => q = .compute (coreRail pc)) then
      s.updCore pc fun k => { k with power := .waking, powerAt := s.now, ctrs := { k.ctrs with wakes := k.ctrs.wakes + 1 } }
    else s

/-- CORE_WAKE_DONE: the core is Ready, and the device in D-Run; its streams go on. -/
def execCoreWakeDone (pc : Nat) (s : State) : Out :=
  done <|
    if pc < 272 && (s.core pc).power = .waking then
      let s := s.updCore pc fun k => { k with power := .ready, powerAt := s.now }
      State.wakeStreams { s with pwr := { s.pwr with dev := .run } } pc
    else s

/-! ### The device (R429) -/

/-- A hub engine is active: an instance of a collective or dispatch is open. -/
def State.hubActive (s : State) : Bool := (List.range 16).any fun c => !(s.ctx c).colls.isEmpty || !(s.ctx c).disps.isEmpty

/-- STANDBY_TIMER: 1 s of D-Idle with no context, Solo, and no † command. Stewards are clock-stopped; the fabric ports
and the twin link go down. -/
def execStandbyTimer (s : State) : Out :=
  done <|
    if s.pwr.dev = .idle && 8 ≤ s.aon.stage && s.nctxs = 0 && s.twin.mode = 0 && s.hub.dagger.isNone && !s.hubActive
        && secCycles ≤ s.now - s.pwr.idleSince then
      let s := if s.twin.up then s.twinDown else s
      let s := s.each [0, 1, 2, 3] fun s k =>
        match stewGet s.hub k with
        | .working => s.setStew k .asleep
        | _ => s
      { s with
        fab := { s.fab with ports := SMap.mapv {} s.fab.ports fun (p : FabPort) => { p with up := false } }
        pwr := { s.pwr with dev := .standby } }
    else s

/-- STANDBY_EXIT: a valid host frame wakes the device into D-Idle; its stewards run within 200 µs (R359, R362). -/
def execStandbyExit (f : HostFrame) (s : State) : Out :=
  done <|
    if s.pwr.dev = .standby && s.hostUp f.port && f.ip.dport = s.hub.udp && f.crcOk && f.ver = 1 && hostType f.typ then
      let s := s.each [0, 1, 2, 3] fun s k =>
        match stewGet s.hub k with
        | .asleep => s.setStew k .waking
        | _ => s
      { s with pwr := { s.pwr with dev := .idle, idleSince := s.now } }
    else s

/-! ### The power controller (R430 to R433) -/

/-- Sustained limit, excursion ceiling in W, and excursion length in µs (Table 15.11); a cap lowers both limits. -/
def Pwr.limits (p : Pwr) : Nat × Nat × Nat :=
  let l : Nat × Nat × Nat := if p.mode = 0 then (2000, 2300, 1000) else if p.mode = 1 then (2000, 2300, 100) else (1500, 1700, 100)
  if p.cap = 0 then l else (min l.1 p.cap, min l.2.1 p.cap, l.2.2)

/-- The throttle temperature, and where it ends (R432, Table 16.9). -/
def hotNext (hot : Bool) (temp : Int) : Bool := if hot then 90 < temp else 95 < temp

/-- A level change downward: the clock first, then the rails (R432). -/
def State.levelDown (s : State) : State :=
  let n := s.pwr.level + 1
  let s : State := { s with pwr := { s.pwr with level := n, raising := none, avsWait := [] } }
  s.setRails n

/-- A level change upward begins with the rails. -/
def State.levelUp (s : State) : State :=
  let n := s.pwr.level - 1
  let s : State := { s with pwr := { s.pwr with raising := some n, avsWait := [0, 1, 2, 3, 4, 5, 6, 7] } }
  s.setRails n

/-- What the estimate and the temperature leave standing: how long each limit has been passed, and whether the level is
being lowered for power, which stops at the sustained limit (R432; DEDUCED, log 37). -/
def Pwr.observe (p : Pwr) (now watts : Nat) (temp : Int) : Pwr :=
  let l := p.limits
  let keep (c : Bool) (o : Option Nat) : Option Nat := if c then some (o.getD now) else none
  let overs := keep (decide (l.1 < watts)) p.overSince
  let long : Bool := overs.any fun t => decide (l.2.2 * usCycles < now - t)
  { p with
    overSince := overs, underSince := keep (decide (100 * watts ≤ 95 * l.1)) p.underSince
    lowering := l.1 < watts && (p.lowering || l.2.1 < watts || long), hot := hotNext p.hot temp, stepAt := now }

/-- One control step's action: lower, withhold grants, give them back, or raise (R432). -/
def State.control (s : State) : State :=
  let p := s.pwr
  let calm : Bool := p.underSince.any fun t => decide (100 * usCycles ≤ s.now - t)
  if p.lowering || p.hot then
    if p.level < 7 then
      let s := s.levelDown
      { s with pwr := { s.pwr with limstep := s.pwr.limstep + 1 } }
    else if p.lowering && p.gate < 4 then { s with pwr := { p with gate := p.gate + 1 } }
    else s
  else if calm then
    if 0 < p.gate then { s with pwr := { p with gate := p.gate - 1 } }
    else if 0 < p.level && p.raising.isNone then s.levelUp
    else s
  else s

/-- POWER_CONTROL_STEP: every 10 µs, with the package power in W and the hottest sensor. While THROTTLE_N is low, and
for 100 µs after, the step at their end included, the controller only observes (R433 with its example). -/
def execPowerControlStep (watts : Nat) (temp : Int) (s : State) : Out :=
  done <|
    if 8 ≤ s.aon.stage && 10 * usCycles ≤ s.now - s.pwr.stepAt then
      let s : State := { s with pwr := s.pwr.observe s.now watts temp }
      if s.aon.throttleLow || s.now ≤ s.pwr.holdUntil then s else s.control
    else s

/-- AVS_COMPLETE: a regulator has reached its setpoint; once all have, the raised clock applies (R432, R437). -/
def execAvsComplete (rail : Nat) (s : State) : Out :=
  done <| match s.pwr.raising with
  | some n =>
    let l := s.pwr.avsWait.filter (· != rail)
    if l.isEmpty then { s with pwr := { s.pwr with level := n, raising := none, avsWait := [] } }
    else { s with pwr := { s.pwr with avsWait := l } }
  | none => s

/-- THROTTLE_FALL: a level raise is abandoned, and the level falls to 5 or lower (R433, Table 15.7). -/
def execThrottleFall (s : State) : Out :=
  done <|
    if s.aon.stage = 0 || s.aon.throttleLow then s
    else
      let raising := s.pwr.raising.isSome
      let s : State :=
        { s with
          aon := { s.aon with throttleLow := true, throttleAt := s.now }
          pwr := { s.pwr with raising := none, avsWait := [], throttleStepAt := s.now } }
      if raising then s.setRails s.pwr.level else s

/-- THROTTLE_LEVEL_STEP: one level every 2 µs until level 5 (R433). -/
def execThrottleLevelStep (s : State) : Out :=
  done <|
    if s.aon.throttleLow && s.pwr.level < 5 && 2 * usCycles ≤ s.now - s.pwr.throttleStepAt then
      let s := s.levelDown
      { s with pwr := { s.pwr with throttleStepAt := s.now } }
    else s

/-- THROTTLE_RISE: the normal rules resume 100 µs later (R433). -/
def execThrottleRise (s : State) : Out :=
  done <|
    if s.aon.throttleLow then
      { s with
        aon := { s.aon with throttleLow := false }
        pwr := { s.pwr with holdUntil := s.now + 100 * usCycles } }
    else s

/-! ### Link lanes (R288, R341) -/

/-- A fabric port leaves every PORTMASK it appears in (R268, R341). -/
def Ctx.dropPort (x : Ctx) (k : Nat) : Ctx :=
  let clear (e : BitVec 256) : BitVec 256 := e &&& ~~~BitVec.ofNat 256 (2 ^ (192 + k))
  { x with cfg := { x.cfg with endpoints := SMap.mapv 0 x.cfg.endpoints clear } }

/-- The widest set of 8, 4 or 2 lanes that the lanes of the twin link in work hold, 0 for none (R288; any lanes may form it:
DESIGN CHOICE, log 149). -/
def Twin.widest (w : Twin) : Nat :=
  let n := 8 - ((w.suspectLanes.filter fun l => 16 ≤ l.port).map (·.lane)).eraseDups.length
  if n = 8 then 8 else if 4 ≤ n then 4 else if 2 ≤ n then 2 else 0

/-- LINK_LANE_EVENT: a suspect lane is retrained; where it fails again the twin link runs on the largest working set, or
goes down below 2 lanes, and a fabric port leaves spraying (R288, R341). -/
def execLinkLaneEvent (l : LaneId) (retrained : Bool) (s : State) : Out :=
  done <|
    let s : State := { s with twin := { s.twin with
      suspectLanes := (s.twin.suspectLanes.filter (· != l)) ++ (if retrained then [] else [l]) } }
    let s := s.raise { event := 0x0C, unit := 6, loc := BitVec.ofNat 64 (l.port + 256 * l.lane) }
    if retrained then s
    else if l.port < 16 then
      s.each ((List.range 16).filter s.exists_) fun s c => s.updCtx c fun x => x.dropPort l.port
    else if s.twin.widest != 0 then { s with twin := { s.twin with lanes := min s.twin.lanes s.twin.widest } }
    else if s.twin.up then s.twinDown
    else s

/-! ### A cycle (R226, R434) -/

/-- A core of the half die is out of Off, so that its clock runs (Table 15.2). -/
def State.railRuns (s : State) (k : Nat) : Bool := (railCores k).any fun p => (s.core p).power != .off

/-- Time counters of the power controller, at the end of a microsecond or cycle (Table 15.12). -/
def State.powerTime (s : State) : Pwr :=
  let p := s.pwr
  let us : Bool := s.now % usCycles = usCycles - 1
  let lv := if us then
      (List.range 8).foldl (fun m k => if s.railRuns k then SMap.upd 0 m (k * 8 + p.level) (· + 1) else m) p.lvltime
    else p.lvltime
  { p with
    lvltime := lv
    grantgate := if s.now % 8 < p.gate then p.grantgate + 1 else p.grantgate
    thrtime := if us && s.aon.throttleLow then p.thrtime + 1 else p.thrtime }

/-- One arithmetic-clock cycle at 940 MHz: the time base advances by 51,200/47 units of 2^−10 ns from POR release on
(R226, Table 15.2; log 2). M instructions that wait for slots count it (MSLOTWAIT, Table 3.8). -/
def State.tick (s : State) : State :=
  if s.aon.stage = 0 then { s with now := s.now + 1 }
  else
    let t := s.aon.tfrac + 51200
    { s with
      now := s.now + 1
      cores := SMap.mapv {} s.cores Core.slotWait
      aon := { s.aon with tbase := s.aon.tbase + BitVec.ofNat 64 (t / 47), tfrac := t % 47 }
      pwr := s.powerTime }

end Sys2Proof.Machine
end

