-- ==== Sys2Proof/Machine/Dispatch.lean ====
section
/-! DEFINITION. The dispatch: one arm per command, each a direct call of that command's meaning. -/

namespace Sys2Proof.Machine

/-- The effect of a command on everything but the queue. -/
def exec (i : Instr) (s : State) : Host.Outcome State Fault Refusal :=
  match i with
  | .nop a => Sys2Proof.Machine.execNop a s
  | .end_ a => Sys2Proof.Machine.execEnd a s
  | .sete a => Sys2Proof.Machine.execSete a s
  | .setlc a => Sys2Proof.Machine.execSetlc a s
  | .ldlc a => Sys2Proof.Machine.execLdlc a s
  | .loop a => Sys2Proof.Machine.execLoop a s
  | .dadv a => Sys2Proof.Machine.execDadv a s
  | .ldsc a => Sys2Proof.Machine.execLdsc a s
  | .ldd a => Sys2Proof.Machine.execLdd a s
  | .call a bank => Sys2Proof.Machine.execCall a bank s
  | .bar a => Sys2Proof.Machine.execBar a s
  | .mm t => Sys2Proof.Machine.execMm t s
  | .mmt t => Sys2Proof.Machine.execMmt t s
  | .mop t => Sys2Proof.Machine.execMop t s
  | .vadd t bank => Sys2Proof.Machine.execVadd t bank s
  | .vsub t bank => Sys2Proof.Machine.execVsub t bank s
  | .vmul t bank => Sys2Proof.Machine.execVmul t bank s
  | .vfma t bank => Sys2Proof.Machine.execVfma t bank s
  | .vdiv t bank => Sys2Proof.Machine.execVdiv t bank s
  | .vrcp t bank => Sys2Proof.Machine.execVrcp t bank s
  | .vsqrt t bank => Sys2Proof.Machine.execVsqrt t bank s
  | .vrsqrt t bank => Sys2Proof.Machine.execVrsqrt t bank s
  | .vmax t bank => Sys2Proof.Machine.execVmax t bank s
  | .vmin t bank => Sys2Proof.Machine.execVmin t bank s
  | .vabs t bank => Sys2Proof.Machine.execVabs t bank s
  | .vneg t bank => Sys2Proof.Machine.execVneg t bank s
  | .vsel t bank => Sys2Proof.Machine.execVsel t bank s
  | .vcvt t bank => Sys2Proof.Machine.execVcvt t bank s
  | .vcurve t bank => Sys2Proof.Machine.execVcurve t bank s
  | .vrsum t bank => Sys2Proof.Machine.execVrsum t bank s
  | .vrmax t bank => Sys2Proof.Machine.execVrmax t bank s
  | .vrmin t bank => Sys2Proof.Machine.execVrmin t bank s
  | .vamax t bank => Sys2Proof.Machine.execVamax t bank s
  | .vperm t bank => Sys2Proof.Machine.execVperm t bank s
  | .vapply t bank => Sys2Proof.Machine.execVapply t bank s
  | .xcopy t => Sys2Proof.Machine.execXcopy t s
  | .gatherRecord t => Sys2Proof.Machine.execGatherRecord t s
  | .gatherCheck t => Sys2Proof.Machine.execGatherCheck t s
  | .xacc t => Sys2Proof.Machine.execXacc t s
  | .xcoll x => Sys2Proof.Machine.execXcoll x s
  | .xdispDispatch x => Sys2Proof.Machine.execXdispDispatch x s
  | .xdispCombine x => Sys2Proof.Machine.execXdispCombine x s
  | .xrsig t => Sys2Proof.Machine.execXrsig t s
  | .waitRelease a => Sys2Proof.Machine.execWaitRelease a s
  | .waitTimeout a => Sys2Proof.Machine.execWaitTimeout a s
  | .localSignal a => Sys2Proof.Machine.execLocalSignal a s
  | .semaphoreDeferredIncrement pc => Sys2Proof.Machine.execSemaphoreDeferredIncrement pc s
  | .instructionFetch a => Sys2Proof.Machine.execInstructionFetch a s
  | .contextQuiescent c => Sys2Proof.Machine.execContextQuiescent c s
  | .quiesceCutoff c => Sys2Proof.Machine.execQuiesceCutoff c s
  | .mGrant pc => Sys2Proof.Machine.execMGrant pc s
  | .arrayConfigSwitch pc => Sys2Proof.Machine.execArrayConfigSwitch pc s
  | .blockLoad x => Sys2Proof.Machine.execBlockLoad x s
  | .groupClose t errs bank => Sys2Proof.Machine.execGroupClose t errs bank s
  | .samplerReexecute pc => Sys2Proof.Machine.execSamplerReexecute pc s
  | .samplerCompare pc differs => Sys2Proof.Machine.execSamplerCompare pc differs s
  | .fragmentComplete t id frag env => Sys2Proof.Machine.execFragmentComplete t id frag env s
  | .xaccApply t id frag errs => Sys2Proof.Machine.execXaccApply t id frag errs s
  | .xaccWaitRoom t id frag => Sys2Proof.Machine.execXaccWaitRoom t id frag s
  | .patrolScrub errs => Sys2Proof.Machine.execPatrolScrub errs s
  | .libraryReload pc => Sys2Proof.Machine.execLibraryReload pc s
  | .datapathParityError p => Sys2Proof.Machine.execDatapathParityError p s
  | .contextSwitch c slice => Sys2Proof.Machine.execContextSwitch c slice s
  | .contextSwitchClearDone slice => Sys2Proof.Machine.execContextSwitchClearDone slice s
  | .barrierRelease c b => Sys2Proof.Machine.execBarrierRelease c b s
  | .barrierArrive f => Sys2Proof.Machine.execBarrierArrive f s
  | .barrierReleaseMsg f => Sys2Proof.Machine.execBarrierReleaseMsg f s
  | .barrierTreeRelease c b => Sys2Proof.Machine.execBarrierTreeRelease c b s
  | .finalSealClose c step => Sys2Proof.Machine.execFinalSealClose c step s
  | .ptpMessage m time => Sys2Proof.Machine.execPtpMessage m time s
  | .checkpointPageCopy c => Sys2Proof.Machine.execCheckpointPageCopy c s
  | .copyBeforeWrite c page => Sys2Proof.Machine.execCopyBeforeWrite c page s
  | .heldWriteResume c page => Sys2Proof.Machine.execHeldWriteResume c page s
  | .checkpointCommit c => Sys2Proof.Machine.execCheckpointCommit c s
  | .stepClosureWrite c => Sys2Proof.Machine.execStepClosureWrite c s
  | .resizeHold c => Sys2Proof.Machine.execResizeHold c s
  | .autoRestore c => Sys2Proof.Machine.execAutoRestore c s
  | .substitutionHold pc => Sys2Proof.Machine.execSubstitutionHold pc s
  | .substitutionCopyDone pc => Sys2Proof.Machine.execSubstitutionCopyDone pc s
  | .arbitrationVerdict case third => Sys2Proof.Machine.execArbitrationVerdict case third s
  | .proofingEnd pc passed => Sys2Proof.Machine.execProofingEnd pc passed s
  | .rowRepair row repaired => Sys2Proof.Machine.execRowRepair row repaired s
  | .collContribution x => Sys2Proof.Machine.execCollContribution x s
  | .collResult x => Sys2Proof.Machine.execCollResult x s
  | .collInstanceTimeout c dispatch id inst => Sys2Proof.Machine.execCollInstanceTimeout c dispatch id inst s
  | .abandon f => Sys2Proof.Machine.execAbandon f s
  | .dtok x => Sys2Proof.Machine.execDtok x s
  | .dcntCounts x => Sys2Proof.Machine.execDcntCounts x s
  | .dcntAccepted x => Sys2Proof.Machine.execDcntAccepted x s
  | .dcmb x => Sys2Proof.Machine.execDcmb x s
  | .rsig f => Sys2Proof.Machine.execRsig f s
  | .fabricAck f => Sys2Proof.Machine.execFabricAck f s
  | .fabricRetransmitTimer c ep psn => Sys2Proof.Machine.execFabricRetransmitTimer c ep psn s
  | .fabricAckTimer c ep => Sys2Proof.Machine.execFabricAckTimer c ep s
  | .fabricRateRaise c ep => Sys2Proof.Machine.execFabricRateRaise c ep s
  | .fabricOtherFrame port o => Sys2Proof.Machine.execFabricOtherFrame port o s
  | .fabricLinkChange port up => Sys2Proof.Machine.execFabricLinkChange port up s
  | .twinFailingFrame f => Sys2Proof.Machine.execTwinFailingFrame f s
  | .twinCtrlFrame f => Sys2Proof.Machine.execTwinCtrlFrame f s
  | .twinTimeFrame f => Sys2Proof.Machine.execTwinTimeFrame f s
  | .twinSealFrame f => Sys2Proof.Machine.execTwinSealFrame f s
  | .twinFabFrame x => Sys2Proof.Machine.execTwinFabFrame x s
  | .twinBreqFrame f => Sys2Proof.Machine.execTwinBreqFrame f s
  | .twinBdataFrame f => Sys2Proof.Machine.execTwinBdataFrame f s
  | .twinBuddyFrame f => Sys2Proof.Machine.execTwinBuddyFrame f s
  | .twinIdleFrame f => Sys2Proof.Machine.execTwinIdleFrame f s
  | .twinRetransmitTimer => Sys2Proof.Machine.execTwinRetransmitTimer s
  | .twinKeepaliveTimer => Sys2Proof.Machine.execTwinKeepaliveTimer s
  | .twinSilent => Sys2Proof.Machine.execTwinSilent s
  | .twinLinkRetrain lanes => Sys2Proof.Machine.execTwinLinkRetrain lanes s
  | .twinResetPattern => Sys2Proof.Machine.execTwinResetPattern s
  | .open_ f => Sys2Proof.Machine.execOpen f s
  | .prove f => Sys2Proof.Machine.execProve f s
  | .close f => Sys2Proof.Machine.execClose f s
  | .keep f => Sys2Proof.Machine.execKeep f s
  | .hostAck f => Sys2Proof.Machine.execHostAck f s
  | .msg f => Sys2Proof.Machine.execMsg f s
  | .db f => Sys2Proof.Machine.execDb f s
  | .mask f => Sys2Proof.Machine.execMask f s
  | .bulkw f bank => Sys2Proof.Machine.execBulkw f bank s
  | .bulkr f => Sys2Proof.Machine.execBulkr f s
  | .hostOtherFrame port o => Sys2Proof.Machine.execHostOtherFrame port o s
  | .hostRetransmitTimer sess seq => Sys2Proof.Machine.execHostRetransmitTimer sess seq s
  | .hostAckTimer sess => Sys2Proof.Machine.execHostAckTimer sess s
  | .sessionTimeout sess => Sys2Proof.Machine.execSessionTimeout sess s
  | .mailboxPost ch m => Sys2Proof.Machine.execMailboxPost ch m s
  | .mailboxTake ch => Sys2Proof.Machine.execMailboxTake ch s
  | .dbsetWrite ch bits => Sys2Proof.Machine.execDbsetWrite ch bits s
  | .dbClear ch bits setNow => Sys2Proof.Machine.execDbClear ch bits setNow s
  | .lockWrite val => Sys2Proof.Machine.execLockWrite val s
  | .registerWrite r val => Sys2Proof.Machine.execRegisterWrite r val s
  | .stewardWake k => Sys2Proof.Machine.execStewardWake k s
  | .watchdogExpiry k finished => Sys2Proof.Machine.execWatchdogExpiry k finished s
  | .stewardReload k ok => Sys2Proof.Machine.execStewardReload k ok s
  | .queryDevice ch => Sys2Proof.Machine.execQueryDevice ch s
  | .queryCores ch => Sys2Proof.Machine.execQueryCores ch s
  | .queryBind ch => Sys2Proof.Machine.execQueryBind ch s
  | .ctxCreate ch => Sys2Proof.Machine.execCtxCreate ch s
  | .ctxDestroy ch => Sys2Proof.Machine.execCtxDestroy ch s
  | .ctxQuery ch => Sys2Proof.Machine.execCtxQuery ch s
  | .ctxTables ch => Sys2Proof.Machine.execCtxTables ch s
  | .ctxTtab ch => Sys2Proof.Machine.execCtxTtab ch s
  | .ctxPlans ch => Sys2Proof.Machine.execCtxPlans ch s
  | .ctxSwap ch => Sys2Proof.Machine.execCtxSwap ch s
  | .ctxSetsem ch => Sys2Proof.Machine.execCtxSetsem ch s
  | .ctxSignal ch => Sys2Proof.Machine.execCtxSignal ch s
  | .ctxResize ch => Sys2Proof.Machine.execCtxResize ch s
  | .ctxLend ch => Sys2Proof.Machine.execCtxLend ch s
  | .ctxSampler ch => Sys2Proof.Machine.execCtxSampler ch s
  | .ctxReset ch => Sys2Proof.Machine.execCtxReset ch s
  | .memBport ch => Sys2Proof.Machine.execMemBport ch s
  | .memZero ch => Sys2Proof.Machine.execMemZero ch s
  | .progLoad ch => Sys2Proof.Machine.execProgLoad ch s
  | .progUnload ch => Sys2Proof.Machine.execProgUnload ch s
  | .strandStart ch => Sys2Proof.Machine.execStrandStart ch s
  | .strandStop ch => Sys2Proof.Machine.execStrandStop ch s
  | .strandStatus ch => Sys2Proof.Machine.execStrandStatus ch s
  | .strandStep ch => Sys2Proof.Machine.execStrandStep ch s
  | .pairPair ch => Sys2Proof.Machine.execPairPair ch s
  | .pairMode ch => Sys2Proof.Machine.execPairMode ch s
  | .pairTakeover ch => Sys2Proof.Machine.execPairTakeover ch s
  | .pairTime ch => Sys2Proof.Machine.execPairTime ch s
  | .ckptArm ch => Sys2Proof.Machine.execCkptArm ch s
  | .ckptDrained ch => Sys2Proof.Machine.execCkptDrained ch s
  | .ckptOpen ch => Sys2Proof.Machine.execCkptOpen ch s
  | .ckptRestore ch => Sys2Proof.Machine.execCkptRestore ch s
  | .ckptVerify ch => Sys2Proof.Machine.execCkptVerify ch s
  | .teleCounters ch => Sys2Proof.Machine.execTeleCounters ch s
  | .teleDevice ch => Sys2Proof.Machine.execTeleDevice ch s
  | .teleGlaze ch => Sys2Proof.Machine.execTeleGlaze ch s
  | .teleSync ch => Sys2Proof.Machine.execTeleSync ch s
  | .fwStage ch => Sys2Proof.Machine.execFwStage ch s
  | .fwCommit ch => Sys2Proof.Machine.execFwCommit ch s
  | .fwActivate ch => Sys2Proof.Machine.execFwActivate ch s
  | .attReport ch => Sys2Proof.Machine.execAttReport ch s
  | .attCerts ch => Sys2Proof.Machine.execAttCerts ch s
  | .faultRecords ch => Sys2Proof.Machine.execFaultRecords ch s
  | .faultXlog ch => Sys2Proof.Machine.execFaultXlog ch s
  | .faultCper ch => Sys2Proof.Machine.execFaultCper ch s
  | .faultCase ch => Sys2Proof.Machine.execFaultCase ch s
  | .cfgFabric ch => Sys2Proof.Machine.execCfgFabric ch s
  | .cfgHostnet ch => Sys2Proof.Machine.execCfgHostnet ch s
  | .cfgPower ch => Sys2Proof.Machine.execCfgPower ch s
  | .por => Sys2Proof.Machine.execPor s
  | .sysrst cause => Sys2Proof.Machine.execSysrst cause s
  | .corerst pc => Sys2Proof.Machine.execCorerst pc s
  | .portrst p => Sys2Proof.Machine.execPortrst p s
  | .portRetrainDone p ok => Sys2Proof.Machine.execPortRetrainDone p ok s
  | .releaseStage => Sys2Proof.Machine.execReleaseStage s
  | .bootImageTimeout => Sys2Proof.Machine.execBootImageTimeout s
  | .memoryZeroing => Sys2Proof.Machine.execMemoryZeroing s
  | .pwrokFall => Sys2Proof.Machine.execPwrokFall s
  | .pwrokResetTimer => Sys2Proof.Machine.execPwrokResetTimer s
  | .pwrokRise => Sys2Proof.Machine.execPwrokRise s
  | .clockFailure p => Sys2Proof.Machine.execClockFailure p s
  | .pllLock p => Sys2Proof.Machine.execPllLock p s
  | .pllLockTimeout p => Sys2Proof.Machine.execPllLockTimeout p s
  | .railFault rail deviation => Sys2Proof.Machine.execRailFault rail deviation s
  | .railFaultResetTimer => Sys2Proof.Machine.execRailFaultResetTimer s
  | .tamperTrip sensor => Sys2Proof.Machine.execTamperTrip sensor s
  | .tamperReset => Sys2Proof.Machine.execTamperReset s
  | .vaultError => Sys2Proof.Machine.execVaultError s
  | .bypass => Sys2Proof.Machine.execBypass s
  | .idcode => Sys2Proof.Machine.execIdcode s
  | .samplePreload => Sys2Proof.Machine.execSamplePreload s
  | .extest => Sys2Proof.Machine.execExtest s
  | .dbgaccess op => Sys2Proof.Machine.execDbgaccess op s
  | .coreSleepTimer pc => Sys2Proof.Machine.execCoreSleepTimer pc s
  | .coreOffTimer pc => Sys2Proof.Machine.execCoreOffTimer pc s
  | .coreWake pc => Sys2Proof.Machine.execCoreWake pc s
  | .coreWakeDone pc => Sys2Proof.Machine.execCoreWakeDone pc s
  | .standbyTimer => Sys2Proof.Machine.execStandbyTimer s
  | .standbyExit f => Sys2Proof.Machine.execStandbyExit f s
  | .powerControlStep watts temp => Sys2Proof.Machine.execPowerControlStep watts temp s
  | .avsComplete rail => Sys2Proof.Machine.execAvsComplete rail s
  | .throttleFall => Sys2Proof.Machine.execThrottleFall s
  | .throttleRise => Sys2Proof.Machine.execThrottleRise s
  | .thermalImminent => Sys2Proof.Machine.execThermalImminent s
  | .thermalTrip temp => Sys2Proof.Machine.execThermalTrip temp s
  | .thermtripRelease => Sys2Proof.Machine.execThermtripRelease s
  | .linkLaneEvent l retrained => Sys2Proof.Machine.execLinkLaneEvent l retrained s
  | .tileProductComplete t upsets => Sys2Proof.Machine.execTileProductComplete t upsets s
  | .commandComplete c => Sys2Proof.Machine.execCommandComplete c s
  | .vddAonValid bootsrc clkmode twinside => Sys2Proof.Machine.execVddAonValid bootsrc clkmode twinside s
  | .sysrstNRelease => Sys2Proof.Machine.execSysrstNRelease s
  | .tamperSensorClear => Sys2Proof.Machine.execTamperSensorClear s
  | .railsGood => Sys2Proof.Machine.execRailsGood s
  | .throttleLevelStep => Sys2Proof.Machine.execThrottleLevelStep s
  | .hostLinkChange port rate => Sys2Proof.Machine.execHostLinkChange port rate s

end Sys2Proof.Machine
end

