-- ==== Sys2Proof/Laws/State.lean ====
section
/-! SUPPORT. One lemma per field per named update of the state, and the reading back of sparse maps,
so that later proofs unfold no record update. -/

namespace Sys2Proof.Machine

/-! ### Sparse maps -/

section
variable {α : Type} [DecidableEq α] {d : α}

/-- In a canonical map every later key is above the first. -/
theorem SMap.wf_cons {e : Nat × α} {r : SMap α} (h : SMap.wf d (e :: r) = true) :
    e.2 ≠ d ∧ (∀ x ∈ r, e.1 < x.1) ∧ SMap.wf d r = true := by
  induction r generalizing e with
  | nil => simp_all [SMap.wf]
  | cons f t ih =>
    simp only [SMap.wf, Bool.and_eq_true, bne_iff_ne, decide_eq_true_eq] at h
    obtain ⟨⟨h1, h2⟩, h3⟩ := h
    obtain ⟨_, h5, _⟩ := ih h3
    refine ⟨h1, ?_, h3⟩
    intro x hx
    rcases List.mem_cons.1 hx with rfl | hx
    · exact h2
    · exact Nat.lt_trans h2 (h5 x hx)

theorem SMap.wf_cons_iff {e : Nat × α} {r : SMap α} :
    SMap.wf d (e :: r) = true ↔ e.2 ≠ d ∧ (∀ x ∈ r, e.1 < x.1) ∧ SMap.wf d r = true := by
  refine ⟨SMap.wf_cons, ?_⟩
  rintro ⟨h1, h2, h3⟩
  cases r with
  | nil => simpa [SMap.wf] using h1
  | cons f t => simp [SMap.wf, h1, h2 f (by simp), h3]

omit [DecidableEq α] in
theorem SMap.get_put (m : SMap α) (k j : Nat) (v : α) :
    SMap.get d (SMap.put m k v) j = if j = k then v else SMap.get d m j := by
  induction m with
  | nil => simp [SMap.put, SMap.get]
  | cons e r ih =>
    obtain ⟨k', v'⟩ := e
    simp only [SMap.put]
    split
    · rw [SMap.get]
    · split
      · rename_i hk
        subst hk
        rw [SMap.get, SMap.get]
        split <;> rfl
      · rename_i hne
        rw [SMap.get, SMap.get, ih]
        split
        · rename_i hj; rw [if_neg (by omega)]
        · rfl

omit [DecidableEq α] in
theorem SMap.get_filter_ne (m : SMap α) (k j : Nat) :
    SMap.get d (m.filter fun e => e.1 != k : SMap α) j = if j = k then d else SMap.get d m j := by
  induction m with
  | nil => simp [SMap.get]
  | cons e r ih =>
    obtain ⟨k', v'⟩ := e
    by_cases hk : k' = k
    · subst hk
      simp only [bne_self_eq_false, Bool.false_eq_true, not_false_eq_true, List.filter_cons_of_neg]
      rw [ih, SMap.get]
      split <;> simp_all
    · rw [List.filter_cons_of_pos (by simpa using hk), SMap.get, SMap.get, ih]
      split
      · rename_i hj; rw [if_neg (by omega)]
      · rfl

/-- What a map reads after a write. -/
theorem SMap.get_set (m : SMap α) (k j : Nat) (v : α) :
    SMap.get d (SMap.set d m k v) j = if j = k then v else SMap.get d m j := by
  unfold SMap.set
  split
  · rename_i hv; rw [hv, SMap.get_filter_ne]
  · rw [SMap.get_put]

theorem SMap.get_upd (m : SMap α) (k j : Nat) (f : α → α) :
    SMap.get d (SMap.upd d m k f) j = if j = k then f (SMap.get d m k) else SMap.get d m j :=
  SMap.get_set m k j _

omit [DecidableEq α] in
/-- The entries after a write are the old ones and the one written. -/
theorem SMap.mem_put {m : SMap α} {k : Nat} {v : α} {x : Nat × α} (h : x ∈ SMap.put m k v) :
    x ∈ m ∨ x = (k, v) := by
  induction m with
  | nil => simp_all [SMap.put]
  | cons e r ih =>
    obtain ⟨k', v'⟩ := e
    simp only [SMap.put] at h
    split at h
    · rcases List.mem_cons.1 h with h | h
      · exact .inr h
      · exact .inl h
    · split at h
      · rcases List.mem_cons.1 h with h | h
        · exact .inr h
        · exact .inl (by simp [h])
      · rcases List.mem_cons.1 h with h | h
        · exact .inl (by simp [h])
        · rcases ih h with h | h
          · exact .inl (by simp [h])
          · exact .inr h

theorem SMap.wf_iff {m : SMap α} :
    SMap.wf d m = true ↔ m.Pairwise (fun x y => x.1 < y.1) ∧ ∀ x ∈ m, x.2 ≠ d := by
  induction m with
  | nil => simp [SMap.wf]
  | cons e r ih =>
    rw [SMap.wf_cons_iff, ih, List.pairwise_cons]
    constructor
    · rintro ⟨h1, h2, h3, h4⟩
      refine ⟨⟨h2, h3⟩, fun x hx => ?_⟩
      rcases List.mem_cons.1 hx with rfl | hx
      · exact h1
      · exact h4 x hx
    · rintro ⟨⟨h2, h3⟩, h4⟩
      exact ⟨h4 e (by simp), h2, h3, fun x hx => h4 x (by simp [hx])⟩

theorem SMap.wf_filter {m : SMap α} (h : SMap.wf d m = true) (p : Nat × α → Bool) :
    SMap.wf d (List.filter p m : SMap α) = true := by
  rw [SMap.wf_iff] at *
  exact ⟨h.1.filter p, fun x hx => h.2 x (List.mem_of_mem_filter hx)⟩

theorem SMap.wf_put {m : SMap α} (h : SMap.wf d m = true) (k : Nat) {v : α} (hv : v ≠ d) :
    SMap.wf d (SMap.put m k v) = true := by
  induction m with
  | nil => simpa [SMap.put, SMap.wf] using hv
  | cons e r ih =>
    obtain ⟨k', v'⟩ := e
    obtain ⟨h1, h2, h3⟩ := SMap.wf_cons h
    simp only [SMap.put]
    split
    · rename_i hlt
      refine SMap.wf_cons_iff.2 ⟨hv, ?_, h⟩
      intro x hx
      rcases List.mem_cons.1 hx with rfl | hx
      · exact hlt
      · exact Nat.lt_trans hlt (h2 x hx)
    · split
      · rename_i hk
        exact SMap.wf_cons_iff.2 ⟨hv, fun x hx => hk ▸ h2 x hx, h3⟩
      · rename_i hlt hne
        refine SMap.wf_cons_iff.2 ⟨h1, ?_, ih h3⟩
        intro x hx
        rcases SMap.mem_put hx with hx | hx
        · exact h2 x hx
        · subst hx; simp only; omega

/-- A write keeps the canonical form. -/
theorem SMap.wf_set {m : SMap α} (h : SMap.wf d m = true) (k : Nat) (v : α) :
    SMap.wf d (SMap.set d m k v) = true := by
  unfold SMap.set
  split
  · exact SMap.wf_filter h _
  · rename_i hv; exact SMap.wf_put h k hv

theorem SMap.wf_upd {m : SMap α} (h : SMap.wf d m = true) (k : Nat) (f : α → α) :
    SMap.wf d (SMap.upd d m k f) = true := SMap.wf_set h k _

end

/-! ### Named updates of the state -/

@[simp] theorem State.updCore_pending (s : State) (p : Nat) (f : Core → Core) : (s.updCore p f).pending = s.pending := rfl
@[simp] theorem State.updCore_freeCtr (s : State) (p : Nat) (f : Core → Core) : (s.updCore p f).freeCtr = s.freeCtr := rfl
@[simp] theorem State.updCore_now (s : State) (p : Nat) (f : Core → Core) : (s.updCore p f).now = s.now := rfl
@[simp] theorem State.updCore_sent (s : State) (p : Nat) (f : Core → Core) : (s.updCore p f).sent = s.sent := rfl
@[simp] theorem State.updCore_bank (s : State) (p : Nat) (f : Core → Core) : (s.updCore p f).bank = s.bank := rfl
@[simp] theorem State.updCore_ctxs (s : State) (p : Nat) (f : Core → Core) : (s.updCore p f).ctxs = s.ctxs := rfl
@[simp] theorem State.updCore_mem (s : State) (p : Nat) (f : Core → Core) : (s.updCore p f).mem = s.mem := rfl
@[simp] theorem State.updCore_fab (s : State) (p : Nat) (f : Core → Core) : (s.updCore p f).fab = s.fab := rfl
@[simp] theorem State.updCore_twin (s : State) (p : Nat) (f : Core → Core) : (s.updCore p f).twin = s.twin := rfl
@[simp] theorem State.updCore_hub (s : State) (p : Nat) (f : Core → Core) : (s.updCore p f).hub = s.hub := rfl
@[simp] theorem State.updCore_aon (s : State) (p : Nat) (f : Core → Core) : (s.updCore p f).aon = s.aon := rfl
@[simp] theorem State.updCore_vault (s : State) (p : Nat) (f : Core → Core) : (s.updCore p f).vault = s.vault := rfl
@[simp] theorem State.updCore_part (s : State) (p : Nat) (f : Core → Core) : (s.updCore p f).part = s.part := rfl
@[simp] theorem State.updCore_flash (s : State) (p : Nat) (f : Core → Core) : (s.updCore p f).flash = s.flash := rfl
@[simp] theorem State.updCore_lib (s : State) (p : Nat) (f : Core → Core) : (s.updCore p f).lib = s.lib := rfl
@[simp] theorem State.updCore_pwr (s : State) (p : Nat) (f : Core → Core) : (s.updCore p f).pwr = s.pwr := rfl
@[simp] theorem State.updCore_tap (s : State) (p : Nat) (f : Core → Core) : (s.updCore p f).tap = s.tap := rfl

@[simp] theorem State.updCtx_pending (s : State) (c : Nat) (f : Ctx → Ctx) : (s.updCtx c f).pending = s.pending := rfl
@[simp] theorem State.updCtx_freeCtr (s : State) (c : Nat) (f : Ctx → Ctx) : (s.updCtx c f).freeCtr = s.freeCtr := rfl
@[simp] theorem State.updCtx_now (s : State) (c : Nat) (f : Ctx → Ctx) : (s.updCtx c f).now = s.now := rfl
@[simp] theorem State.updCtx_sent (s : State) (c : Nat) (f : Ctx → Ctx) : (s.updCtx c f).sent = s.sent := rfl
@[simp] theorem State.updCtx_bank (s : State) (c : Nat) (f : Ctx → Ctx) : (s.updCtx c f).bank = s.bank := rfl
@[simp] theorem State.updCtx_cores (s : State) (c : Nat) (f : Ctx → Ctx) : (s.updCtx c f).cores = s.cores := rfl
@[simp] theorem State.updCtx_mem (s : State) (c : Nat) (f : Ctx → Ctx) : (s.updCtx c f).mem = s.mem := rfl
@[simp] theorem State.updCtx_fab (s : State) (c : Nat) (f : Ctx → Ctx) : (s.updCtx c f).fab = s.fab := rfl
@[simp] theorem State.updCtx_twin (s : State) (c : Nat) (f : Ctx → Ctx) : (s.updCtx c f).twin = s.twin := rfl
@[simp] theorem State.updCtx_hub (s : State) (c : Nat) (f : Ctx → Ctx) : (s.updCtx c f).hub = s.hub := rfl
@[simp] theorem State.updCtx_aon (s : State) (c : Nat) (f : Ctx → Ctx) : (s.updCtx c f).aon = s.aon := rfl
@[simp] theorem State.updCtx_vault (s : State) (c : Nat) (f : Ctx → Ctx) : (s.updCtx c f).vault = s.vault := rfl
@[simp] theorem State.updCtx_part (s : State) (c : Nat) (f : Ctx → Ctx) : (s.updCtx c f).part = s.part := rfl
@[simp] theorem State.updCtx_flash (s : State) (c : Nat) (f : Ctx → Ctx) : (s.updCtx c f).flash = s.flash := rfl
@[simp] theorem State.updCtx_lib (s : State) (c : Nat) (f : Ctx → Ctx) : (s.updCtx c f).lib = s.lib := rfl
@[simp] theorem State.updCtx_pwr (s : State) (c : Nat) (f : Ctx → Ctx) : (s.updCtx c f).pwr = s.pwr := rfl
@[simp] theorem State.updCtx_tap (s : State) (c : Nat) (f : Ctx → Ctx) : (s.updCtx c f).tap = s.tap := rfl

@[simp] theorem State.emit_pending (s : State) (e : Emission) : (s.emit e).pending = s.pending := rfl
@[simp] theorem State.emit_freeCtr (s : State) (e : Emission) : (s.emit e).freeCtr = s.freeCtr := rfl
@[simp] theorem State.emit_now (s : State) (e : Emission) : (s.emit e).now = s.now := rfl
@[simp] theorem State.emit_bank (s : State) (e : Emission) : (s.emit e).bank = s.bank := rfl
@[simp] theorem State.emit_cores (s : State) (e : Emission) : (s.emit e).cores = s.cores := rfl
@[simp] theorem State.emit_ctxs (s : State) (e : Emission) : (s.emit e).ctxs = s.ctxs := rfl
@[simp] theorem State.emit_mem (s : State) (e : Emission) : (s.emit e).mem = s.mem := rfl
@[simp] theorem State.emit_fab (s : State) (e : Emission) : (s.emit e).fab = s.fab := rfl
@[simp] theorem State.emit_twin (s : State) (e : Emission) : (s.emit e).twin = s.twin := rfl
@[simp] theorem State.emit_hub (s : State) (e : Emission) : (s.emit e).hub = s.hub := rfl
@[simp] theorem State.emit_aon (s : State) (e : Emission) : (s.emit e).aon = s.aon := rfl
@[simp] theorem State.emit_vault (s : State) (e : Emission) : (s.emit e).vault = s.vault := rfl
@[simp] theorem State.emit_part (s : State) (e : Emission) : (s.emit e).part = s.part := rfl
@[simp] theorem State.emit_flash (s : State) (e : Emission) : (s.emit e).flash = s.flash := rfl
@[simp] theorem State.emit_lib (s : State) (e : Emission) : (s.emit e).lib = s.lib := rfl
@[simp] theorem State.emit_pwr (s : State) (e : Emission) : (s.emit e).pwr = s.pwr := rfl
@[simp] theorem State.emit_tap (s : State) (e : Emission) : (s.emit e).tap = s.tap := rfl

@[simp] theorem State.takeFree_pending (s : State) : (s.takeFree).pending = s.pending := rfl
@[simp] theorem State.takeFree_now (s : State) : (s.takeFree).now = s.now := rfl
@[simp] theorem State.takeFree_sent (s : State) : (s.takeFree).sent = s.sent := rfl
@[simp] theorem State.takeFree_bank (s : State) : (s.takeFree).bank = s.bank := rfl
@[simp] theorem State.takeFree_cores (s : State) : (s.takeFree).cores = s.cores := rfl
@[simp] theorem State.takeFree_ctxs (s : State) : (s.takeFree).ctxs = s.ctxs := rfl
@[simp] theorem State.takeFree_mem (s : State) : (s.takeFree).mem = s.mem := rfl
@[simp] theorem State.takeFree_fab (s : State) : (s.takeFree).fab = s.fab := rfl
@[simp] theorem State.takeFree_twin (s : State) : (s.takeFree).twin = s.twin := rfl
@[simp] theorem State.takeFree_hub (s : State) : (s.takeFree).hub = s.hub := rfl
@[simp] theorem State.takeFree_aon (s : State) : (s.takeFree).aon = s.aon := rfl
@[simp] theorem State.takeFree_vault (s : State) : (s.takeFree).vault = s.vault := rfl
@[simp] theorem State.takeFree_part (s : State) : (s.takeFree).part = s.part := rfl
@[simp] theorem State.takeFree_flash (s : State) : (s.takeFree).flash = s.flash := rfl
@[simp] theorem State.takeFree_lib (s : State) : (s.takeFree).lib = s.lib := rfl
@[simp] theorem State.takeFree_pwr (s : State) : (s.takeFree).pwr = s.pwr := rfl
@[simp] theorem State.takeFree_tap (s : State) : (s.takeFree).tap = s.tap := rfl

@[simp] theorem State.updStrand_pending (s : State) (t : StrandId) (f : Strand → Strand) : (s.updStrand t f).pending = s.pending := by
  unfold State.updStrand; split <;> rfl
@[simp] theorem State.updStrand_freeCtr (s : State) (t : StrandId) (f : Strand → Strand) : (s.updStrand t f).freeCtr = s.freeCtr := by
  unfold State.updStrand; split <;> rfl
@[simp] theorem State.updStrand_now (s : State) (t : StrandId) (f : Strand → Strand) : (s.updStrand t f).now = s.now := by
  unfold State.updStrand; split <;> rfl
@[simp] theorem State.updStrand_sent (s : State) (t : StrandId) (f : Strand → Strand) : (s.updStrand t f).sent = s.sent := by
  unfold State.updStrand; split <;> rfl
@[simp] theorem State.updStrand_bank (s : State) (t : StrandId) (f : Strand → Strand) : (s.updStrand t f).bank = s.bank := by
  unfold State.updStrand; split <;> rfl
@[simp] theorem State.updStrand_ctxs (s : State) (t : StrandId) (f : Strand → Strand) : (s.updStrand t f).ctxs = s.ctxs := by
  unfold State.updStrand; split <;> rfl
@[simp] theorem State.updStrand_mem (s : State) (t : StrandId) (f : Strand → Strand) : (s.updStrand t f).mem = s.mem := by
  unfold State.updStrand; split <;> rfl
@[simp] theorem State.updStrand_fab (s : State) (t : StrandId) (f : Strand → Strand) : (s.updStrand t f).fab = s.fab := by
  unfold State.updStrand; split <;> rfl
@[simp] theorem State.updStrand_twin (s : State) (t : StrandId) (f : Strand → Strand) : (s.updStrand t f).twin = s.twin := by
  unfold State.updStrand; split <;> rfl
@[simp] theorem State.updStrand_hub (s : State) (t : StrandId) (f : Strand → Strand) : (s.updStrand t f).hub = s.hub := by
  unfold State.updStrand; split <;> rfl
@[simp] theorem State.updStrand_aon (s : State) (t : StrandId) (f : Strand → Strand) : (s.updStrand t f).aon = s.aon := by
  unfold State.updStrand; split <;> rfl
@[simp] theorem State.updStrand_vault (s : State) (t : StrandId) (f : Strand → Strand) : (s.updStrand t f).vault = s.vault := by
  unfold State.updStrand; split <;> rfl
@[simp] theorem State.updStrand_part (s : State) (t : StrandId) (f : Strand → Strand) : (s.updStrand t f).part = s.part := by
  unfold State.updStrand; split <;> rfl
@[simp] theorem State.updStrand_flash (s : State) (t : StrandId) (f : Strand → Strand) : (s.updStrand t f).flash = s.flash := by
  unfold State.updStrand; split <;> rfl
@[simp] theorem State.updStrand_lib (s : State) (t : StrandId) (f : Strand → Strand) : (s.updStrand t f).lib = s.lib := by
  unfold State.updStrand; split <;> rfl
@[simp] theorem State.updStrand_pwr (s : State) (t : StrandId) (f : Strand → Strand) : (s.updStrand t f).pwr = s.pwr := by
  unfold State.updStrand; split <;> rfl
@[simp] theorem State.updStrand_tap (s : State) (t : StrandId) (f : Strand → Strand) : (s.updStrand t f).tap = s.tap := by
  unfold State.updStrand; split <;> rfl

@[simp] theorem State.updStream_pending (s : State) (i : StreamId) (f : Stream → Stream) : (s.updStream i f).pending = s.pending := State.updStrand_pending _ _ _
@[simp] theorem State.updStream_freeCtr (s : State) (i : StreamId) (f : Stream → Stream) : (s.updStream i f).freeCtr = s.freeCtr := State.updStrand_freeCtr _ _ _
@[simp] theorem State.updStream_now (s : State) (i : StreamId) (f : Stream → Stream) : (s.updStream i f).now = s.now := State.updStrand_now _ _ _
@[simp] theorem State.updStream_sent (s : State) (i : StreamId) (f : Stream → Stream) : (s.updStream i f).sent = s.sent := State.updStrand_sent _ _ _
@[simp] theorem State.updStream_bank (s : State) (i : StreamId) (f : Stream → Stream) : (s.updStream i f).bank = s.bank := State.updStrand_bank _ _ _
@[simp] theorem State.updStream_ctxs (s : State) (i : StreamId) (f : Stream → Stream) : (s.updStream i f).ctxs = s.ctxs := State.updStrand_ctxs _ _ _
@[simp] theorem State.updStream_mem (s : State) (i : StreamId) (f : Stream → Stream) : (s.updStream i f).mem = s.mem := State.updStrand_mem _ _ _
@[simp] theorem State.updStream_fab (s : State) (i : StreamId) (f : Stream → Stream) : (s.updStream i f).fab = s.fab := State.updStrand_fab _ _ _
@[simp] theorem State.updStream_twin (s : State) (i : StreamId) (f : Stream → Stream) : (s.updStream i f).twin = s.twin := State.updStrand_twin _ _ _
@[simp] theorem State.updStream_hub (s : State) (i : StreamId) (f : Stream → Stream) : (s.updStream i f).hub = s.hub := State.updStrand_hub _ _ _
@[simp] theorem State.updStream_aon (s : State) (i : StreamId) (f : Stream → Stream) : (s.updStream i f).aon = s.aon := State.updStrand_aon _ _ _
@[simp] theorem State.updStream_vault (s : State) (i : StreamId) (f : Stream → Stream) : (s.updStream i f).vault = s.vault := State.updStrand_vault _ _ _
@[simp] theorem State.updStream_part (s : State) (i : StreamId) (f : Stream → Stream) : (s.updStream i f).part = s.part := State.updStrand_part _ _ _
@[simp] theorem State.updStream_flash (s : State) (i : StreamId) (f : Stream → Stream) : (s.updStream i f).flash = s.flash := State.updStrand_flash _ _ _
@[simp] theorem State.updStream_lib (s : State) (i : StreamId) (f : Stream → Stream) : (s.updStream i f).lib = s.lib := State.updStrand_lib _ _ _
@[simp] theorem State.updStream_pwr (s : State) (i : StreamId) (f : Stream → Stream) : (s.updStream i f).pwr = s.pwr := State.updStrand_pwr _ _ _
@[simp] theorem State.updStream_tap (s : State) (i : StreamId) (f : Stream → Stream) : (s.updStream i f).tap = s.tap := State.updStrand_tap _ _ _

@[simp] theorem State.setMem_pending (s : State) (pl : Place) (m : Memory) : (s.setMem pl m).pending = s.pending := by
  cases pl <;> rfl
@[simp] theorem State.setMem_freeCtr (s : State) (pl : Place) (m : Memory) : (s.setMem pl m).freeCtr = s.freeCtr := by
  cases pl <;> rfl
@[simp] theorem State.setMem_now (s : State) (pl : Place) (m : Memory) : (s.setMem pl m).now = s.now := by
  cases pl <;> rfl
@[simp] theorem State.setMem_sent (s : State) (pl : Place) (m : Memory) : (s.setMem pl m).sent = s.sent := by
  cases pl <;> rfl
@[simp] theorem State.setMem_bank (s : State) (pl : Place) (m : Memory) : (s.setMem pl m).bank = s.bank := by
  cases pl <;> rfl
@[simp] theorem State.setMem_ctxs (s : State) (pl : Place) (m : Memory) : (s.setMem pl m).ctxs = s.ctxs := by
  cases pl <;> rfl
@[simp] theorem State.setMem_fab (s : State) (pl : Place) (m : Memory) : (s.setMem pl m).fab = s.fab := by
  cases pl <;> rfl
@[simp] theorem State.setMem_hub (s : State) (pl : Place) (m : Memory) : (s.setMem pl m).hub = s.hub := by
  cases pl <;> rfl
@[simp] theorem State.setMem_aon (s : State) (pl : Place) (m : Memory) : (s.setMem pl m).aon = s.aon := by
  cases pl <;> rfl
@[simp] theorem State.setMem_vault (s : State) (pl : Place) (m : Memory) : (s.setMem pl m).vault = s.vault := by
  cases pl <;> rfl
@[simp] theorem State.setMem_part (s : State) (pl : Place) (m : Memory) : (s.setMem pl m).part = s.part := by
  cases pl <;> rfl
@[simp] theorem State.setMem_flash (s : State) (pl : Place) (m : Memory) : (s.setMem pl m).flash = s.flash := by
  cases pl <;> rfl
@[simp] theorem State.setMem_lib (s : State) (pl : Place) (m : Memory) : (s.setMem pl m).lib = s.lib := by
  cases pl <;> rfl
@[simp] theorem State.setMem_pwr (s : State) (pl : Place) (m : Memory) : (s.setMem pl m).pwr = s.pwr := by
  cases pl <;> rfl
@[simp] theorem State.setMem_tap (s : State) (pl : Place) (m : Memory) : (s.setMem pl m).tap = s.tap := by
  cases pl <;> rfl

@[simp] theorem State.setPoison_pending (s : State) (pl : Place) (q : Poison) : (s.setPoison pl q).pending = s.pending := by
  cases pl <;> rfl
@[simp] theorem State.setPoison_freeCtr (s : State) (pl : Place) (q : Poison) : (s.setPoison pl q).freeCtr = s.freeCtr := by
  cases pl <;> rfl
@[simp] theorem State.setPoison_now (s : State) (pl : Place) (q : Poison) : (s.setPoison pl q).now = s.now := by
  cases pl <;> rfl
@[simp] theorem State.setPoison_sent (s : State) (pl : Place) (q : Poison) : (s.setPoison pl q).sent = s.sent := by
  cases pl <;> rfl
@[simp] theorem State.setPoison_bank (s : State) (pl : Place) (q : Poison) : (s.setPoison pl q).bank = s.bank := by
  cases pl <;> rfl
@[simp] theorem State.setPoison_ctxs (s : State) (pl : Place) (q : Poison) : (s.setPoison pl q).ctxs = s.ctxs := by
  cases pl <;> rfl
@[simp] theorem State.setPoison_fab (s : State) (pl : Place) (q : Poison) : (s.setPoison pl q).fab = s.fab := by
  cases pl <;> rfl
@[simp] theorem State.setPoison_hub (s : State) (pl : Place) (q : Poison) : (s.setPoison pl q).hub = s.hub := by
  cases pl <;> rfl
@[simp] theorem State.setPoison_aon (s : State) (pl : Place) (q : Poison) : (s.setPoison pl q).aon = s.aon := by
  cases pl <;> rfl
@[simp] theorem State.setPoison_vault (s : State) (pl : Place) (q : Poison) : (s.setPoison pl q).vault = s.vault := by
  cases pl <;> rfl
@[simp] theorem State.setPoison_part (s : State) (pl : Place) (q : Poison) : (s.setPoison pl q).part = s.part := by
  cases pl <;> rfl
@[simp] theorem State.setPoison_flash (s : State) (pl : Place) (q : Poison) : (s.setPoison pl q).flash = s.flash := by
  cases pl <;> rfl
@[simp] theorem State.setPoison_lib (s : State) (pl : Place) (q : Poison) : (s.setPoison pl q).lib = s.lib := by
  cases pl <;> rfl
@[simp] theorem State.setPoison_pwr (s : State) (pl : Place) (q : Poison) : (s.setPoison pl q).pwr = s.pwr := by
  cases pl <;> rfl
@[simp] theorem State.setPoison_tap (s : State) (pl : Place) (q : Poison) : (s.setPoison pl q).tap = s.tap := by
  cases pl <;> rfl

/-! ### Reading back what was updated -/

theorem State.core_updCore (s : State) (p q : Nat) (f : Core → Core) :
    (s.updCore p f).core q = if q = p then f (s.core p) else s.core q := SMap.get_upd _ p q f

@[simp] theorem State.core_updCore_same (s : State) (p : Nat) (f : Core → Core) :
    (s.updCore p f).core p = f (s.core p) := by rw [State.core_updCore, if_pos rfl]

theorem State.ctx_updCtx (s : State) (c d : Nat) (f : Ctx → Ctx) :
    (s.updCtx c f).ctx d = if d = c then f (s.ctx c) else s.ctx d := SMap.get_upd _ c d f

@[simp] theorem State.ctx_updCtx_same (s : State) (c : Nat) (f : Ctx → Ctx) :
    (s.updCtx c f).ctx c = f (s.ctx c) := by rw [State.ctx_updCtx, if_pos rfl]

theorem Core.strand_updStrand (k : Core) (t u : Nat) (f : Strand → Strand) :
    (k.updStrand t f).strand u = if u = t then f (k.strand t) else k.strand u := SMap.get_upd _ t u f

theorem State.wf_updCore {s : State} (h : SMap.wf {} s.cores = true) (p : Nat) (f : Core → Core) :
    SMap.wf {} (s.updCore p f).cores = true := SMap.wf_upd h p f

theorem State.wf_updCtx {s : State} (h : SMap.wf {} s.ctxs = true) (c : Nat) (f : Ctx → Ctx) :
    SMap.wf {} (s.updCtx c f).ctxs = true := SMap.wf_upd h c f

@[simp] theorem State.ctx_updCore (s : State) (p c : Nat) (f : Core → Core) :
    (s.updCore p f).ctx c = s.ctx c := rfl

@[simp] theorem State.core_updCtx (s : State) (c p : Nat) (f : Ctx → Ctx) :
    (s.updCtx c f).core p = s.core p := rfl

@[simp] theorem State.pcore_updCore (s : State) (p c v : Nat) (f : Core → Core) :
    (s.updCore p f).pcore c v = s.pcore c v := rfl

@[simp] theorem State.ctx_updStream (s : State) (i : StreamId) (f : Stream → Stream) (c : Nat) :
    (s.updStream i f).ctx c = s.ctx c := by
  simp [State.ctx]

@[simp] theorem State.pcore_updStream (s : State) (i : StreamId) (f : Stream → Stream) (c v : Nat) :
    (s.updStream i f).pcore c v = s.pcore c v := by
  simp [State.pcore]

@[simp] theorem Strand.stream_updStream (t : Strand) (e e' : Eng) (f : Stream → Stream) :
    (t.updStream e f).stream e' = if e' = e then f (t.stream e) else t.stream e' := by
  cases e <;> cases e' <;> rfl

/-- A stream of a mapped virtual core reads back what an update made of it. -/
theorem State.stream_updStream {s : State} {i : StreamId} {p : Nat} (h : s.pcore i.ctx i.vc = some p)
    (f : Stream → Stream) : (s.updStream i f).stream i = f (s.stream i) := by
  unfold State.updStream State.stream State.updStrand State.strand
  simp only [StreamId.strandId, h, State.pcore_updCore, State.core_updCore_same, Core.strand_updStrand,
    if_true, Strand.stream_updStream]

theorem State.each_nil {α : Type} (s : State) (f : State → α → State) : s.each [] f = s := rfl

theorem State.each_cons {α : Type} (s : State) (a : α) (l : List α) (f : State → α → State) :
    s.each (a :: l) f = (f s a).each l f := rfl

/-- A property that every change keeps is kept by changes applied one after another. -/
theorem State.each_keeps {α : Type} {P : State → Prop} {f : State → α → State}
    (h : ∀ s a, P s → P (f s a)) (s : State) (l : List α) (hs : P s) : P (s.each l f) := by
  induction l generalizing s with
  | nil => exact hs
  | cons a l ih => exact ih (f s a) (h s a hs)

theorem State.when_keeps {P : State → Prop} {f : State → State} (h : ∀ s, P s → P (f s)) (s : State)
    (b : Bool) (hs : P s) : P (s.when b f) := by
  cases b
  · exact hs
  · exact h s hs

theorem State.with_keeps {α : Type} {P : State → Prop} {f : α → State} (s : State) (o : Option α)
    (h : ∀ a, P (f a)) (hs : P s) : P (s.with_ o f) := by
  cases o
  · exact hs
  · exact h _

end Sys2Proof.Machine
end

