-- ==== Sys2Proof/Laws/Memory.lean ====
section
/-! SUPPORT. The canonical form of memory and poison maps: every operation on them keeps it, and what a
read gives after a write. -/

namespace Sys2Proof.Machine

/-! ### Bytes -/

theorem Memory.wf_write {m : Memory} (h : Memory.wf m = true) (a : Nat) (b : Byte) :
    Memory.wf (Memory.write m a b) = true := SMap.wf_set h a b

theorem Memory.read_write (m : Memory) (a j : Nat) (b : Byte) :
    Memory.read (Memory.write m a b) j = if j = a then b else Memory.read m j := SMap.get_set m a j b

theorem Memory.read_write_of_ne (m : Memory) {a j : Nat} (b : Byte) (h : j ≠ a) :
    Memory.read (Memory.write m a b) j = Memory.read m j := by rw [Memory.read_write, if_neg h]

theorem Memory.wf_writeN {m : Memory} (h : Memory.wf m = true) (a : Nat) (l : List Byte) :
    Memory.wf (Memory.writeN m a l) = true := by
  induction l generalizing m a with
  | nil => exact h
  | cons b r ih => exact ih (Memory.wf_write h a b) (a + 1)

/-- A run of bytes written from `a` upward changes nothing outside it. -/
theorem Memory.read_writeN_of_not_mem (m : Memory) (a j : Nat) (l : List Byte)
    (hj : j < a ∨ a + l.length ≤ j) : Memory.read (Memory.writeN m a l) j = Memory.read m j := by
  induction l generalizing m a with
  | nil => rfl
  | cons b r ih =>
    simp only [List.length_cons] at hj
    rw [Memory.writeN, ih _ (a + 1) (by omega), Memory.read_write_of_ne _ _ (by omega)]

theorem Memory.wf_bytesAfter {m : Memory} (h : Memory.wf m = true) (ws : List W) :
    Memory.wf (bytesAfter m ws) = true := by
  unfold bytesAfter
  induction ws generalizing m with
  | nil => exact h
  | cons w r ih => exact ih (Memory.wf_write h _ _)

/-- A write changes no byte it does not name. -/
theorem Memory.read_bytesAfter_of_ne (m : Memory) (ws : List W) (a : Nat)
    (ha : ∀ w ∈ ws, w.addr ≠ a) : Memory.read (bytesAfter m ws) a = Memory.read m a := by
  unfold bytesAfter
  induction ws generalizing m with
  | nil => rfl
  | cons w r ih =>
    rw [List.foldl_cons, ih _ (fun x hx => ha x (by simp [hx])),
      Memory.read_write_of_ne _ _ (fun e => ha w (by simp) e.symm)]

/-! ### Clearing a range -/

theorem SMap.wf_clear {α : Type} [DecidableEq α] {d : α} {m : SMap α} (h : SMap.wf d m = true)
    (lo hi : Nat) : SMap.wf d (SMap.clear m lo hi) = true := SMap.wf_filter h _

theorem Memory.wf_clear {m : Memory} (h : Memory.wf m = true) (lo hi : Nat) :
    Memory.wf (SMap.clear m lo hi) = true := SMap.wf_clear h lo hi

/-! ### Poison -/

theorem SMap.wf_foldl {α β : Type} [DecidableEq α] {d : α} {f : SMap α → β → SMap α}
    (hf : ∀ m b, SMap.wf d m = true → SMap.wf d (f m b) = true) (l : List β) {m : SMap α}
    (h : SMap.wf d m = true) : SMap.wf d (l.foldl f m) = true := by
  induction l generalizing m with
  | nil => exact h
  | cons b r ih => exact ih (hf m b h)

theorem poisonAfter_wf {q : Poison} (h : SMap.wf false q = true) (ws : List W) :
    SMap.wf false (poisonAfter q ws) = true := by
  unfold poisonAfter
  refine SMap.wf_foldl ?_ _ h
  intro m g hm
  dsimp only
  split
  · exact SMap.wf_set hm _ _
  · split
    · exact SMap.wf_set hm _ _
    · exact hm

/-! ### Stores -/

/-- The stores outside the cores and the twin's region are canonical. -/
structure Mem.Canonical (m : Mem) : Prop where
  hbm : Memory.wf m.hbm = true
  ddr : Memory.wf m.ddr = true
  stage : Memory.wf m.stage = true
  hbmPoison : SMap.wf false m.hbmPoison = true
  ddrPoison : SMap.wf false m.ddrPoison = true
  stagePoison : SMap.wf false m.stagePoison = true

theorem reset_mem_canonical : State.reset.mem.Canonical := by
  constructor <;> rfl

/-- One landed write leaves the bytes of its place canonical. -/
theorem State.memAt_land_wf {s : State} {pl : Place} {ws : List W}
    (h : Memory.wf (s.memAt pl) = true) : Memory.wf ((s.land pl ws).memAt pl) = true := by
  have hb := Memory.wf_bytesAfter h ws
  cases pl with
  | scratch p =>
    simp only [State.land, State.setMem, State.setPoison, State.memAt]
    simpa only [State.core_updCore_same, State.memAt] using hb
  | hbm => exact hb
  | ddr => exact hb
  | stage => exact hb
  | buddy => exact hb

/-- One landed write changes no byte of its place that it does not name. -/
theorem State.byteAt_land_of_ne {s : State} {pl : Place} {ws : List W}
    (a : Nat) (ha : ∀ w ∈ ws, w.addr ≠ a) :
    (s.land pl ws).byteAt pl a = s.byteAt pl a := by
  have hb := Memory.read_bytesAfter_of_ne (s.memAt pl) ws a ha
  cases pl with
  | scratch p =>
    simp only [State.land, State.setMem, State.setPoison, State.byteAt, State.memAt]
    simpa only [State.core_updCore_same, State.memAt] using hb
  | hbm => exact hb
  | ddr => exact hb
  | stage => exact hb
  | buddy => exact hb

end Sys2Proof.Machine
end

