-- ==== Sys2Proof/Laws/Streams.lean ====
section
/-! SUPPORT. What the shared operations on streams and commands can do, said once: reaching an
instruction, issuing it, faulting it, and answering a request. -/

namespace Sys2Proof.Machine

/-- A stream that is past the boundary reaches nothing new. -/
theorem State.reach_of_phase {s : State} {i : StreamId} (h : (s.stream i).phase ≠ .boundary) :
    s.reach i = s := by
  unfold State.reach
  have : decide ((s.stream i).phase = .boundary) = false := decide_eq_false h
  simp [this]

theorem State.canIssue_phase {s : State} {i : StreamId} {o : Nat} (h : s.canIssue i o = true) :
    (s.stream i).phase = .released := by
  simp only [State.canIssue, State.atTurn, Bool.and_eq_true, decide_eq_true_eq] at h
  exact h.1.1.1.1.1.2

theorem State.reach_of_canIssue {s : State} {i : StreamId} {o : Nat} (h : s.canIssue i o = true) :
    s.reach i = s := State.reach_of_phase (by rw [State.canIssue_phase h]; exact fun e => nomatch e)

/-- An instruction that may issue issues. -/
theorem State.issue_of_canIssue {s : State} {i : StreamId} {o : Nat} (f : State → Latch → State)
    (h : s.canIssue i o = true) : s.issue i o f = f (s.granted i) (s.latch i) := by
  unfold State.issue; rw [State.reach_of_canIssue h]; simp [h]

theorem State.issueAfter_of_canIssue {s : State} {i : StreamId} {o : Nat} (f : State → Latch → State)
    (h : s.canIssue i o = true) (hx : (s.stream i).xfers = []) :
    s.issueAfter i o f = f (s.granted i) (s.latch i) := by
  unfold State.issueAfter; rw [State.reach_of_canIssue h]; simp [h, hx]

/-- An instruction that may not issue leaves its stream where it has reached. -/
theorem State.issue_of_not {s : State} {i : StreamId} {o : Nat} (f : State → Latch → State)
    (h : (s.reach i).canIssue i o = false) : s.issue i o f = s.reach i := by
  unfold State.issue; simp [h]

/-- No fault at issue: the instruction goes on. -/
theorem State.atIssue_nil (s : State) (i : StreamId) (l : Latch) (f : State → State) :
    s.atIssue i l [] f = f s := rfl

/-- No fault in execution: the instruction goes on. -/
theorem State.inExec_nil (s : State) (i : StreamId) (l : Latch) (g : List Nat) (f : State → State) :
    s.inExec i l g [] f = f s := rfl

theorem State.atIssue_of_best {s : State} {i : StreamId} {l : Latch} {flts : List Flt} {e : Flt}
    (f : State → State) (h : bestFault (orderFlts flts) = some e) :
    s.atIssue i l flts f = s.faultAt i l.word true e := by
  unfold State.atIssue; rw [h]

theorem State.inExec_of_best {s : State} {i : StreamId} {l : Latch} {g : List Nat} {flts : List Flt} {e : Flt}
    (f : State → State) (h : bestFault (orderFlts flts) = some e) :
    s.inExec i l g flts f = s.execFault i l g e := by
  unfold State.inExec; rw [h]

/-- A read finds nothing where no error is held. -/
@[simp] theorem State.readFinds_of_clean {s : State} (h : s.mem.latent = []) (pl : Place) (l : List Nat) :
    s.readFinds pl l = s := by
  unfold State.readFinds; simp [h]

@[simp] theorem State.writeFinds_of_clean {s : State} (h : s.mem.latent = []) (pl : Place) (ws : List W) :
    s.writeFinds pl ws = s := by
  unfold State.writeFinds; simp [h]

@[simp] theorem State.beforeWrite_scratch (s : State) (p o : Nat) : s.beforeWrite (.scratch p) o = s := by
  unfold State.beforeWrite State.pageOf
  cases s.holder (.scratch p) o <;> rfl

theorem State.each_id {α : Type} (s : State) (l : List α) {f : State → α → State} (h : ∀ a, f s a = s) :
    s.each l f = s := by
  induction l with
  | nil => rfl
  | cons a l ih => rw [State.each_cons, h, ih]

/-- A write to a scratchpad that holds no error lands and drops the holds it touches. -/
theorem State.store_scratch {s : State} (h : s.mem.latent = []) (p : Nat) (ws : List W) :
    s.store (.scratch p) ws = (s.land (.scratch p) ws).dropHolds (.scratch p) ws := by
  unfold State.store
  rw [State.each_id s _ (fun a => State.beforeWrite_scratch s p _)]
  simp only [State.writeFinds_of_clean h]

theorem State.when_true (s : State) (f : State → State) : s.when true f = f s := rfl

theorem State.when_false (s : State) (f : State → State) : s.when false f = s := rfl

/-- Granting an engine changes nothing but the core's place in the order. -/
theorem State.granted_fields (s : State) (i : StreamId) : s.granted i = { s with cores := (s.granted i).cores } := by
  unfold State.granted; split <;> rfl

theorem State.granted_eq {s : State} {i : StreamId} {p : Nat} (h : s.pcore i.ctx i.vc = some p) :
    s.granted i = s.updCore p fun k => k.granted i.eng i.st := by
  unfold State.granted; rw [h]

@[simp] theorem State.latch_word (s : State) (i : StreamId) : (s.latch i).word = (s.stream i).word := rfl

/-- Granting an engine changes only its place in the order. -/
@[simp] theorem Core.granted_strand (k : Core) (e : Eng) (st u : Nat) :
    (k.granted e st).strand u = k.strand u := by cases e <;> rfl

@[simp] theorem Core.granted_strands (k : Core) (e : Eng) (st : Nat) :
    (k.granted e st).strands = k.strands := by cases e <;> rfl

@[simp] theorem Core.granted_sp (k : Core) (e : Eng) (st : Nat) : (k.granted e st).sp = k.sp := by
  cases e <;> rfl

@[simp] theorem Core.granted_poison (k : Core) (e : Eng) (st : Nat) :
    (k.granted e st).poison = k.poison := by cases e <;> rfl

@[simp] theorem Core.granted_holds (k : Core) (e : Eng) (st : Nat) : (k.granted e st).holds = k.holds := by
  cases e <;> rfl

theorem State.updStrand_eq {s : State} {t : StrandId} {p : Nat} (h : s.pcore t.ctx t.vc = some p)
    (f : Strand → Strand) : s.updStrand t f = s.updCore p fun k => k.updStrand t.st f := by
  unfold State.updStrand; rw [h]

theorem State.updStream_eq {s : State} {i : StreamId} {p : Nat} (h : s.pcore i.ctx i.vc = some p)
    (f : Stream → Stream) :
    s.updStream i f = s.updCore p fun k => k.updStrand i.st fun t => t.updStream i.eng f := by
  unfold State.updStream; exact State.updStrand_eq (t := i.strandId) h _

theorem State.strand_eq {s : State} {t : StrandId} {p : Nat} (h : s.pcore t.ctx t.vc = some p) :
    s.strand t = (s.core p).strand t.st := by
  unfold State.strand; rw [h]

theorem State.stream_eq {s : State} {i : StreamId} {p : Nat} (h : s.pcore i.ctx i.vc = some p) :
    s.stream i = ((s.core p).strand i.st).stream i.eng := by
  unfold State.stream; rw [State.strand_eq (t := i.strandId) h]; rfl

/-- An instruction that may issue belongs to a core that runs. -/
theorem State.canIssue_pcore {s : State} {i : StreamId} {o : Nat} (h : s.canIssue i o = true) :
    ∃ p, s.pcore i.ctx i.vc = some p := by
  simp only [State.canIssue, State.atTurn, Bool.and_eq_true] at h
  have hc := h.1.1.2
  unfold State.coreRuns at hc
  split at hc
  · exact ⟨_, ‹_›⟩
  · exact absurd hc (by simp)

end Sys2Proof.Machine
end

