-- ==== Sys2Proof/Laws/Vector.lean ====
section
/-! SUPPORT. What a vector instruction can do, and what a write to the own scratchpad does, said once. -/

namespace Sys2Proof.Machine

/-- A write landed in a scratchpad, as two updates of its core. -/
theorem State.land_scratch (s : State) (p : Nat) (ws : List W) :
    s.land (.scratch p) ws = (s.updCore p fun k => { k with sp := bytesAfter (s.core p).sp ws }).updCore p
      fun k => { k with poison := poisonAfter (s.core p).poison ws } := by
  simp [State.land, State.setMem, State.setPoison, State.memAt, State.poisonAt]

/-- Nothing is lost where no owner wrote. -/
@[simp] theorem lostWords_nil (e : Option Eng) (ws : List W) : lostWords e ws [] = [] := rfl

@[simp] theorem keptWs_nil (e : Option Eng) (ws : List W) : keptWs e ws [] = ws := rfl

/-- A write of the own scratchpad of which no bit is lost, where no error is held. -/
theorem State.ownWrite_clean {s : State} {i : StreamId} {p : Nat} {l : Latch} {ws : List W}
    (f : State → State) (hp : s.pcore i.ctx i.vc = some p) (hc : s.mem.latent = []) :
    s.ownWrite i l ws [] f = f ((s.land (.scratch p) ws).dropHolds (.scratch p) ws) := by
  unfold State.ownWrite State.ownWriteOr
  simp [hp, State.store_scratch hc]

/-- A vector instruction that may issue, in a state that holds no error: its faults at issue, its faults in
execution, or its writes. -/
theorem State.vRun_clean {s : State} {t : StrandId} {o : Nat} {bank : BankEnv} {p : Nat}
    (issueFlts : State → Latch → List Flt) (srcs : State → Latch → Memory → List (Opd × List Coord))
    (execFlts : State → Latch → Memory → List Flt) (bad : Latch → Bool) (out : State → Latch → Memory → VOut)
    (h : s.canIssue (t.stream .v) o = true) (hp : s.pcore t.ctx t.vc = some p) (hc : s.mem.latent = []) :
    s.vRun t o bank issueFlts srcs execFlts bad out =
      (let i := t.stream .v
       let g := s.granted i
       let l := s.latch i
       let m := (s.core p).sp
       g.atIssue i l (issueFlts g l) fun _ =>
         g.inExec i l (wsGranules (out g l m).ws)
           ((srcs g l m).flatMap (fun x => x.1.poison (s.core p).poison t.vc x.2) ++ execFlts g l m)
           fun _ => g.vWrite t l bank (out g l m) (bad l)) := by
  have hp' : s.pcore (t.stream .v).ctx (t.stream .v).vc = some p := hp
  have hg : (s.granted (t.stream .v)).pcore t.ctx t.vc = some p := by
    rw [State.granted_eq hp']; simpa using hp
  have hm : (s.granted (t.stream .v)).mem.latent = [] := by rw [State.granted_eq hp']; exact hc
  have hs : ((s.granted (t.stream .v)).core p).sp = (s.core p).sp := by rw [State.granted_eq hp']; simp
  have hq : ((s.granted (t.stream .v)).core p).poison = (s.core p).poison := by
    rw [State.granted_eq hp']; simp
  unfold State.vRun
  simp only
  rw [State.issue_of_canIssue _ h]
  unfold State.atIssue State.inExec
  split
  · rfl
  · simp only [hg, State.readFinds_of_clean hm, hs, hq]

end Sys2Proof.Machine
end

