-- ==== Sys2Proof/Certificates/Slice0/Obligations.lean ====
section
/-! DEFINITION. The statements for the provers. Each says what a command, or the device, does by the rules
of spec/ that its entry in OBLIGATIONS.json cites. -/

open Sys2Proof Sys2Proof.Machine

namespace Sys2Proof.Statements

/-! ### Shared forms of statements -/

/-- Command `c` takes `s` to a next state with property `P`. -/
def goes (c : Instr) (s : State) (P : State → Prop) : Prop := ∃ t, exec c s = .next t ∧ P t

/-- Command `c` changes nothing. -/
def idles (c : Instr) (s : State) : Prop := exec c s = .next s

/-- Only physical core `p` differs. -/
def coreOnly (s t : State) (p : Nat) : Prop :=
  t = { s with cores := t.cores } ∧ ∀ q, q ≠ p → t.core q = s.core q

/-- Only context `c` differs. -/
def ctxOnly (s t : State) (c : Nat) : Prop :=
  t = { s with ctxs := t.ctxs } ∧ ∀ d, d ≠ c → t.ctx d = s.ctx d

/-- Stream `i` has issued, and nothing differs from `s` but its strand, which is `y`, and the order of its
engine. -/
def strandBecomes (s t : State) (i : StreamId) (y : Strand) : Prop :=
  ∃ p, s.pcore i.ctx i.vc = some p ∧ coreOnly s t p
    ∧ t.core p = { (s.core p).granted i.eng i.st with strands := (t.core p).strands }
    ∧ (∀ u, u ≠ i.st → (t.core p).strand u = (s.core p).strand u)
    ∧ (t.core p).strand i.st = y

/-- The strand of stream `i` once the stream's instruction has completed with effect `f` on the stream. -/
def completed (s : State) (i : StreamId) (f : Stream → Stream) : Strand :=
  (s.strand i.strandId).updStream i.eng fun x => { f x with latch := s.latch i, phase := .complete }

/-- Stream `i`'s instruction completes with effect `f` on the stream; nothing else changes. -/
def streamCompletes (c : Instr) (s : State) (i : StreamId) (f : Stream → Stream) : Prop :=
  goes c s fun t => strandBecomes s t i (completed s i f)

/-- No store holds an error that has not been found. -/
abbrev clean (s : State) : Prop := s.mem.latent = []

end Sys2Proof.Statements

open Sys2Proof.Statements

/-! ### Common instructions -/

/-- R39, R42, R153: NOP, SETE and SETLC complete as they issue: SETE writes one event register, SETLC one loop
count, NOP nothing; nothing else changes. -/
def Sys2Proof.Statements.immediatesComplete : Prop :=
  ∀ (s : State) (i : StreamId),
    (s.canIssue i 0x01 = true → (s.stream i).xfers = [] → streamCompletes (.nop i) s i id)
    ∧ (s.canIssue i 0x03 = true → streamCompletes (.sete i) s i fun x =>
        { x with e := SMap.set 0 x.e (bits (Word.imm (s.stream i).word) 32 4)
                   (BitVec.ofNat 32 (bits (Word.imm (s.stream i).word) 0 32)) })
    ∧ (s.canIssue i 0x04 = true → streamCompletes (.setlc i) s i fun x =>
        { x with lc := SMap.set 0 x.lc (bits (Word.imm (s.stream i).word) 32 2)
                   (BitVec.ofNat 32 (bits (Word.imm (s.stream i).word) 0 32)) })

/-- R30, R153: END, once every transfer of its stream has completed, puts the stream in Done; while another
stream of the strand is not Done nothing else changes, and the last one to be Done reports the strand with notice
STRAND_DONE on the context's channel to the session that started it, or, where that has none (log 124), as any notice
about the context. -/
def Sys2Proof.Statements.endCompletes : Prop :=
  ∀ (s : State) (i : StreamId),
    s.canIssue i 0x02 = true → (s.stream i).xfers = [] →
      let y := completed s i fun x => { x with state := .done }
      (y.allDone = false → goes (.end_ i) s fun t => strandBecomes s t i y)
      ∧ (y.allDone = true → ∃ u, strandBecomes s u i y
          ∧ exec (.end_ i) s = .next
              (let b := leBytes 2 i.vc ++ leBytes 1 i.st
               match y.startedBy.bind (u.findChan (16 + i.ctx)) with
               | some n => u.noticeOn n 0x20 0 0 0 b
               | none => u.noticeCtx i.ctx 0x20 0 0 0 b))

/-- R43, R45: LOOP with a nonzero count opens a level over the body that follows it; with count 0 the stream
stands at the body's last instruction, so that its signal passes the body. -/
def Sys2Proof.Statements.loopCompletes : Prop :=
  ∀ (s : State) (i : StreamId), s.canIssue i 0x06 = true →
    let m := Word.imm (s.stream i).word
    let n := SMap.get 0 (s.stream i).lc (bits m 32 2)
    let last := (s.stream i).pc + BitVec.ofNat 32 (bits m 0 13)
    (n = 0 → streamCompletes (.loop i) s i fun x => { x with pc := last })
    ∧ (n ≠ 0 → streamCompletes (.loop i) s i fun x => { x with loops := ⟨x.pc + 1, last, n, 0⟩ :: x.loops })

/-- R10, R47, R157, R167: one write of a descriptor register, as no other stream of the strand writes it in the same cycle,
leaves what the write makes of the register, and no other register; of two streams that write it in one cycle, the one
that comes first in the order M, V, X writes first, whichever command comes first. -/
def Sys2Proof.Statements.descriptorWrites : Prop :=
  ∀ (x : Strand) (now k : Nat), (∀ w ∈ x.dwr, w.cycle = now → w.k ≠ k % 32) →
    (∀ e o, (x.writeDesc e now k o).descs = SMap.set 0 x.descs (k % 32) (o.apply (SMap.get 0 x.descs (k % 32))))
    ∧ ∀ e e' o o', e.num < e'.num →
        SMap.get 0 ((x.writeDesc e now k o).writeDesc e' now k o').descs (k % 32)
            = o'.apply (o.apply (SMap.get 0 x.descs (k % 32)))
        ∧ SMap.get 0 ((x.writeDesc e' now k o').writeDesc e now k o).descs (k % 32)
            = o'.apply (o.apply (SMap.get 0 x.descs (k % 32)))

/-- R47, R157: DADV moves the base of descriptor D by OFS elements, or by OFS times a loop index (0 where the
level is not active), with one write of the register; D that is not valid or has a reserved format faults at issue. -/
def Sys2Proof.Statements.dadvCompletes : Prop :=
  ∀ (s : State) (i : StreamId), s.canIssue i 0x07 = true →
    let w := (s.stream i).word
    let m := Word.imm w
    let d := (s.latch i).desc (Word.d w)
    let idx : Int := match (s.stream i).loops[bits m 32 2]? with
      | some v => (v.index.toNat : Int)
      | none => 0
    let ofs := if bits m 34 1 = 1 then signed 32 (bits m 0 32) * idx else signed 32 (bits m 0 32)
    ((Desc.valid d && fmtOk (Desc.fmt d)) = true → goes (.dadv i) s fun t => strandBecomes s t i
      ((completed s i id).writeDesc i.eng s.now (Word.d w) (.add ofs)))
    ∧ ((Desc.valid d && fmtOk (Desc.fmt d)) = false →
        exec (.dadv i) s = .next ((s.granted i).faultAt i w true ⟨3, opD, allOnes⟩))

/-- R10, R30, R39, R42, R43, R45, R47, R157, R167: NOP, SETE, SETLC, END, LOOP and DADV each complete with the one effect
the rules give them. -/
def Obligations.CommonInstructions : Prop :=
  immediatesComplete ∧ endCompletes ∧ loopCompletes ∧ dadvCompletes ∧ descriptorWrites

/-- R42, R97, R156, R157: LDLC, LDSC and LDD complete where A reaches bytes of the own scratchpad that no poisoned granule
holds: they read them into a loop count, the SCALE of D, and the whole of D, with one write of the register. -/
def Sys2Proof.Statements.loadsComplete : Prop :=
  ∀ (s : State) (i : StreamId) (p : Nat),
    s.pcore i.ctx i.vc = some p → (s.stream i).xfers = [] → clean s →
    let w := (s.stream i).word
    let a := (s.latch i).desc (Word.a w)
    let read (n : Nat) : Nat := leNat (Memory.readN (s.core p).sp (ldAddr a n).toNat n)
    let good (n : Nat) : Prop := ldFlts a n = [] ∧ s.bad (.scratch p) (ldAddr a n).toNat = false
    (s.canIssue i 0x05 = true → good 4 → streamCompletes (.ldlc i) s i fun x =>
      { x with lc := SMap.set 0 x.lc (bits (Word.imm w) 32 2) (BitVec.ofNat 32 (read 4)) })
    ∧ (s.canIssue i 0x08 = true → good 1 → Desc.valid ((s.latch i).desc (Word.d w)) = true →
        goes (.ldsc i) s fun t => strandBecomes s t i
          ((completed s i id).writeDesc i.eng s.now (Word.d w) (.scale (read 1))))
    ∧ (s.canIssue i 0x09 = true → good 32 → goes (.ldd i) s fun t => strandBecomes s t i
          ((completed s i id).writeDesc i.eng s.now (Word.d w) (.load (BitVec.ofNat 256 (read 32)))))

/-- R61, R156, R201: LDLC, LDSC and LDD through an A that is not valid, has a reserved format, or reaches outside
the own scratchpad fault at issue; a poisoned granule is POISON_CONSUMED in execution. -/
def Sys2Proof.Statements.loadsFault : Prop :=
  ∀ (s : State) (i : StreamId) (p : Nat),
    s.pcore i.ctx i.vc = some p → (s.stream i).xfers = [] → clean s →
    let w := (s.stream i).word
    let a := (s.latch i).desc (Word.a w)
    let d0 : List Flt := if Desc.valid ((s.latch i).desc (Word.d w)) then [] else [⟨3, opD, allOnes⟩]
    ∀ c ∈ [((.ldlc i, 0x05, 4, []) : Instr × Nat × Nat × List Flt), (.ldsc i, 0x08, 1, d0), (.ldd i, 0x09, 32, [])],
      s.canIssue i c.2.1 = true →
      (∀ e, bestFault (orderFlts (c.2.2.2 ++ ldFlts a c.2.2.1)) = some e →
        exec c.1 s = .next ((s.granted i).faultAt i w true e))
      ∧ (c.2.2.2 ++ ldFlts a c.2.2.1 = [] → s.bad (.scratch p) (ldAddr a c.2.2.1).toNat = true →
        exec c.1 s = .next ((s.granted i).faultRun i (s.latch i) ⟨8, opA, windowAddr i.vc (ldAddr a c.2.2.1).toNat⟩))

/-- R42, R61, R97, R156, R157, R201: LDLC, LDSC and LDD complete where their bytes can be read, and fault where not. -/
def Obligations.DescriptorLoads : Prop := loadsComplete ∧ loadsFault

namespace Sys2Proof.Statements

/-- The stores and semaphores are as they were. -/
def dataKept (s t : State) : Prop :=
  t.mem = s.mem ∧ ∀ p, (t.core p).sp = (s.core p).sp ∧ (t.core p).poison = (s.core p).poison
    ∧ (t.core p).cells = (s.core p).cells

/-- An instruction of stream `i` has written `ws` to its own scratchpad and completed with effect `f` on its
stream: every byte and granule it does not name, every other core, the other strands, the stores outside the
cores and every context but its own are as they were. -/
def wroteOwn (s t : State) (i : StreamId) (ws : List W) (f : Stream → Stream) : Prop :=
  ∃ p, s.pcore i.ctx i.vc = some p
    ∧ t = { s with cores := t.cores, ctxs := t.ctxs, freeCtr := t.freeCtr }
    ∧ (∀ c, c ≠ i.ctx → t.ctx c = s.ctx c)
    ∧ (∀ q, q ≠ p → t.core q = s.core q)
    ∧ t.core p = { (s.core p).granted i.eng i.st with
        sp := bytesAfter (s.core p).sp ws, poison := poisonAfter (s.core p).poison ws
        holds := holdsAfter (s.core p).holds ws, strands := (t.core p).strands }
    ∧ (∀ u, u ≠ i.st → (t.core p).strand u = (s.core p).strand u)
    ∧ (t.core p).strand i.st = completed s i f
    ∧ ∀ a, (∀ w ∈ ws, w.addr ≠ a) → Memory.read (t.core p).sp a = Memory.read (s.core p).sp a

/-- A context whose tensor flags gained those of events on TAG `tag`, and nothing else. -/
def flagged (x : Ctx) (tag : Nat) (evs : List NumEv) : Ctx :=
  if evs.isEmpty then x
  else { x with flags := SMap.upd 0 x.flags tag fun f => evs.foldl (fun f e => f ||| e.flags) f }

/-- The same for an instruction that issued under `step`, whose flags those of that step's final seal may be (R234). -/
def flaggedAt (x : Ctx) (step : U64) (tag : Nat) (evs : List NumEv) : Ctx :=
  if evs.isEmpty then x else x.flagEvents step tag evs

/-- What a vector instruction's output, and its waits for the interlock, add to the counters of its stream. -/
def vCounts (r : VOut) (intlk : Nat) (x : Stream) : Stream :=
  { x with
    num := r.evs.foldl NumCtrs.count x.num
    ctrs := { x.ctrs with
      velem := x.ctrs.velem + BitVec.ofNat 64 r.velem, permoor := x.ctrs.permoor + BitVec.ofNat 64 r.oor
      vintlk := x.ctrs.vintlk + BitVec.ofNat 64 intlk } }

/-- No bit that the instruction writes is lost to a bank's owner (R180). -/
abbrev noneLost (ws : List W) (b : BankEnv) : Prop := lostWords (some .v) ws b.lost = []

/-- A vector instruction with output `r` completes: it has written `r` and counted it, with the waits `b` for banks and
the interlock. -/
def vCompletes (c : Instr) (s : State) (t : StrandId) (l : Latch) (b : BankEnv) (r : VOut) : Prop :=
  goes c s fun u => wroteOwn (s.addWaits b) u (t.stream .v) r.ws (vCounts r b.intlk) ∧ u.freeCtr = s.freeCtr
    ∧ u.ctx t.ctx = flagged (s.ctx t.ctx) (Desc.tag (vOpd l 0).d) r.evs

/-- An element-wise instruction: its constructor, opcode, operands and the exact value of each element. -/
structure VOp where
  ins : StrandId → BankEnv → Instr
  code : Nat
  ks : List Nat
  f : Ctx → Latch → List Machine.Num → Exact

/-- The element-wise instructions (Table 5.3): what each computes before its one rounding. -/
def vOps : List VOp :=
  [⟨.vadd, 0x40, [1, 2], fun _ _ v => .ofNum ((nth v 0).add (nth v 1))⟩,
   ⟨.vsub, 0x41, [1, 2], fun _ _ v => .ofNum ((nth v 0).sub (nth v 1))⟩,
   ⟨.vmul, 0x42, [1, 2], fun _ _ v => .ofNum ((nth v 0).mul (nth v 1))⟩,
   ⟨.vfma, 0x43, [1, 2, 3], fun _ _ v => .ofNum (((nth v 0).mul (nth v 1)).add (nth v 2))⟩,
   ⟨.vdiv, 0x44, [1, 2], fun _ _ v => (nth v 0).div (nth v 1)⟩,
   ⟨.vrcp, 0x45, [1], fun _ _ v => (nth v 0).rcp⟩,
   ⟨.vsqrt, 0x46, [1], fun _ _ v => (nth v 0).sqrt⟩,
   ⟨.vrsqrt, 0x47, [1], fun _ _ v => (nth v 0).rsqrt⟩,
   ⟨.vmax, 0x48, [1, 2], fun _ _ v => .ofNum (vMax (nth v 0) (nth v 1))⟩,
   ⟨.vmin, 0x49, [1, 2], fun _ _ v => .ofNum (vMin (nth v 0) (nth v 1))⟩,
   ⟨.vabs, 0x4A, [1], fun _ _ v => .ofNum (nth v 0).abs⟩,
   ⟨.vneg, 0x4B, [1], fun _ _ v => .ofNum (nth v 0).neg⟩,
   ⟨.vsel, 0x4C, [1, 2, 3], fun _ _ v => .ofNum (if Machine.Num.zero.lt (nth v 1) then nth v 0 else nth v 2)⟩,
   ⟨.vcvt, 0x4D, [1], fun _ _ v => .ofNum (nth v 0)⟩,
   ⟨.vcurve, 0x4E, [1, 2], fun x l v =>
      .ofNum (curveEval x.cfg.curves (bits (Word.imm l.word) 5 3) ((nth v 0).add (nth v 1)))⟩]

/-- The coordinates of D's elements. -/
def dCs (l : Latch) : List Coord := Desc.coords (vOpd l 0).d

/-- An operand can be read: no granule its elements lie in is poisoned. -/
abbrev readable (s : State) (p : Nat) (t : StrandId) (o : Opd) (cs : List Coord) : Prop :=
  o.poison (s.core p).poison t.vc cs = []

end Sys2Proof.Statements

/-- R48 to R50, R170: CALL 1, FEATREAD, writes the feature space as the context sees it to the bytes at D and
completes. -/
def Sys2Proof.Statements.featreadCompletes : Prop :=
  ∀ (s : State) (i : StreamId) (p : Nat) (b : BankEnv),
    s.canIssue i 0x0A = true → (s.stream i).xfers = [] → s.pcore i.ctx i.vc = some p → clean s →
    (s.core p).routineErr = false → bits (Word.imm (s.stream i).word) 0 16 = 1 →
      let d := (s.latch i).desc (Word.d (s.stream i).word)
      let ws := plainWs (ldAddr d 4).toNat (s.featBytes i.ctx)
      featFlts d = [] → lostWords (some i.eng) ws b.lost = [] →
        goes (.call i b) s fun t =>
          wroteOwn (s.addWaits b) t i ws id ∧ t.ctx i.ctx = s.ctx i.ctx ∧ t.freeCtr = s.freeCtr

/-- R49, R169 (and log 11 for the bytes written): CALL of another routine of the library, none of whose bytes are
poisoned, writes only bits that its descriptors and its workspace cover, all of them in the own scratchpad for an M or V
stream, and completes; a core whose routine memory holds an error starts no routine. -/
def Sys2Proof.Statements.routineCompletes : Prop :=
  ∀ (s : State) (i : StreamId) (p : Nat) (b : BankEnv),
    s.canIssue i 0x0A = true → (s.stream i).xfers = [] → s.pcore i.ctx i.vc = some p → clean s →
      let r := bits (Word.imm (s.stream i).word) 0 16
      let e := s.lib.entry r
      let l := s.latch i
      ((s.core p).routineErr = false → r ≠ 1 → workFlts e l = [] →
        (∀ x ∈ s.cover i e l, s.bad x.1 x.2.1.addr = false) → b.lost = [] →
        ∃ ws : List (Place × W),
          (∀ w ∈ ws, ∃ x ∈ s.cover i e l, x.1 = w.1 ∧ x.2.1.addr = w.2.addr ∧ x.2.1.msk = w.2.msk)
          ∧ exec (.call i b) s = .next ((((s.granted i).addWaits b).storeSpots ws).complete i l))
      ∧ (i.eng ≠ .x → ∀ x ∈ s.cover i e l, x.1 = .scratch p)
      ∧ ((s.core p).routineErr = true → goes (.call i b) s fun t =>
          strandBecomes s t i ((s.strand i.strandId).updStream i.eng fun x => { x with held := true }))

/-- R48 to R50, R169, R170 (and log 11): CALL runs FEATREAD or another routine of the library to its end. -/
def Obligations.CallCompletes : Prop := featreadCompletes ∧ routineCompletes

/-! ### The vector engine -/

/-- R133, R137 to R140, R144: an element-wise vector instruction writes, at every coordinate of D, its function of
the operands' values there, rounded once into D's format; it counts and flags the events of those writes, and
changes nothing else. -/
def Sys2Proof.Statements.elementwiseValues : Prop :=
  ∀ op ∈ vOps, ∀ (s : State) (t : StrandId) (p : Nat) (b : BankEnv),
    s.canIssue (t.stream .v) op.code = true → s.pcore t.ctx t.vc = some p → clean s →
      let l := s.latch (t.stream .v)
      let r := vElemOut ((s.ctx t.ctx).roundEnv l) op.ks (op.f (s.ctx t.ctx) l) l (s.core p).sp
      crumbFlt (vOpd l 0).d = [] → (∀ k ∈ 0 :: op.ks, (vOpd l k).check (dCs l) = []) →
      (∀ k ∈ op.ks, readable s p t (vOpd l k) (dCs l)) →
      (∀ k ∈ op.ks, misuse (vOpd l 0) (vOpd l k) (dCs l) (dCs l) (Desc.size (vOpd l 0).d) = false) →
      noneLost r.ws b →
        vCompletes (op.ins t b) s t l b r

/-- R135 (and log 6): where D overlaps a source in a way R135 calls misuse, an element-wise instruction still
completes and writes no byte but those of D; what it writes there is free. -/
def Sys2Proof.Statements.misuseStillCompletes : Prop :=
  ∀ op ∈ vOps, ∀ (s : State) (t : StrandId) (p : Nat) (b : BankEnv),
    s.canIssue (t.stream .v) op.code = true → s.pcore t.ctx t.vc = some p → clean s →
      let l := s.latch (t.stream .v)
      let r := vElemOut ((s.ctx t.ctx).roundEnv l) op.ks (op.f (s.ctx t.ctx) l) l (s.core p).sp
      crumbFlt (vOpd l 0).d = [] → (∀ k ∈ 0 :: op.ks, (vOpd l k).check (dCs l) = []) →
      (∀ k ∈ op.ks, readable s p t (vOpd l k) (dCs l)) →
      (∃ k ∈ op.ks, misuse (vOpd l 0) (vOpd l k) (dCs l) (dCs l) (Desc.size (vOpd l 0).d) = true) →
      noneLost r.ws b →
        goes (op.ins t b) s fun u => ∃ ws evs, ws.map W.addr = r.ws.map W.addr ∧ ws.map W.msk = r.ws.map W.msk
          ∧ wroteOwn (s.addWaits b) u (t.stream .v) ws (vCounts { r with evs := evs } b.intlk)

/-- R133, R135, R137 to R140, R144 (and log 6): element-wise vector instructions complete, with free values where their
operands overlap in misuse. -/
def Obligations.ElementwiseCompletes : Prop := elementwiseValues ∧ misuseStillCompletes

/-- R141: VRSUM, VRMAX and VRMIN write one element for each row of A along dimension 0: its sum by chunks, its
maximum, its minimum. -/
def Sys2Proof.Statements.reductionsComplete : Prop :=
  ∀ op ∈ [((.vrsum, 0x4F, rowSum) : (StrandId → BankEnv → Instr) × Nat × (List Machine.Num → Machine.Num × List NumEv)),
          (.vrmax, 0x50, fun v => (rowFold vMax v, [])), (.vrmin, 0x51, fun v => (rowFold vMin v, []))],
  ∀ (s : State) (t : StrandId) (p : Nat) (b : BankEnv),
    s.canIssue (t.stream .v) op.2.1 = true → s.pcore t.ctx t.vc = some p → clean s →
      let l := s.latch (t.stream .v)
      let r := vRedOut ((s.ctx t.ctx).roundEnv l) op.2.2 l (s.core p).sp
      let dc := redCoords (vOpd l 1).d
      let ac := Desc.coords (vOpd l 1).d
      crumbFlt (vOpd l 0).d = [] → (vOpd l 0).check dc = [] → (vOpd l 1).check ac = [] →
      readable s p t (vOpd l 1) ac → misuse (vOpd l 0) (vOpd l 1) dc ac (Desc.size (vOpd l 1).d) = false →
      noneLost r.ws b →
        vCompletes (op.1 t b) s t l b r

/-- R145 to R149: VAMAX writes the scale exponents of A, VPERM the elements of A that B names, VAPPLY the weights
of D, and with RND 1 their crumbs in B, after the update A. -/
def Sys2Proof.Statements.scalePermuteApplyComplete : Prop :=
  ∀ (s : State) (t : StrandId) (p : Nat) (b : BankEnv),
    s.pcore t.ctx t.vc = some p → clean s →
      let l := s.latch (t.stream .v)
      let env := (s.ctx t.ctx).roundEnv l
      let m := (s.core p).sp
      (s.canIssue (t.stream .v) 0x52 = true → vamaxFlts l = [] → vamaxBad l = false →
        readable s p t (vOpd l 1) (Desc.coords (vOpd l 1).d) → noneLost (vamaxOut env l m).ws b →
          vCompletes (.vamax t b) s t l b (vamaxOut env l m))
      ∧ (s.canIssue (t.stream .v) 0x53 = true → vpermFlts l = [] → vpermBad l = false →
        (vOpd l 1).check (vpermPicked env.tab l m) = [] →
        (∀ x ∈ vpermSrcs env.tab l m, readable s p t x.1 x.2) → noneLost (vpermOut env l m).ws b →
          vCompletes (.vperm t b) s t l b (vpermOut env l m))
      ∧ (s.canIssue (t.stream .v) 0x54 = true → vapplyFlts l = [] → vapplyBad l = false →
        (∀ k ∈ vapplyKs l, readable s p t (vOpd l k) (dCs l)) → noneLost (vapplyOut env l m).ws b →
          vCompletes (.vapply t b) s t l b (vapplyOut env l m))

/-- R141, R145 to R149: reductions, VAMAX, VPERM and VAPPLY complete with what the rules give them. -/
def Obligations.OtherVectorCompletes : Prop := reductionsComplete ∧ scalePermuteApplyComplete

/-- R61, R138, R201: an element-wise instruction with an operand that is not valid, is out of range or has a format
its engine does not take raises the best of those faults at issue; one that reads a poisoned granule raises
POISON_CONSUMED in execution and leaves every granule of D poisoned. -/
def Sys2Proof.Statements.elementwiseFaults : Prop :=
  ∀ op ∈ vOps, ∀ (s : State) (t : StrandId) (p : Nat) (b : BankEnv),
    s.canIssue (t.stream .v) op.code = true → s.pcore t.ctx t.vc = some p → clean s →
      let i := t.stream .v
      let l := s.latch i
      let r := vElemOut ((s.ctx t.ctx).roundEnv l) op.ks (op.f (s.ctx t.ctx) l) l (s.core p).sp
      let flts := crumbFlt (vOpd l 0).d ++ (0 :: op.ks).flatMap fun k => (vOpd l k).check (dCs l)
      (∀ e, bestFault (orderFlts flts) = some e →
        exec (op.ins t b) s = .next ((s.granted i).faultAt i l.word true e))
      ∧ (flts = [] → ∀ e, bestFault (orderFlts (op.ks.flatMap fun k =>
            (vOpd l k).poison (s.core p).poison t.vc (dCs l))) = some e →
          exec (op.ins t b) s = .next ((((s.granted i).poisonAll
            ((wsGranules r.ws).map fun g => (Place.scratch p, g)))).faultRun i l e))

/-- R180, R181: bits of an instruction's writes that a bank's owner writes too in their cycle are not written, and every
other bit is; in Arrival mode the words that lost a bit are counted and the instruction completes, in Reproducible mode it
raises BANK_WRITE_LOST and what it wrote or would have written is poisoned. -/
def Sys2Proof.Statements.wordsLost : Prop :=
  ∀ (s : State) (i : StreamId) (l : Latch) (p : Nat) (ws : List W) (lost : List LostWord) (f : State → State),
    s.pcore i.ctx i.vc = some p →
      let lw := lostWords (some i.eng) ws lost
      let kept := keptWs (some i.eng) ws lost
      let u := s.store (.scratch p) kept
      lw ≠ [] →
        ((s.ctx i.ctx).cfg.set.arrival = true → s.ownWrite i l ws lost f =
          f (u.updStream i fun x => { x with ctrs := { x.ctrs with lostw := x.ctrs.lostw + BitVec.ofNat 64 lw.length } }))
        ∧ ((s.ctx i.ctx).cfg.set.arrival = false → s.ownWrite i l ws lost f =
          (u.poisonAll ((wsGranules ws).map fun g => (Place.scratch p, g))).faultRun i l (lostFlt lw))
        ∧ (∀ w ∈ lw, bankOwner (4 * w / 2 ^ 20) ≠ i.eng ∧ ∃ x ∈ ws, x.addr / 4 = w)
        ∧ (∀ y ∈ kept, ∃ x ∈ ws, y = { x with msk := x.msk &&& ~~~(lostOf (some i.eng) lost x.addr) })
        ∧ ∀ x ∈ ws, lostOf (some i.eng) lost x.addr = 0 → x ∈ kept

/-- R183: a wait for a bank adds its cycles to BKWAIT of its core, master and bank, and changes nothing else. -/
def Sys2Proof.Statements.waitsCounted : Prop :=
  ∀ (s : State) (w : BankWait), w.pc < 272 → w.master < 4 → w.bank < 6 →
    let k := w.master * 6 + w.bank
    let t := s.addWaits { waits := [w] }
    coreOnly s t w.pc
      ∧ t.core w.pc = { s.core w.pc with ctrs := { (s.core w.pc).ctrs with bkwait := (t.core w.pc).ctrs.bkwait } }
      ∧ ∀ j, SMap.get 0 (t.core w.pc).ctrs.bkwait j = SMap.get 0 (s.core w.pc).ctrs.bkwait j
          + (if j = k then BitVec.ofNat 64 w.cycles else 0)

/-- R61, R138, R180, R181, R183, R201: what a vector instruction raises at issue and in execution, what becomes of words
lost to a bank, and how waits for banks count. -/
def Obligations.VectorFaults : Prop := elementwiseFaults ∧ wordsLost ∧ waitsCounted

namespace Sys2Proof.Statements

/-- Nothing but cores and contexts differs, and of the contexts only `c`. -/
def jobOnly (s t : State) (c : Nat) : Prop :=
  t = { s with cores := t.cores, ctxs := t.ctxs } ∧ ∀ d, d ≠ c → t.ctx d = s.ctx d

/-- Barrier unit `b` of context `c` becomes `u`, and no other unit changes. -/
def unitBecomes (s t : State) (c b : Nat) (u : BarUnit) : Prop :=
  (t.ctx c).unit b = u ∧ ∀ k, k ≠ b → (t.ctx c).unit k = (s.ctx c).unit k

/-- Stream `i` waits in barrier `b` for generation `g`. -/
def waitsIn (s : State) (i : StreamId) (b : Nat) (g : U32) (isSeal : Bool) : Stream :=
  { s.stream i with
    state := .waiting, phase := .waitBar b g, latch := s.latch i, waitSince := s.now
    sealN := if isSeal then (s.stream i).sealN + 1 else (s.stream i).sealN }

end Sys2Proof.Statements

/-! ### Barriers -/

/-- R161, R219, R221: a BAR enters the open generation of its unit, or the next one where the count has closed, and its
stream waits for that generation; the entry that brings the count to COUNT closes it in that cycle. Of the entries of the
closing cycle, the last in the order of R218 that the count leaves over are those of the next generation. -/
def Sys2Proof.Statements.barEnters : Prop :=
  ∀ (s : State) (i : StreamId), s.canIssue i 0x0B = true → (s.stream i).xfers = [] →
    let b := bits (Word.imm (s.stream i).word) 0 6
    let x := s.ctx i.ctx
    let u := x.unit b
    let n := barCount (x.bar b)
    let isSeal : Bool := decide (x.cfg.set.sealbar = some b)
    (u.closedAt = none → (n = 0 ∨ u.arr.length + 1 ≠ n) → goes (.bar i) s fun t =>
      jobOnly s t i.ctx ∧ dataKept s t ∧ t.stream i = waitsIn s i b u.gen isSeal
        ∧ unitBecomes s t i.ctx b { u with arr := u.arr ++ [i] })
    ∧ (u.closedAt = none → n ≠ 0 → u.arr.length + 1 = n → barTree (x.bar b) = false → goes (.bar i) s fun t =>
      jobOnly s t i.ctx ∧ dataKept s t ∧ t.stream i = waitsIn s i b u.gen isSeal
        ∧ unitBecomes s t i.ctx b { u with arr := u.arr ++ [i], closedAt := some s.now, tloc := s.aon.tbase })
    ∧ (u.closedAt.isSome = true →
      (u.closedAt ≠ some s.now ∨ ∀ j ∈ u.arr, (s.stream j).waitSince = s.now → s.entryKey j ≤ s.entryKey i) →
      goes (.bar i) s fun t =>
        jobOnly s t i.ctx ∧ dataKept s t ∧ t.stream i = waitsIn s i b (u.gen + 1) isSeal
          ∧ unitBecomes s t i.ctx b { u with next := u.next ++ [i] })
    ∧ ∀ j ∈ u.arr, u.closedAt = some s.now → (s.stream j).waitSince = s.now → s.entryKey i < s.entryKey j →
      (∀ k ∈ u.arr, k ≠ j → (s.stream k).waitSince = s.now → s.entryKey k < s.entryKey j) →
      (s.pcore j.ctx j.vc).isSome = true → goes (.bar i) s fun t =>
        jobOnly s t i.ctx ∧ dataKept s t ∧ t.stream i = waitsIn s i b u.gen isSeal
          ∧ t.stream j = { s.stream j with phase := .waitBar b (u.gen + 1) }
          ∧ unitBecomes s t i.ctx b { u with arr := u.arr.erase j ++ [i], next := u.next ++ [j] }

/-- R222: a barrier that spans no other device, has closed its count and is neither the seal nor the snapshot
barrier releases 64 cycles after the closing entry and not before: its generation number rises by one, the
entries of the next generation become the open one's, every BAR of it is complete, a stream that was stopped in it
stays Stopped (log 123), and a requested swap happens at the swap barrier. -/
def Sys2Proof.Statements.barrierReleases : Prop :=
  ∀ (s : State) (c b t0 : Nat),
    let x := s.ctx c
    let u := x.unit b
    let n := barCount (x.bar b)
    x.state = .ready → b < 64 → barTree (x.bar b) = false → u.closedAt = some t0 →
    x.cfg.set.sealbar ≠ some b → x.cfg.set.snapbar ≠ some b →
      (s.now - t0 < 64 → idles (.barrierRelease c b) s)
      ∧ (64 ≤ s.now - t0 → goes (.barrierRelease c b) s fun t =>
        jobOnly s t c ∧ dataKept s t
          ∧ (t.ctx c).unit b = { u with
              gen := u.gen + 1, arr := u.next.take (if n = 0 then u.next.length else n)
              next := if n = 0 then [] else u.next.drop n
              closedAt := if n ≠ 0 ∧ n ≤ u.next.length then some s.now else none
              tloc := if n ≠ 0 ∧ n ≤ u.next.length then s.aon.tbase else 0
              child := u.childNext, childNext := [], sent := false, trel := none, barrel := u.barrel + 1 }
          ∧ (∀ i ∈ u.arr, (s.stream i).phase = .waitBar b u.gen →
              t.stream i = (if (s.stream i).state = .stopped then { s.stream i with phase := .complete }
                else { (s.stream i).leaveWait s.now with state := .running, phase := .complete, syncAt := some s.now }))
          ∧ (t.ctx c).cfg.active1 =
              (if x.cfg.set.swapbar = some b ∧ x.swapReq = true then !x.cfg.active1 else x.cfg.active1))

/-- R227, R228: a tree barrier's unit whose local count has closed and whose children have all arrived sends its
arrival with the latest entry time to its parent, or at the root decides the release at the next tick plus DMARGIN
ticks; before that it sends nothing; it releases in the first cycle at or after t_rel. -/
def Sys2Proof.Statements.treeBarrier : Prop :=
  ∀ (s : State) (c b : Nat),
    let x := s.ctx c
    let e := x.bar b
    let u := x.unit b
    let latest := u.child.foldl (fun m a => max m a.t.toNat) u.tloc.toNat
    let v := s.updUnit c b fun u => { u with sent := true }
    x.state = .ready → barTree e = true →
      (u.child.length < barNchild e → s.treeStep c b = s)
      ∧ (u.closedAt.isSome = true → u.sent = false → barNchild e ≤ u.child.length → barRoot e = false →
          s.treeStep c b = v.fabSend c (barParent e) 6 true (BitVec.ofNat 64 (barPbar e)) (BitVec.ofNat 64 latest)
            u.gen (BitVec.ofNat 32 b) [] 0 none)
      ∧ (u.closedAt.isSome = true → u.sent = false → barNchild e ≤ u.child.length → barRoot e = true →
          s.treeStep c b = v.treeDecide c b (BitVec.ofNat 64 (nextTick (latest + barDmargin e * 65536))))
      ∧ (∀ r, b < 64 → u.trel = some r →
          (s.aon.tbase.toNat < r.toNat → idles (.barrierTreeRelease c b) s)
          ∧ (r.toNat ≤ s.aon.tbase.toNat →
              exec (.barrierTreeRelease c b) s = .next ((s.releaseBar c b false).treeStep c b)))

/-- R161, R219, R221, R222, R227, R228: a BAR enters its barrier; a barrier releases its generation together, and one that spans
devices by its tree. -/
def Obligations.Barriers : Prop := barEnters ∧ barrierReleases ∧ treeBarrier

namespace Sys2Proof.Statements

/-- Nothing differs from `s` but strand `i`, which is `y`. -/
def strandTo (s t : State) (i : StrandId) (y : Strand) : Prop :=
  ∃ p, s.pcore i.ctx i.vc = some p ∧ coreOnly s t p
    ∧ t.core p = { s.core p with strands := (t.core p).strands }
    ∧ (∀ u, u ≠ i.st → (t.core p).strand u = (s.core p).strand u)
    ∧ (t.core p).strand i.st = y

/-- Nothing differs from `s` but stream `i`, changed by `f`. -/
def streamTo (s t : State) (i : StreamId) (f : Stream → Stream) : Prop :=
  strandTo s t i.strandId ((s.strand i.strandId).updStream i.eng f)

/-- What cell `n` of a core will hold once its deferred increments are applied (R218). -/
def owed (k : Core) (n : Nat) : U32 :=
  SMap.get 0 k.cells n + (k.deferred.map fun d => if d.cell = n then BitVec.ofNat 32 d.inc else 0).sum

end Sys2Proof.Statements

/-! ### Waits, signals, semaphores -/

/-- R35, R41, R212: a stream in Waiting goes on once its semaphore has reached its target, by signed distance, and
not before; at the wait limit it raises WAIT_TIMEOUT instead, unless the limit is 0. -/
def Sys2Proof.Statements.waitsRelease : Prop :=
  ∀ (s : State) (i : StreamId) (p n : Nat) (g : U32),
    let x := s.stream i
    let lim := (s.ctx i.ctx).cfg.set.wlim.toNat
    let met : Prop := (s.sem i.ctx n - g).toNat < 2 ^ 31
    s.pcore i.ctx i.vc = some p → (s.ctx i.ctx).state = .ready → x.state = .waiting → x.phase = .waitSem n g →
      (met → goes (.waitRelease i) s fun t => streamTo s t i fun x =>
        { x with
          state := .running, phase := .released, syncAt := some s.now
          ctrs := { x.ctrs with waitcyc := x.ctrs.waitcyc + BitVec.ofNat 64 (s.now - x.waitSince) } })
      ∧ (¬met → idles (.waitRelease i) s)
      ∧ (¬met → lim ≠ 0 → lim * 2 ^ 20 ≤ s.now - x.waitSince →
        exec (.waitTimeout i) s = .next (s.faultAt i x.word false ⟨10, 4, n + 2 ^ 32 * g.toNat⟩))
      ∧ (met ∨ lim = 0 ∨ s.now - x.waitSince < lim * 2 ^ 20 → idles (.waitTimeout i) s)

/-- R30, R36: the completed instruction of a stream makes its signal and the stream goes on to its next
instruction, or stops there where a strand stop waits, or stands there in Done or Faulted; a stopped context makes no
signal. -/
def Sys2Proof.Statements.signalsAreMade : Prop :=
  ∀ (s : State) (i : StreamId) (p : Nat),
    let x := s.stream i
    let w := x.latch.word
    let u := if (s.ctx i.ctx).state.isReady && Word.ssem w != 0xFFFF then
        s.signal i.ctx (Word.ssem w) (if Word.sincRaw w = 0 then 16 else Word.sincRaw w) (localKey p i.st i.eng.num)
      else s
    s.pcore i.ctx i.vc = some p → x.phase = .complete → i ∉ (s.ctx i.ctx).held →
      ((x.state = .running ∨ x.state = .waiting ∨ x.state = .idle ∨ x.state = .stopped) → x.stopReq = false →
        exec (.localSignal i) s = .next ((u.updStream i fun x => x.pass x.pc).reach i))
      ∧ (x.state = .running → x.stopReq = true → goes (.localSignal i) s fun t => streamTo u t i fun x =>
          { x.pass x.pc with state := .stopped, stopReq := false })
      ∧ ((x.state = .done ∨ x.state = .faulted) →
          goes (.localSignal i) s fun t => streamTo u t i fun x => { x with phase := .boundary })

/-- R30, R35, R36, R41, R212: a wait is released by its semaphore, or times out; a completed instruction signals. -/
def Obligations.WaitsAndSignals : Prop := waitsRelease ∧ signalsAreMade

/-- R36, R210, R211: a signal that the synchronisation unit can apply at once adds SINC to its one semaphore,
modulo 2^32; no other semaphore, byte or context changes. -/
def Sys2Proof.Statements.signalAdds : Prop :=
  ∀ (s : State) (c n inc key p : Nat), s.pcore c (n / 256) = some p → (s.core p).deferred = [] →
    ((s.core p).incCycle ≠ s.now ∨ (s.core p).incs.length < 4) →
      let t := s.signal c n inc key
      coreOnly s t p
        ∧ t.sem c n = s.sem c n + BitVec.ofNat 32 inc
        ∧ (∀ k, k ≠ n % 256 → SMap.get 0 (t.core p).cells k = SMap.get 0 (s.core p).cells k)
        ∧ (t.core p).sp = (s.core p).sp ∧ (t.core p).poison = (s.core p).poison
        ∧ (t.core p).strands = (s.core p).strands

/-- R210, R211, R218: no increment is lost and at most four are applied in a cycle: an increment, and the
application of deferred ones, leave each cell's value with its deferred increments at the exact sum modulo 2^32.
Increments deferred in earlier cycles go ahead of new ones. -/
def Sys2Proof.Statements.incrementsAreConserved : Prop :=
  ∀ (s : State) (p : Nat),
    ((s.core p).incCycle = s.now → (s.core p).incs.length ≤ 4) →
      (∀ cell inc key n, owed ((s.increment p cell inc key).core p) n =
          owed (s.core p) n + (if cell = n then BitVec.ofNat 32 inc else 0))
      ∧ (∀ cell inc key, ((s.increment p cell inc key).core p).incs.length ≤ 4)
      ∧ goes (.semaphoreDeferredIncrement p) s fun t => coreOnly s t p
          ∧ (∀ n, owed (t.core p) n = owed (s.core p) n)
          ∧ ((t.core p).incCycle = s.now → (t.core p).incs.length ≤ 4)
          ∧ ((∀ d ∈ (s.core p).deferred, d.cycle < s.now) → (s.core p).deferred.length ≤ 4 → (t.core p).deferred = [])
          ∧ (t.core p).sp = (s.core p).sp ∧ (t.core p).strands = (s.core p).strands

/-- R218: of increments that one cycle brings to a synchronisation unit beyond four, the first four in the order are
applied and the last is deferred, whichever command comes first: with four applied in this cycle, one that comes before the
last of them takes its place, and that one is deferred; one that comes after them is deferred itself. -/
def Sys2Proof.Statements.firstFourApply : Prop :=
  ∀ (s : State) (p cell inc key : Nat) (z : Inc), (s.core p).deferred = [] → (s.core p).incCycle = s.now →
    (s.core p).incs.length = 4 → (s.core p).incs.getLast? = some z →
      let t := s.increment p cell inc key
      coreOnly s t p
        ∧ (key < z.key → (t.core p).deferred = [z]
          ∧ ∀ n, SMap.get 0 (t.core p).cells n = SMap.get 0 (s.core p).cells n
              - (if n = z.cell then BitVec.ofNat 32 z.inc else 0) + (if n = cell then BitVec.ofNat 32 inc else 0))
        ∧ (z.key ≤ key → (t.core p).cells = (s.core p).cells
          ∧ (t.core p).deferred = [{ cell := cell, inc := inc, key := key, cycle := s.now }])
        ∧ (t.core p).ctrs.semdefer = (s.core p).ctrs.semdefer + 1

/-- R36, R210, R211, R218: an increment is added to its semaphore, at once or deferred, and none is lost. -/
def Obligations.Semaphores : Prop := signalAdds ∧ incrementsAreConserved ∧ firstFourApply

/-- R31, R35, R153, R214, R453: a stream that has fetched the instruction at its PC, and whose core runs, reaches it:
the wait's expectation register rises by WINC, then the first checks raise a fault, or the stream waits for its
semaphore, or the instruction may issue. -/
def Sys2Proof.Statements.reachingAnInstruction : Prop :=
  ∀ (s : State) (i : StreamId) (p : Nat) (w : Word),
    let x := s.stream i
    let wait : Bool := Word.wsem w != 0xFFFF
    let e := if wait then SMap.upd 0 x.e (Word.wreg w) (· + BitVec.ofNat 32 (Word.winc w)) else x.e
    let u := s.updStream i fun x => { x with e := e }
    let g := SMap.get 0 e (Word.wreg w)
    s.pcore i.ctx i.vc = some p → (s.ctx i.ctx).state = .ready → x.state = .running → x.phase = .boundary →
    x.held = false → s.coreRuns i.ctx i.vc = true → s.noInstr i = false → x.cur = some w →
      (∀ f, u.stage1 i w = some f → s.reach i = u.faultAt i w true f)
      ∧ (u.stage1 i w = none → (wait = true ∧ ¬(s.sem i.ctx (Word.wsem w) - g).toNat < 2 ^ 31) →
          streamTo s (s.reach i) i fun x =>
            { x with e := e, state := .waiting, phase := .waitSem (Word.wsem w) g, waitSince := s.now })
      ∧ (u.stage1 i w = none → (wait = false ∨ (s.sem i.ctx (Word.wsem w) - g).toNat < 2 ^ 31) →
          streamTo s (s.reach i) i fun x =>
            { x with e := e, phase := .released, syncAt := if wait then some s.now else x.syncAt })

/-- R31, R151: INSTRUCTION_FETCH fills the issue queue to 32 words with the 16-byte little-endian words of the code
segment, in order from the PC, as long as their granules are not poisoned, and the stream reaches the instruction
at its PC. -/
def Sys2Proof.Statements.fetchFillsQueue : Prop :=
  ∀ (s : State) (i : StreamId) (p : Nat),
    let x := s.stream i
    let next := match x.queue.getLast? with
      | some (pc, _) => pc.toNat + 1
      | none => x.pc.toNat
    let n := 32 - x.queue.length
    let r := s.fetchFrom i n next
    s.pcore i.ctx i.vc = some p → (s.ctx i.ctx).state = .ready → (x.state = .running ∨ x.state = .waiting) →
    clean s → s.mem.inReset = [] → s.mem.isolated = [] →
      ((r.2 = false ∨ next ≠ x.pc.toNat ∨ r.1 ≠ []) → goes (.instructionFetch i) s fun t => ∃ u,
        streamTo s u i (fun x => { x with queue := x.queue ++ r.1 }) ∧ t = u.reach i)
      ∧ (∀ k, (h : k < r.1.length) → ∃ sp, s.codeSpot i (next + k) = some sp ∧ s.bad sp.place sp.off = false
          ∧ r.1[k] = (BitVec.ofNat 32 (next + k), BitVec.ofNat 128 (leNat (Memory.readN (s.memAt sp.place) sp.off 16))))

/-- R31: where a loop of at most 32 instructions goes back to its start, which the issue queue holds, the queue keeps the
words of the body, so that the iteration is not fetched again. -/
def Sys2Proof.Statements.loopsReplay : Prop :=
  ∀ (x : Stream) (l : LoopLevel), x.loops = [l] → l.bodyEnd = x.pc → 1 < l.remaining.toNat →
    l.bodyEnd.toNat < l.bodyStart.toNat + 32 → (∃ w, (l.bodyStart, w) ∈ x.queue) →
      (x.pass x.pc).pc = l.bodyStart
        ∧ ∀ e ∈ x.queue, l.bodyStart.toNat ≤ e.1.toNat → e ∈ (x.pass x.pc).queue

/-- R31, R35, R151, R153, R214, R453: streams fetch their words in order, replay short loops from the queue, and reach the
instruction at their PC. -/
def Obligations.FetchAndReach : Prop := reachingAnInstruction ∧ fetchFillsQueue ∧ loopsReplay

/-! ### The matrix engine and the sampler -/

namespace Sys2Proof.Statements

/-- A strand whose M instruction has issued: it waits for its grant, and an open group that it does not continue
closes (R78, R81). -/
def mIssued (s : State) (t : StrandId) : Strand :=
  let l := s.latch (t.stream .m)
  let y := s.strand t
  let y := match y.openGroup with
    | some g =>
      if (foldOf l).continues l.gctl g then y
      else { y with openGroup := none, closing := y.closing ++ [{ g with own := false }] }
    | none => y
  { y with mrun := some { latch := l }, m := { y.m with phase := .executing, latch := l } }

/-- Scratchpads, their poison, semaphores and the memory tiers are as they were, and so is every context. -/
def onlyEngine (s t : State) : Prop := dataKept s t ∧ t.ctxs = s.ctxs

end Sys2Proof.Statements

/-- R78, R80, R81: MM, MMT and MOP that meet no fault issue: the strand's engine run waits for its grant with the
copy of what the instruction read, and nothing else changes; with a fault the best of them is raised at issue. -/
def Sys2Proof.Statements.matrixIssues : Prop :=
  ∀ c ∈ [((.mm, 0x20) : (StrandId → Instr) × Nat), (.mmt, 0x21), (.mop, 0x22)], ∀ (s : State) (t : StrandId),
    s.canIssue (t.stream .m) c.2 = true →
      let l := s.latch (t.stream .m)
      (s.mFlts l = [] → goes (c.1 t) s fun u => strandTo s u t (mIssued s t))
      ∧ (∀ e, bestFault (orderFlts (s.mFlts l)) = some e →
          exec (c.1 t) s = .next (s.faultAt (t.stream .m) l.word true e))

/-- R33, R75, R78, R80, R81, R83: M_GRANT grants the first strand in round-robin order whose instruction has its slots,
once the array is in its configuration and has room, and the instruction goes on with the open group that it continues;
one that needs the other configuration stops grants until the array is empty, and then ARRAY_CONFIG_SWITCH changes the
configuration, invalidates every hold and grants. -/
def Sys2Proof.Statements.matrixGrants : Prop :=
  ∀ (s : State) (pc : Nat),
    let k := s.core pc
    (∀ t, k.draining = false → k.cands.head? = some t → (∀ u ∈ k.cands, k.needs u = k.split) → k.room = true →
      exec (.mGrant pc) s = .next ((s.updCore pc fun k => k.grant t).mFinish (s.strandId pc t)))
    ∧ (∀ t r, (k.strand t).mrun = some r →
        let f := foldOf r.latch
        let q := if k.split then k.freeQuad.getD 255 else 255
        (((k.strand t).openGroup = none ∨ ∃ g, (k.strand t).openGroup = some g ∧ f.continues r.latch.gctl g = false) →
          ((k.grant t).strand t).mrun = some { r with granted := true, quad := q, ended := decide (f.ns = 0) }
          ∧ ((k.grant t).strand t).openGroup = (k.strand t).openGroup)
        ∧ (∀ g, (k.strand t).openGroup = some g → f.continues r.latch.gctl g = true →
          ((k.grant t).strand t).openGroup = none
          ∧ ∃ g', ((k.grant t).strand t).mrun = some { r with
              granted := true, quad := q, ended := decide (f.ns = 0), group := some g' }
            ∧ g'.accs = g.accs ∧ g'.poisoned = g.poisoned ∧ g'.gid = g.gid ∧ g'.latch = r.latch ∧ g'.quad = q)
        ∧ (k.grant t).lastM = t ∧ (k.grant t).sp = k.sp ∧ ∀ u, u ≠ t → (k.grant t).strand u = k.strand u)
    ∧ (k.draining = false → k.running ≠ [] → (∃ u ∈ k.cands, k.needs u ≠ k.split) → goes (.mGrant pc) s fun t =>
        coreOnly s t pc ∧ t.core pc = { k with draining := true })
    ∧ (k.draining = true → idles (.mGrant pc) s)
    ∧ (k.draining = true → k.running = [] →
        let u := s.updCore pc fun k => { k with split := !k.split, draining := false, holds := [] }
        (∀ t, ((u.core pc).cands.find? fun t => (u.core pc).needs t = (u.core pc).split) = some t →
          exec (.arrayConfigSwitch pc) s = .next ((u.updCore pc fun k => k.grant t).mFinish (u.strandId pc t)))
        ∧ (((u.core pc).cands.find? fun t => (u.core pc).needs t = (u.core pc).split) = none →
          exec (.arrayConfigSwitch pc) s = .next u))
    ∧ (k.draining = false ∨ k.running ≠ [] → idles (.arrayConfigSwitch pc) s)

/-- R33, R75, R78, R80, R81, R83: matrix instructions issue, and the engine grants them in the array's configuration. -/
def Obligations.MatrixIssuesAndGrants : Prop := matrixIssues ∧ matrixGrants

/-- R74, R75, R87: BLOCK_LOAD loads the block of the present visit of a granted MM or MMT into the hold that the array's
or quadrant's last visit did not use, where no hold has it; and while the present visit has its block, the block of the
visit after it, where no hold has that, into the other hold. -/
def Sys2Proof.Statements.blocksToLoad : Prop :=
  ∀ (k : Core) (f : Fold) (r : MRun),
    (r.hold = none → k.findHold f r r.j r.i = none →
      k.loadNext f r = some (1 - SMap.get 1 k.lastHold r.quad, true, r.j, r.i))
    ∧ (∀ h s' j' i', (r.hold = some h ∨ (r.hold = none ∧ k.findHold f r r.j r.i = some h)) → r.ahead = none →
        f.after r.s r.j r.i = some (s', j', i') → k.findHold f r j' i' = none → k.loadNext f r = some (1 - h, false, j', i'))
    ∧ ((r.hold.isSome ∨ (k.findHold f r r.j r.i).isSome) → (r.ahead.isSome ∨ f.after r.s r.j r.i = none) →
        k.loadNext f r = none)

/-- R74, R75, R87, R92: BLOCK_LOAD of a block that no poisoned granule holds completes: the hold has the values of B's
elements there with the tag of the block, and beside each row and column of them its sum at 24 bits; MBLKLOAD counts it. -/
def Sys2Proof.Statements.blockLoads : Prop :=
  ∀ (s : State) (x : BankedStrand) (p : Nat) (r : MRun) (h j i : Nat) (now : Bool),
    let t := x.t
    let f := foldOf r.latch
    let cs := f.blockCoords r.latch j i
    let b := mOpd r.latch 2
    let key := holdKey r.quad h
    let v := s.addWaits x.bank
    s.pcore t.ctx t.vc = some p → (s.strand t).mrun = some r → clean s → r.granted = true → r.ended = false →
    f.opc ≠ 0x22 → (s.core p).loadNext f r = some (h, now, j, i) → readable s p t b cs →
      goes (.blockLoad x) s fun u =>
        coreOnly v u p ∧ onlyEngine s u
          ∧ (let d := (u.core p).hold key
             d.valid = true ∧ d.vals = cs.map (b.value (s.ctx t.ctx).cfg.fmt (s.core p).sp)
              ∧ (let rows := rowsOf (f.block j i).2.2.2 d.vals
                 d.csum = rows.map checkSum
                  ∧ d.rsum = (List.range (f.block j i).2.2.2).map fun m =>
                      checkSum ((List.range rows.length).map fun n => cell rows n m))
              ∧ d.bdesc = b.d ∧ (d.i, d.j) = f.blockId j i ∧ d.p = f.p ∧ d.split = f.split ∧ d.quad = r.quad)
          ∧ (∀ n, n ≠ key → (u.core p).hold n = (s.core p).hold n)
          ∧ (u.core p).strand t.st = { (s.core p).strand t.st with
              mrun := some (if now then { r with hold := some h } else { r with ahead := some h })
              m := { (s.strand t).m with ctrs := { (s.strand t).m.ctrs with
                mblkload := (s.strand t).m.ctrs.mblkload + 1 } } }
          ∧ ∀ n, n ≠ t.st → (u.core p).strand n = (s.core p).strand n

/-- R61, R75, R84: BLOCK_LOAD of a block with a poisoned granule faults: the hold has no tag, the destination is poisoned
and the instruction's results are discarded. -/
def Sys2Proof.Statements.poisonedLoads : Prop :=
  ∀ (s : State) (x : BankedStrand) (p : Nat) (r : MRun) (h j i : Nat) (now : Bool) (e : Flt),
    let t := x.t
    let f := foldOf r.latch
    s.pcore t.ctx t.vc = some p → (s.strand t).mrun = some r → clean s → r.granted = true → r.ended = false →
    f.opc ≠ 0x22 → (s.core p).loadNext f r = some (h, now, j, i) →
    bestFault (orderFlts ((mOpd r.latch 2).poison (s.core p).poison t.vc (f.blockCoords r.latch j i))) = some e →
      exec (.blockLoad x) s = .next
        (((s.addWaits x.bank).updCore p fun k => k.setHold (holdKey r.quad h) {}).mFault t r.latch e)

/-- Group `g` is one of a strand's. -/
def Sys2Proof.Statements.hasGroup (y : Strand) (g : Group) : Prop :=
  (∃ r, y.mrun = some r ∧ r.group = some g) ∨ g ∈ y.closing ∨ y.openGroup = some g

/-- R71, R73, R87 to R90, R329: a tile product of a run that has its operands completes: its products enter the elements
of the group in order, it makes the group poisoned where a row chunk mismatches, and it is numbered; it changes no byte
of memory and no semaphore, and counts MTILE. Without a mismatch of a row chunk no core becomes suspect and nothing
leaves the device; with one the core is suspect and MCHKFAIL counts it. -/
def Sys2Proof.Statements.tileProducts : Prop :=
  ∀ (s : State) (t : StrandId) (p : Nat) (r : MRun) (g : Group) (us : List Upset),
    s.pcore t.ctx t.vc = some p → (s.strand t).mrun = some r → (s.core p).groupFor t.st r = some g → clean s →
      let f := foldOf r.latch
      let h := if f.opc = 0x22 then none else s.visitHold t p f r
      let vp := f.visitProducts g (s.visitVals t p f r ((h.map Prod.snd).getD {})) us
      let bad := mismatches (rowChunks g vp.1 vp.2)
      r.granted = true → r.ended = false → f.ni ≠ 0 → (f.opc = 0x22 ∨ h.isSome = true) →
      readable s p t (mOpd r.latch 1) (f.aTile r).flatten →
      (f.opc = 0x22 → readable s p t (mOpd r.latch 2) (f.bTile r).flatten) →
      (f.opc ≠ 0x22 → r.hold = none → readable s p t (mOpd r.latch 2) (f.blockCoords r.latch r.j r.i)) →
      goes (.tileProductComplete t us) s fun u => dataKept s u
          ∧ (u.core p).tileN = (s.core p).tileN + 1
          ∧ (u.strand t).m.ctrs.mtile = (s.strand t).m.ctrs.mtile + 1
          ∧ ((s.ctx t.ctx).state = .ready → ∃ g', hasGroup (u.strand t) g' ∧ g'.gid = g.gid
            ∧ g'.accs = (List.zip g.accs vp.1).map (fun e => (e.1.enterAll e.2).1)
            ∧ g'.poisoned = (g.poisoned || !bad.isEmpty))
          ∧ (bad = [] → u.sent = s.sent ∧ u.hub = s.hub ∧ u.aon = s.aon ∧ ∀ q, (u.core q).svc = (s.core q).svc)
          ∧ (bad ≠ [] → (u.core p).ctrs.mchkfail = (s.core p).ctrs.mchkfail + 1
            ∧ (p < 272 → (s.core p).svc = .serving → (u.core p).svc = .suspect))
          ∧ ∀ q, q ≠ p → u.core q = s.core q

/-- R36, R79, R80, R107, R113: GROUP_CLOSE of the oldest closing group whose sampled products are compared writes
each element, its last chunk combined, rounded once into D, and no other byte; the group's slots are free, and an
instruction whose last group this was completes. -/
def Sys2Proof.Statements.groupCloses : Prop :=
  ∀ (s : State) (t : StrandId) (p : Nat) (g : Group) (rest : List Group) (b : BankEnv),
    s.pcore t.ctx t.vc = some p → (s.strand t).closing = g :: rest → clean s →
      let w := (s.ctx t.ctx).closeWrites g
      g.sampled = 0 → g.poisoned = false → (∀ a ∈ s.hub.arbs, ¬(a.checker = 0 ∧ a.t = t)) →
      lostWords (some .m) w.1 b.lost = [] → goes (.groupClose t [] b) s fun u =>
        u.mem = s.mem ∧ u.sent = s.sent
          ∧ u.ctx t.ctx = flaggedAt (s.ctx t.ctx) g.latch.step (Desc.tag (mOpd g.latch 0).d) w.2
          ∧ (u.core p).sp = bytesAfter (s.core p).sp (w.1.map fun x => { x with bad := false })
          ∧ (∀ a, (∀ x ∈ w.1, x.addr ≠ a) → Memory.read (u.core p).sp a = Memory.read (s.core p).sp a)
          ∧ (u.core p).cells = (s.core p).cells
          ∧ (∃ l, (u.strand t).closing = rest ++ l)
          ∧ (∀ r, (s.strand t).mrun = some r → r.ended = true → r.group = none → rest.any (·.own) = false →
              (u.strand t).mrun = none ∧ (u.stream (t.stream .m)).phase = .complete
                ∧ (u.stream (t.stream .m)).latch = r.latch)
          ∧ (∀ q, q ≠ p → u.core q = (s.addWaits b).core q)
          ∧ (∀ n, n ≠ t.st → (u.core p).strand n = (s.core p).strand n)

/-- R36, R61, R71, R73 to R75, R79, R80, R87 to R90, R107, R113, R329 (and logs 132 and
133 for the checksums of a cut chunk and for a hold used again): blocks are loaded, tile products enter their group, and a
group closes with its one rounding into D. -/
def Obligations.MatrixRuns : Prop := blocksToLoad ∧ blockLoads ∧ poisonedLoads ∧ tileProducts ∧ groupCloses

/-- R330, R331: the sampler re-executes the producer's oldest capture on the neighbour and then compares it: an
agreement drops the capture and frees its group to close; a disagreement also opens an arbitration case between
producer and neighbour. -/
def Obligations.SamplerRuns : Prop :=
  ∀ (s : State) (pc : Nat),
    (∀ c rest, (s.core pc).captures = c :: rest → c.done = false → s.neighbour pc ≠ pc →
      goes (.samplerReexecute pc) s fun t =>
        t = { s with cores := t.cores } ∧ dataKept s t
          ∧ t.core pc = { s.core pc with captures := { c with done := true } :: rest }
          ∧ t.core (s.neighbour pc) = { s.core (s.neighbour pc) with ctrs :=
              { (s.core (s.neighbour pc)).ctrs with smplhost := (s.core (s.neighbour pc)).ctrs.smplhost + 1 } })
    ∧ (∀ c rest, (s.core pc).captures = c :: rest → c.done = true → s.pcore c.t.ctx c.t.vc = some pc →
      (goes (.samplerCompare pc none) s fun t =>
        coreOnly s t pc ∧ onlyEngine s t ∧ (t.core pc).captures = rest
          ∧ (t.core pc).ctrs = { (s.core pc).ctrs with smplrun := (s.core pc).ctrs.smplrun + 1 }
          ∧ (t.core pc).strand c.t.st =
              ((s.core pc).strand c.t.st).updGroup c.gid fun g => { g with sampled := g.sampled - 1 })
      ∧ ∀ row chunk, goes (.samplerCompare pc (some (row, chunk))) s fun t => dataKept s t
          ∧ (t.core pc).ctrs.smplfail = (s.core pc).ctrs.smplfail + 1
          ∧ t.aon.caseCounter = s.aon.caseCounter + 1
          ∧ ∃ a, t.hub.arbs = s.hub.arbs ++ [a] ∧ a.case = s.aon.caseCounter + 1 ∧ a.checker = 0 ∧ a.producer = pc
              ∧ a.checkerCore = s.neighbour pc ∧ a.verdict = none)
    ∧ ((s.core pc).captures = [] → idles (.samplerReexecute pc) s ∧ ∀ d, idles (.samplerCompare pc d) s)

/-! ### Transfers -/

namespace Sys2Proof.Statements

/-- The X stream of strand `t` with an instruction in flight as fragments `fr`, its addresses translated (R54, R185). -/
def inFlight (s : State) (t : StrandId) (fr : List Frag) : State :=
  (s.granted (t.stream .x)).updStream (t.stream .x) fun x =>
    let l := s.latch (t.stream .x)
    let pts := if fr.isEmpty then ([], []) else s.xPts t l
    let y : Xfer := { id := x.nextId, latch := l, frags := fr, at_ := s.now, dpts := pts.1, apts := pts.2 }
    { x with nextId := x.nextId + 1, xfers := x.xfers ++ [y] }

/-- The transfer queue has room for `fr` and no earlier instruction of the stream interlocks (R32, R54, R55). -/
abbrev roomFor (s : State) (t : StrandId) (fr : List Frag) : Prop :=
  (s.stream (t.stream .x)).entries + fr.length ≤ 64 ∧ s.interlocked t (s.latch (t.stream .x)) = false

/-- No interface is in reset or failed, and no core moves. -/
abbrev openPorts (s : State) : Prop := s.mem.inReset = [] ∧ s.mem.isolated = [] ∧ ∀ c, (s.ctx c).subst = []

/-- No element of a transfer lies in the buddy window, and no access waits or is cut off. -/
abbrev localOnly (s : State) (els : List XEl) : Prop :=
  (∀ e ∈ els, e.src.place ≠ .buddy ∧ e.dst.place ≠ .buddy) ∧ openPorts s

/-- A fragment that meets no link failure, no isolated block, no error, no lost word and no wait. -/
def quiet : FragEnv := { link := false, isolated := false, errs := [], bank := {} }

/-- The number an instruction of the X stream gets as it issues. -/
def nextX (s : State) (t : StrandId) : Nat := (s.stream (t.stream .x)).nextId

/-- The X instructions that copy or accumulate memory: their constructor, opcode and GATH field, and the faults
they may meet at issue. -/
def copyOps : List ((StrandId → Instr) × Nat × Nat × (State → StrandId → Latch → List Flt)) :=
  [(.xcopy, 0x60, 0, fun s t l => s.copyFlts t l), (.gatherRecord, 0x60, 1, fun s t l => s.copyFlts t l),
   (.gatherCheck, 0x60, 2, fun s t l => s.copyFlts t l), (.xacc, 0x61, 0, fun s t l => s.accFlts t l)]

end Sys2Proof.Statements

/-- R54 to R56, R158, R204, R310, R311: XCOPY, with each value of GATH, and XACC issue as fragments that take
entries of the transfer queue, and the stream goes on; no byte, poison bit or semaphore changes yet. An instruction
that finds too few entries waits; one of more than 64 fragments raises QUEUE_OVERFLOW; another fault of its operands
is raised before either. -/
def Sys2Proof.Statements.copiesIssue : Prop :=
  ∀ op ∈ copyOps, ∀ (s : State) (t : StrandId),
    let i := t.stream .x
    let l := s.latch i
    let fr := s.copyFrags t l
    s.canIssue i op.2.1 = true → gathOf (s.stream i).word = op.2.2.1 →
      (op.2.2.2 s t l = [] → fr ≠ [] → fr.length ≤ 64 → roomFor s t fr → localOnly s (s.xElems t l) →
        goes (op.1 t) s fun u => dataKept s u ∧ u = (inFlight s t fr).xPass i)
      ∧ (op.2.2.2 s t l = [] → fr.length ≤ 64 → ¬roomFor s t fr → idles (op.1 t) s)
      ∧ (op.2.2.2 s t l = [] → 64 < fr.length → exec (op.1 t) s = .next (s.faultAt i l.word true ⟨7, 0xFF, fr.length⟩))
      ∧ (op.2.2.2 s t l ≠ [] → ∀ e, bestFault (orderFlts (op.2.2.2 s t l)) = some e →
        exec (op.1 t) s = .next (s.faultAt i l.word true e))

/-- R56, R206: an instruction with no element completes as it issues, and signals. -/
def Sys2Proof.Statements.emptyTransferCompletes : Prop :=
  ∀ (s : State) (t : StrandId) (p : Nat),
    let i := t.stream .x
    let l := s.latch i
    s.pcore t.ctx t.vc = some p → s.canIssue i 0x60 = true → gathOf (s.stream i).word = 0 → s.copyFlts t l = [] →
    s.xElems t l = [] → roomFor s t [] → goes (.xcopy t) s fun u => ∃ v : State,
      u = (v.signalOf i l.word).xPass i ∧ v.mem.hbm = s.mem.hbm ∧ v.mem.ddr = s.mem.ddr ∧ v.sent = s.sent
        ∧ (∀ q, (v.core q).sp = (s.core q).sp ∧ (v.core q).cells = (s.core q).cells)
        ∧ (v.stream i).xfers = (s.stream i).xfers.filter fun y => y.id != nextX s t

/-- R54 to R56, R158, R204, R206, R310, R311: XCOPY, with each value of GATH, and XACC issue as fragments, or complete
at once without elements. -/
def Obligations.TransfersIssue : Prop := copiesIssue ∧ emptyTransferCompletes

/-- R158, R205, R206, R243: a fragment of an XCOPY moves the bits of its elements from A to D and completes: it
stores what its elements hold, less the bits that later elements of the instruction write, and no other byte. -/
def Sys2Proof.Statements.copyFragments : Prop :=
  ∀ (s : State) (t : StrandId) (id k : Nat) (x : Xfer) (f : Frag),
    s.xfer t id = some x → x.frags[k]? = some f → f.status = none → f.arrived = false →
    Word.opc x.latch.word = 0x60 → gathOf x.latch.word = 0 → x.latch.dEnt.glz = false → x.faulted = false → clean s →
      let w := xWidth x.latch
      let all := x.els
      let els := x.part f
      let later := (all.drop f.hi).flatMap fun e => (e.dst.ws w 0 false).map fun y => (e.dst.place, y)
      let ws := dropLater later (els.flatMap fun e => (e.dst.ws w (s.ptBits w e.src) false).map fun y => (e.dst.place, y))
      localOnly s all → (∀ e ∈ els, s.bad e.src.place e.src.off = false) → xMisuse w all = false →
        goes (.fragmentComplete t id k quiet) s fun u =>
          let q := (s.storeSpots ws).coverWrites x.cover ws
          u = (q.1.updXfer t id fun y => { y with cover := q.2 }).fragDone t id k
            ∧ ∀ pl a, (∀ y ∈ ws, y.1 = pl → y.2.addr ≠ a) → u.byteAt pl a = s.byteAt pl a

/-- R189, R190, R206: the base die applies an arrived XACC fragment as one step: each element of D becomes the sum
of D and A rounded once into D's format, and no other byte of any store changes; the fragment then completes. -/
def Sys2Proof.Statements.accumulateApplies : Prop :=
  ∀ (s : State) (t : StrandId) (id k : Nat) (x : Xfer) (f : Frag),
    s.xfer t id = some x → x.frags[k]? = some f → f.status = none → Word.opc x.latch.word = 0x61 → clean s →
      let l := x.latch
      let all := x.els
      let els := x.part f
      let env := (s.ctx t.ctx).roundEnv l
      let sum (e : XEl) : Nat := (roundTo [] (Desc.fmt (xD l)) (.ofNum
        ((decodeElem [] (Desc.fmt (xD l)) (s.ptBits 16 e.dst)).add (decodeElem [] (Desc.fmt (xA l)) (s.ptBits 16 e.src))))
        env.mode (env.rnd e.e)).1
      localOnly s all → xMisuse 16 all = false →
      (f.applied = false → f.arrived = true → f.met = [] → x.orig = [] →
        (∀ e ∈ els, s.bad e.src.place e.src.off = false) →
        (∀ e ∈ all, e.dst.place = .hbm ∧ e.dst.off % 2 = 0) → (all.map fun e => e.dst.off).Nodup →
        goes (.xaccApply t id k []) s fun u =>
          (∀ e ∈ els, u.ptBits 16 e.dst = sum e % 65536)
          ∧ (∀ a, (∀ e ∈ els, a ≠ e.dst.off ∧ a ≠ e.dst.off + 1) → u.byteAt .hbm a = s.byteAt .hbm a)
          ∧ u.mem.ddr = s.mem.ddr ∧ u.mem.stage = s.mem.stage ∧ (∀ q, (u.core q).sp = (s.core q).sp))
      ∧ (f.applied = true → exec (.fragmentComplete t id k quiet) s = .next (s.fragDone t id k))

/-- R190, R208: an XACC fragment enters the stack's pending granules once there is room for all of its granules, and
waits otherwise, with no other effect (log 134: one that meets none pending there enters whatever its size); in
Reproducible mode a granule on which another instruction's fragment is pending is poisoned and is not applied. -/
def Sys2Proof.Statements.accumulateWaitsForRoom : Prop :=
  ∀ (s : State) (t : StrandId) (id k : Nat) (x : Xfer) (f : Frag),
    s.xfer t id = some x → x.frags[k]? = some f → f.status = none → Word.opc x.latch.word = 0x61 →
    f.applied = false → f.arrived = false →
      let gs := accGranules (x.part f)
      let stack (g : Nat) : Nat := hbmStack s.mem.bandLocal (64 * g)
      let pending (g : Nat) : Nat := (s.mem.xaccPend.filter (·.1 = stack g)).length
      let full : Prop := ∃ g ∈ gs, pending g ≠ 0 ∧ 4096 < pending g + (gs.filter fun h => stack h = stack g).length
      let met := gs.filter fun g => s.mem.xaccPend.any fun e => e.2.1 = g && !(e.2.2.1 = t && e.2.2.2 = id)
      (full → exec (.xaccWaitRoom t id k) s = .next (s.updFrag t id k fun f => { f with waiting := true }))
      ∧ (¬full → ((s.ctx t.ctx).cfg.set.arrival = true ∨ met = []) → goes (.xaccWaitRoom t id k) s fun u =>
          u.mem = { s.mem with xaccPend := s.mem.xaccPend ++ gs.map fun g => (stack g, g, t, id) }
            ∧ u.ctxs = s.ctxs ∧ (∀ q, (u.core q).sp = (s.core q).sp ∧ (u.core q).cells = (s.core q).cells))
      ∧ (¬full → (s.ctx t.ctx).cfg.set.arrival = false → goes (.xaccWaitRoom t id k) s fun u =>
          (∀ g ∈ met, SMap.get false u.mem.hbmPoison g = true) ∧ u.mem.hbm = s.mem.hbm
            ∧ (∀ g, g ∉ met → SMap.get false u.mem.hbmPoison g = SMap.get false s.mem.hbmPoison g))

/-- R158, R189, R190, R205, R206, R208, R243 (and log 134): fragments of XCOPY and XACC wait for room, have their effect
and complete. -/
def Obligations.TransferFragments : Prop := copyFragments ∧ accumulateApplies ∧ accumulateWaitsForRoom

/-- R160: XRSIG sends its increment to semaphore RSEM at endpoint EP, and its fragment completes when the endpoint
acknowledges it; an endpoint that is not granted raises SEM_RANGE at issue. -/
def Obligations.RemoteSignals : Prop :=
  ∀ (s : State) (t : StrandId),
    let i := t.stream .x
    let m := Word.imm (s.stream i).word
    let ep := bits m 16 16
    let fr : List Frag := [{ lo := 0, hi := 1 }]
    s.canIssue i 0x64 = true →
      ((s.ctx t.ctx).granted ep = true → roomFor s t fr →
        exec (.xrsig t) s = .next (((inFlight s t fr).fabSend t.ctx ep 5 true
          (BitVec.ofNat 64 (bits m 0 16 + 2 ^ 16 * bits m 32 4)) 0 0 0 [] 0 (some ⟨t, nextX s t, 0, 0, 0⟩)).xPass i))
      ∧ ((s.ctx t.ctx).granted ep = false →
        exec (.xrsig t) s = .next (s.faultAt i (s.stream i).word true ⟨5, 7, bits m 0 16 + 2 ^ 16 * ep⟩))

namespace Sys2Proof.Statements

/-- The X instructions that a plan governs: constructor, opcode, which words are theirs, the faults at issue, whether
their plan entry is null, their fragments, and how they begin under another plan. -/
structure PlanOp where
  ins : BankedStrand → Instr
  code : Nat
  mine : Word → Bool
  flts : State → StrandId → Latch → List Flt
  null : Ctx → Nat → Bool
  frags : State → StrandId → Latch → List Frag
  start : State → StrandId → Latch → Nat → State

def planOps : List PlanOp :=
  [⟨.xcoll, 0x62, fun _ => true, fun s t l => s.collFlts t l, fun x n => Plan.op (x.collPlan n) = 0,
      fun s t l => s.collFrags t l, fun s t _ id => (s.collStart t id).collDone t.ctx⟩,
   ⟨.xdispDispatch, 0x63, fun w => dirOf w = 0, dispFlts, fun x n => Plan.kind (x.dispPlan n) = 0, dispFrags,
      fun s t l id => s.dispStart t l id⟩,
   ⟨.xdispCombine, 0x63, fun w => dirOf w = 1, combFlts, fun x n => Plan.kind (x.dispPlan n) = 0, combFrags,
      fun s t l id => s.combStart t l id⟩]

/-- What a stream's landings leave: the stream goes on from `v`, and nothing of bank arbitration stays behind. -/
def passedOn (u v : State) (i : StreamId) : Prop := u = { v.xPass i with bank := {} }

/-- The bytes of the points of width `w`, each with its place. -/
def spotsOf (w : Nat) (l : List Pt) : List (Place × Nat) := l.flatMap fun q => (q.bytes w).map fun a => (q.place, a)

/-- Every byte outside `l` reads as before. -/
def restKept (s u : State) (l : List (Place × Nat)) : Prop := ∀ pl a, (pl, a) ∉ l → u.byteAt pl a = s.byteAt pl a

/-- Points that can be read at once: none in the buddy window, none poisoned. -/
abbrev soundPts (s : State) (w : Nat) (l : List Pt) : Prop :=
  ∀ q ∈ l, q.place ≠ .buddy ∧ s.bad q.place q.off = false ∧ ∀ a ∈ q.bytes w, s.bad q.place a = false

end Sys2Proof.Statements

/-- R159, R276: XCOLL and XDISP under the null plan move nothing, count in XNULL and are complete. -/
def Sys2Proof.Statements.nullPlans : Prop :=
  ∀ op ∈ planOps, ∀ (s : State) (t : StrandId) (b : BankEnv) (p : Nat),
    let i := t.stream .x
    let l := s.latch i
    let id := nextX s t
    s.pcore t.ctx t.vc = some p → s.canIssue i op.code = true → op.mine l.word = true → op.flts s t l = [] →
    op.null (s.ctx t.ctx) (planOf l.word) = true → roomFor s t [] →
      goes (op.ins ⟨t, b⟩) s fun u => ∃ v : State, passedOn u v i ∧ (v.xfer t id).isNone = true
        ∧ (v.stream i).ctrs = { (s.stream i).ctrs with xnull := (s.stream i).ctrs.xnull + 1 }
        ∧ restKept s v [] ∧ v.sent = s.sent ∧ v.mem.hbmPoison = s.mem.hbmPoison

/-- R273, R276, R281, R284: under another plan XCOLL and XDISP issue as fragments and join the instance of their plan. -/
def Sys2Proof.Statements.plansJoin : Prop :=
  ∀ op ∈ planOps, ∀ (s : State) (t : StrandId) (b : BankEnv),
    let i := t.stream .x
    let l := s.latch i
    s.canIssue i op.code = true → op.mine l.word = true → op.flts s t l = [] →
    op.null (s.ctx t.ctx) (planOf l.word) = false → (op.frags s t l).length ≤ 64 → roomFor s t (op.frags s t l) →
      exec (op.ins ⟨t, b⟩) s = .next (s.withBank b fun s =>
        (op.start (inFlight s t (op.frags s t l)) t l (nextX s t)).xPass i)

/-- R273 to R276: where the only rank of a plan is of this context and XCOLL names the one element of its vector, an
ALLREDUCE or ALLGATHER completes at once: the element of D takes the wire value of A's element rounded into D's format, or
A's bits; no other byte changes; the XCOLL completes and the next instance opens. -/
def Sys2Proof.Statements.loneCollective : Prop :=
  ∀ (s : State) (t : StrandId) (b : BankEnv) (ca cd : Coord),
    let i := t.stream .x
    let l := s.latch i
    let x := s.ctx t.ctx
    let n := planOf l.word
    let p := x.collPlan n
    let fm := Desc.fmt (xD l)
    let w := fmtWidth fm
    let src := s.pt t (xA l) w ca
    let dst := s.pt t (xD l) w cd
    s.canIssue i 0x62 = true → s.collFlts t l = [] → (s.stream i).xfers = [] →
    (Plan.op p = 1 ∨ Plan.op p = 3) → Plan.nrank p = 1 → Plan.myrank p = 0 → Plan.len p = 1 → 0 < Plan.blks p →
    x.rankEp (Plan.rmbase p) 0 = none → x.collOf (Plan.id p) 0 = some n → x.collsOf (Plan.id p) = [n] → x.colls = [] →
    Desc.coords (xA l) = [ca] → Desc.coords (xD l) = [cd] → Desc.fmt (xA l) = fm → fm ≠ 12 →
    vecIndex t (xA l) (Plan.src p) 1 ca = some 0 → vecIndex t (xD l) (Plan.dst p) 1 cd = some 0 →
    clean s → openPorts s → soundPts s w [src] → dst.place ≠ .buddy → b.lost = [] →
      let bits := if Plan.op p = 3 then s.ptBits w src
        else (s.landBits x l fm 0 (ofWire (toWire (decodeElem x.cfg.fmt fm (s.ptBits w src))).1)).2.1
      goes (.xcoll ⟨t, b⟩) s fun u => ∃ v : State, passedOn u v i
        ∧ v.ptBits w dst = bits % 2 ^ w ∧ restKept s v (spotsOf w [dst])
        ∧ (v.xfer t (nextX s t)).isNone = true ∧ (v.ctx t.ctx).colls = [] ∧ (v.ctx t.ctx).collNow n = x.collNow n + 1

/-- R282, R283, R285: where the only rank of a dispatch plan is of this context, the dispatch of one token with one valid
record completes at once: the token's bytes go to the first slot of local expert 0, the token counts of the experts are
written, and no other byte changes. -/
def Sys2Proof.Statements.loneDispatch : Prop :=
  ∀ (s : State) (t : StrandId) (b : BankEnv) (e : U64),
    let i := t.stream .x
    let l := s.latch i
    let x := s.ctx t.ctx
    let n := planOf l.word
    let p := x.dispPlan n
    let num := SMap.get 0 x.dispCount n
    let w := fmtWidth (Plan.fmt p)
    let rec_ := recordOf s t (l.desc (Word.b l.word)) 0 0
    let v := leNat (rec_.map fun q => s.byteAt q.place q.off)
    let toks := s.tokenData t l p 0
    let data := (s.tokenBytes w toks).2.map Prod.fst
    let place (a : Nat) : Option (Place × Nat) := (s.spot t.ctx a).map fun q => (q.place, q.off)
    let slot (o : Nat) : Option (Place × Nat) := place (Plan.rxbase p + o)
    let count (o : Nat) : Option (Place × Nat) := place (Plan.cntbase p + o)
    let outs := (List.range (Plan.tokBytes p)).map slot ++ (List.range (4 * Plan.nlocal p)).map count
    s.canIssue i 0x63 = true → dirOf l.word = 0 → dispFlts s t l = [] → (s.stream i).xfers = [] →
    Plan.kind p ≠ 0 → Plan.nrank p = 1 → Plan.myrank p = 0 → Plan.k p = 1 → 0 < Plan.h p → 0 < Plan.nlocal p →
    0 < Plan.cap p → 0 < Plan.tmax p → data.length = Plan.tokBytes p → Desc.size (xA l) 1 = 1 →
    x.rankEp (Plan.drmbase p) 0 = none → x.dispOf (Plan.id p) 0 = some n → x.dispsOf (Plan.id p) = [n] → x.disps = [] →
    x.dispNow n ≤ num → bits v 31 1 = 0 → s.dirEntry t.ctx l.phase1 (bits v 0 20) = some e →
    bits e.toNat 0 16 = 0 → bits e.toNat 16 12 = 0 →
    clean s → openPorts s → soundPts s 8 rec_ → soundPts s w toks →
    outs.Nodup → (∀ z ∈ outs, ∃ q, z = some q ∧ q.1 ≠ .buddy) → b.lost = [] →
      goes (.xdispDispatch ⟨t, b⟩) s fun u => ∃ v : State, passedOn u v i
        ∧ (∀ o q, o < Plan.tokBytes p → slot o = some q → v.byteAt q.1 q.2 = data.getD o 0)
        ∧ (∀ o q, o < 4 * Plan.nlocal p → count o = some q → v.byteAt q.1 q.2 = if o = 0 then 1 else 0)
        ∧ restKept s v (outs.filterMap id)
        ∧ (v.xfer t (nextX s t)).isNone = true
        ∧ ((v.ctx t.ctx).disp n num).map (fun y => (y.dispDone, y.acc)) = some (true, [(0, 0, 1)])

/-- R284, R285: where the only rank of a dispatch plan is of this context and one token was dispatched to local expert 0,
the combine completes at once: each element of the token in D is the gate times the expert's output, rounded once; no other
byte changes, and the instance is over. -/
def Sys2Proof.Statements.loneCombine : Prop :=
  ∀ (s : State) (t : StrandId) (b : BankEnv) (y : DispInst) (gate : U16),
    let i := t.stream .x
    let l := s.latch i
    let x := s.ctx t.ctx
    let n := planOf l.word
    let p := x.dispPlan n
    let fm := Desc.fmt (xD l)
    let w := fmtWidth fm
    let r : DispRec := ⟨0, 0, 0, 0, gate⟩
    let outs := s.slotPts t l p y 0 0
    let dst := (s.tokenPts t l p 0).map Prod.snd
    let z : DispInst := { y with outs := [⟨0, 0, 0, 0, (s.tokenBytes 8 outs).2⟩] }
    s.canIssue i 0x63 = true → dirOf l.word = 1 → combFlts s t l = [] → (s.stream i).xfers = [] →
    Plan.kind p ≠ 0 → Plan.nrank p = 1 → Plan.myrank p = 0 → 0 < Plan.nlocal p → 0 < Plan.cap p → fm ≠ 12 →
    x.rankEp (Plan.drmbase p) 0 = none → x.dispOf (Plan.id p) 0 = some n → x.dispsOf (Plan.id p) = [n] →
    x.disps = [y] → y.plan = n → y.num = x.dispNow n → y.comb = none → y.ended = false → y.begun = true →
    y.placed = true → y.dispDone = true → y.waiting = [] → y.asked = false → y.returned = false → y.written = false →
    y.outs = [] → y.acked = y.sent → y.tokens = 1 → y.badTokens = [] → y.recs = [r] → y.counts = [(0, 0, 1)] →
    y.acc = [(0, 0, 1)] → dst.length = Plan.h p →
    clean s → openPorts s → soundPts s 8 outs → (∀ q ∈ dst, q.place ≠ .buddy) → (spotsOf w dst).Nodup → b.lost = [] →
      goes (.xdispCombine ⟨t, b⟩) s fun u => ∃ v : State, passedOn u v i
        ∧ (∀ h q, dst[h]? = some q → v.ptBits w q = (s.landBits x l fm h
            (combine Machine.Num.zero (chunkValue [(decodeElem [] 1 gate.toNat).mul (z.outElem x p r h).1])).1).2.1 % 2 ^ w)
        ∧ restKept s v (spotsOf w dst)
        ∧ (v.xfer t (nextX s t)).isNone = true ∧ (v.ctx t.ctx).disps = [] ∧ (v.ctx t.ctx).dispNow n = x.dispNow n + 1

/-- R159, R273 to R276, R281 to R285: XCOLL and XDISP move nothing under the null plan, join the instance of another plan,
and where this context holds the only rank complete at once with their results. -/
def Obligations.CollectivesIssue : Prop := nullPlans ∧ plansJoin ∧ loneCollective ∧ loneDispatch ∧ loneCombine

/-- R272: the shards of a plan cut its vector: every element lies in the shard of its owner and in no other, and
every owner is a rank of the plan. -/
def Obligations.ShardsPartition : Prop :=
  ∀ (p : Plan) (i : Nat), i < Plan.len p → 0 < Plan.nrank p →
    Plan.owner p i < Plan.nrank p
      ∧ ∀ k, ((Plan.shard p k).1 ≤ i ∧ i < (Plan.shard p k).2) ↔ k = Plan.owner p i

/-! ### Faults and the stop of a context -/

namespace Sys2Proof.Statements

/-- The fault record of a stream's instruction, as it is kept first, with `ofs` for the offset in a routine (Table 2.4,
R52). -/
def firstRecord (s : State) (i : StreamId) (word : Word) (pc : U32) (depth : Nat) (issue : Bool) (f : Flt) (ofs : U32) :
    FaultRec :=
  let rt := inRoutine word issue f
  { code := BitVec.ofNat 8 f.code, flags := if issue then 0x03 else if rt then 0x05 else 0x01
    ctx := BitVec.ofNat 8 i.ctx, strand := BitVec.ofNat 8 i.st, stream := BitVec.ofNat 8 i.eng.num
    depth := BitVec.ofNat 8 depth, vcore := BitVec.ofNat 16 i.vc
    pcore := BitVec.ofNat 16 ((s.pcore i.ctx i.vc).getD 0xFFFF)
    routine := if rt then BitVec.ofNat 16 (bits (Word.imm word) 0 16) else 0xFFFF, pc := pc
    routineOfs := ofs, operand := BitVec.ofNat 8 f.operand, count := 1, detail := BitVec.ofNat 64 f.detail
    time := s.aon.tbase, step := (s.ctx i.ctx).step, instr := word }

/-- An event record was added last. -/
def eventAdded (s t : State) (event : Nat) : Prop :=
  ∃ r, t.hub.cper.getLast? = some r ∧ r.event = BitVec.ofNat 8 event ∧ r.id = s.aon.recCounter
    ∧ t.aon.recCounter = s.aon.recCounter + 1

end Sys2Proof.Statements

/-- R52, R62 steps 1 to 4, R63, R65: a fault stops its whole context: every stream of it is Faulted, its first record is
the primary one, and no byte, poison bit or semaphore changes, nor any other context; a fault of a context that is
stopping already only adds its record. A fault inside a routine names the routine and a free offset. -/
def Obligations.FaultStopsContext : Prop :=
  ∀ (s : State) (i : StreamId) (word : Word) (pc : U32) (depth : Nat) (issue : Bool) (f : Flt),
    let c := i.ctx
    let t := s.fault i word pc depth issue f
    let rt := inRoutine word issue f
    (rt = false → t.freeCtr = s.freeCtr) ∧ ((s.ctx c).state = .ready →
      (t.ctx c).state = .stopping s.now ∧ (t.ctx c).stopCtl = false
        ∧ (∃ ofs, (rt = false → ofs = 0) ∧ (t.ctx c).records = [firstRecord s i word pc depth issue f ofs])
        ∧ (∀ j ∈ s.streamsOf c, (t.stream j).state = .faulted)
        ∧ (∀ j ∈ s.strandsOf c, (t.strand j).openGroup = none)
        ∧ dataKept s t ∧ t = { s with cores := t.cores, ctxs := t.ctxs, freeCtr := t.freeCtr }
        ∧ ∀ d, d ≠ c → t.ctx d = s.ctx d)
    ∧ (∀ n, (s.ctx c).state = .stopping n →
      t = { s with ctxs := t.ctxs, freeCtr := t.freeCtr } ∧ (∀ d, d ≠ c → t.ctx d = s.ctx d)
        ∧ (t.ctx c).nfaults = (s.ctx c).nfaults + 1 ∧ (t.ctx c).records.length ≤ 16
        ∧ (t.ctx c).state = .stopping n)
    ∧ ((s.ctx c).state = .faulted → t = { s with freeCtr := t.freeCtr })

/-- R62 steps 5 and 6: a stopping context with no instruction running and no open collective becomes Faulted, and its
primary record leaves in a context-fault event, or after a control error nothing does; while an instruction runs it
waits. -/
def Sys2Proof.Statements.contextComesToRest : Prop :=
  ∀ (s : State) (c n : Nat),
    let x := s.ctx c
    x.state = .stopping n → c < 16 →
      (s.ctxBusy c = true → idles (.contextQuiescent c) s)
      ∧ (s.ctxBusy c = false → x.colls = [] → x.disps = [] → s.twin.mode ≠ 2 → goes (.contextQuiescent c) s fun t =>
          (t.ctx c).state = .faulted ∧ dataKept s t ∧ t.cores = s.cores ∧ (∀ d, d ≠ c → t.ctx d = s.ctx d)
          ∧ (∀ r l, x.stopCtl = false → x.records = r :: l → eventAdded s t 5)
          ∧ (x.stopCtl = true → t.hub = s.hub ∧ t.sent = s.sent))

/-- R62 step 5: what still runs 1 ms after the fault is cut off, and not before: the destinations of matrix
instructions are poisoned and no instruction runs. -/
def Sys2Proof.Statements.cutoffAfterAMillisecond : Prop :=
  ∀ (s : State) (c n : Nat),
    let x := s.ctx c
    x.state = .stopping n → c < 16 →
      (s.now - n < 940000 → idles (.quiesceCutoff c) s)
      ∧ (940000 ≤ s.now - n → x.colls = [] → x.disps = [] → s.twin.mode ≠ 2 →
        (∀ t ∈ s.strandsOf c, (s.strand t).x.xfers = []) → goes (.quiesceCutoff c) s fun u =>
          (u.ctx c).state = .faulted ∧ u.mem = s.mem
          ∧ (∀ t ∈ s.strandsOf c, (u.strand t).mrun = none ∧ (u.strand t).closing = [])
          ∧ (∀ t ∈ s.strandsOf c, ∀ p r, s.pcore t.ctx t.vc = some p → (s.strand t).mrun = some r →
              ∀ g ∈ (foldOf r.latch).granules r.latch, SMap.get false (u.core p).poison g = true)
          ∧ ∀ q, (u.core q).sp = (s.core q).sp ∧ (u.core q).cells = (s.core q).cells)

/-- R62 steps 5 and 6: a stopping context comes to rest, or is cut off after 1 ms. -/
def Obligations.ContextStops : Prop := contextComesToRest ∧ cutoffAfterAMillisecond

/-! ### Errors in stores and datapaths -/

/-- R198 to R200, R455: the patrol scrub finds the errors of HBM4, DDR5 and staging: an uncorrectable one poisons its
granule in place, leaves every byte and every other granule as it was, and raises a memory event; errors of other
stores wait for a read. -/
def Sys2Proof.Statements.scrubFindsErrors : Prop :=
  ∀ (s : State) (e : MemErr), clean s →
    (e.store = .hbm → e.correctable = false → goes (.patrolScrub [e]) s fun t =>
      t.mem.latent = [] ∧ t.mem.hbm = s.mem.hbm ∧ t.cores = s.cores ∧ eventAdded s t 6
        ∧ ∀ g, SMap.get false t.mem.hbmPoison g = if g = e.addr / 64 then true else SMap.get false s.mem.hbmPoison g)
    ∧ (e.store = .hbm ∨ e.store = .ddr → e.correctable = true → goes (.patrolScrub [e]) s fun t =>
      t.mem.latent = [] ∧ t.mem.hbm = s.mem.hbm ∧ t.mem.ddr = s.mem.ddr ∧ t.mem.hbmPoison = s.mem.hbmPoison
        ∧ t.mem.ddrPoison = s.mem.ddrPoison ∧ t.cores = s.cores
        ∧ SMap.get 0 t.mem.corrected (storeIdx e.store) = SMap.get 0 s.mem.corrected (storeIdx e.store) + 1)
    ∧ (∀ p, e.store = .scratch p → exec (.patrolScrub [e]) s = .next { s with mem := { s.mem with latent := [e] } })

/-- R199, Table 7.8: a write clears the poison of a granule that it replaces whole with good data, sets that of a
granule that gets poisoned data, and leaves that of one it replaces in part; other granules keep theirs. -/
def Obligations.WritesMovePoison : Prop :=
  ∀ (q : Poison) (ws : List W) (g : Nat),
    let l := ws.filter fun w => w.addr / 64 = g
    ((∃ w ∈ l, w.bad = true) → SMap.get false (poisonAfter q ws) g = true)
    ∧ ((∀ w ∈ l, w.bad = false) → coversAll l (64 * g) 64 = true → 64 ≤ l.length →
        SMap.get false (poisonAfter q ws) g = false)
    ∧ ((∀ w ∈ l, w.bad = false) → coversAll l (64 * g) 64 = false →
        SMap.get false (poisonAfter q ws) g = SMap.get false q g)

/-- R300, R314, Table 7.8 (and the model's own form of memory): a store to a place keeps its bytes canonical, changes
no byte of that place it does not name and no byte of another place. -/
def Obligations.StoresAreLocal : Prop :=
  ∀ (s : State) (pl : Place) (ws : List W), clean s →
    (Memory.wf (s.memAt pl) = true → Memory.wf ((s.store pl ws).memAt pl) = true)
    ∧ (∀ a, (∀ w ∈ ws, w.addr ≠ a) → (s.store pl ws).byteAt pl a = s.byteAt pl a)
    ∧ (∀ pl', pl' ≠ pl → (s.store pl ws).memAt pl' = s.memAt pl')
    ∧ (∀ o b, (s.store pl [{ addr := o, val := b }]).byteAt pl o = b)

/-- R198, R327, R328: a parity error in a stream's core stops its context as a control error, with no fault record, and
makes the core suspect; one in data poisons the granule it reaches and makes the core where it lies suspect; one in the
directory stops its context as a control error; one in a collective engine with no open instance makes the engine
suspect; a reload of the library frees the routines it held. -/
def Sys2Proof.Statements.parityAndReload : Prop :=
  ∀ (s : State),
    (∀ (i : StreamId) (q : Nat), s.pcore i.ctx i.vc = some q → q < 272 → (s.core q).svc = .serving →
      (s.ctx i.ctx).state = .ready → i.ctx < 16 → goes (.datapathParityError (.stream i)) s fun t =>
        (t.core q).svc = .suspect ∧ (t.core q).suspectAt = s.now ∧ (t.ctx i.ctx).state = .stopping s.now
          ∧ (t.ctx i.ctx).stopCtl = true ∧ (t.ctx i.ctx).records = [] ∧ dataKept s t ∧ eventAdded s t 9)
    ∧ (∀ u e o, e.store = .hbm → goes (.datapathParityError (.data u [e] o)) s fun t =>
        SMap.get false t.mem.hbmPoison (e.addr / 64) = true ∧ t.mem.hbm = s.mem.hbm ∧ eventAdded s t 8
          ∧ (∀ q, o ≠ some q → t.core q = s.core q)
          ∧ ∀ q, o = some q → q < 272 → (s.core q).svc = .serving → (t.core q).svc = .suspect ∧ (t.core q).sp = (s.core q).sp)
    ∧ (∀ c, (s.ctx c).state = .ready → goes (.datapathParityError (.dir c)) s fun t =>
        (t.ctx c).state = .stopping s.now ∧ (t.ctx c).stopCtl = true ∧ (t.ctx c).records = [] ∧ dataKept s t ∧ eventAdded s t 9)
    ∧ (∀ h, (∀ c, c < 16 → (s.ctx c).colls = []) → s.fab.engine false h = .serving →
        goes (.datapathParityError (.coll h)) s fun t =>
          t.fab = s.fab.setEngine false h .suspect ∧ t.cores = s.cores ∧ t.ctxs = s.ctxs ∧ eventAdded s t 8)
    ∧ (∀ pc, (s.core pc).routineErr = true → goes (.libraryReload pc) s fun t =>
        coreOnly s t pc ∧ (t.core pc).routineErr = false ∧ (t.core pc).sp = (s.core pc).sp
          ∧ (t.core pc).cells = (s.core pc).cells
          ∧ ∀ n, n < 8 → ∀ e : Eng, (((t.core pc).strand n).stream e).held = false)
    ∧ (∀ pc, (s.core pc).routineErr = false → idles (.libraryReload pc) s)

/-- R198 to R200, R327, R328, R455: errors of stores and datapaths are found, counted, poisoned and raised. -/
def Obligations.ErrorsAreFound : Prop := scrubFindsErrors ∧ parityAndReload

/-! ### The queue, reset and fuses -/

/-- The form of a block: a step runs the command at the front of the queue on the state with the queue's rest; on an
empty queue one cycle passes, and once POR is released the time base moves on by 51,200/47 units of 2^-10 ns, and M
instructions that wait for slots or for the array's configuration count it (R92, R226; the empty queue is log 2's choice). -/
def Obligations.StepRunsFront : Prop :=
  ∀ (s : State),
    (∀ c q, step { s with pending := c :: q } = exec c { s with pending := q })
    ∧ (s.pending = [] → ∃ t, step s = .next t ∧ t.now = s.now + 1 ∧ t.pending = []
        ∧ t.ctxs = s.ctxs ∧ t.mem = s.mem ∧ t.hub = s.hub ∧ t.fab = s.fab ∧ t.twin = s.twin ∧ t.part = s.part
        ∧ (s.aon.stage = 0 → t.aon = s.aon ∧ t.cores = s.cores)
        ∧ (s.aon.stage ≠ 0 → t.cores = SMap.mapv {} s.cores Core.slotWait ∧ t.aon = { s.aon with
            tbase := s.aon.tbase + BitVec.ofNat 64 ((s.aon.tfrac + 51200) / 47)
            tfrac := (s.aon.tfrac + 51200) % 47 }))

/-- R30, R42, R44, R162, R173, R210, R380, R400, R408, R413, R414, R417: reset leaves POR asserted before stage 1 with
the queue empty; every stream Idle with its registers 0, every semaphore 0, every descriptor not valid, no context, no
spare in use, the vault without keys, no event and no notice, and the reset pattern of the twin not enabled. -/
def Obligations.ResetLeaves : Prop :=
  let r := State.reset
  r.pending = [] ∧ r.sent = [] ∧ r.aon.sources = [0] ∧ r.aon.stage = 0 ∧ r.aon.twinRstEnable = false
    ∧ (∀ p t e, (((r.core p).strand t).stream e).state = .idle ∧ (((r.core p).strand t).stream e).loops = []
        ∧ ((r.core p).strand t).descs = [])
    ∧ (∀ p n, SMap.get 0 (r.core p).cells n = 0) ∧ (∀ p, (r.core p).power = .off) ∧ (∀ c, (r.ctx c).state = .absent)
    ∧ r.part.dieB = [0, 0, 0, 0] ∧ r.vault.valid = false ∧ r.vault.key = 0 ∧ r.hub.cper = [] ∧ r.twin.mode = 0

namespace Sys2Proof.Statements

/-- Every fuse that is burned in `p` is burned in `q`, and what else identifies the chip is the same. -/
abbrev fusesKept (p q : Part) : Prop :=
  p.uds &&& q.uds = p.uds ∧ (∀ k, k < 4 → p.rk.getD k 0 &&& q.rk.getD k 0 = p.rk.getD k 0)
    ∧ p.revoke &&& q.revoke = p.revoke ∧ p.lcpos &&& q.lcpos = p.lcpos ∧ p.svn &&& q.svn = p.svn
    ∧ p.tampcnt &&& q.tampcnt = p.tampcnt ∧ p.retired <+: q.retired
    ∧ q.part = p.part ∧ q.stepping = p.stepping ∧ q.dieA = p.dieA ∧ q.trim = p.trim ∧ q.mac = p.mac
    ∧ q.mfgKey = p.mfgKey

end Sys2Proof.Statements

/-- R382, R383, R385, R339: a fuse that has been burned stays burned, whatever command or cycle comes, so that the
life-cycle state never goes back, a revoked key stays revoked, the security version and the tamper count never fall
and a retired core stays retired; identity never changes. -/
def Obligations.FusesOnlyBurn : Prop :=
  ∀ (p : Part) (s t : State), fusesKept p s.part → step s = .next t → fusesKept p t.part

/-- R382, Table 14.1 (and log 8): at reset of a part as manufactured no fuse is burned, so every part keeps
whatever it has burned from there. -/
def Obligations.FusesAtReset : Prop :=
  ∀ q : Part, q.part = State.reset.part.part → q.stepping = State.reset.part.stepping →
    q.dieA = State.reset.part.dieA → q.trim = State.reset.part.trim → q.mac = State.reset.part.mac →
    q.mfgKey = State.reset.part.mfgKey → fusesKept State.reset.part q

/-! ### Switches, seals, time -/

/-- R230: CONTEXT_SWITCH of a slice whose context has no stream Running or Waiting withdraws the grants of its virtual
cores, clears its cores, and changes no other core and no other context; 1,024 cycles later and not before its
streams are Idle and the slice leaves the context, and virtual cores of slices still being cleared stay withdrawn. -/
def Obligations.SwitchClearsTheSlice : Prop :=
  ∀ (s : State) (c k : Nat),
    let x := s.ctx c
    let mine (p : Nat) : Prop := p ∈ s.part.sliceCores k ∧ p ∈ x.grid
    (s.exists_ c = true → k ∈ x.slices → s.quiet c = true → (∀ e ∈ s.hub.clearing, e.1 ≠ k) →
      goes (.contextSwitch c k) s fun t =>
        (∀ p, mine p → (∀ a, a < 6291456 → Memory.read (t.core p).sp a = 0)
          ∧ (∀ g, g < 98304 → SMap.get false (t.core p).poison g = false)
          ∧ (t.core p).cells = [] ∧ (t.core p).holds = []
          ∧ ∀ n e, (((t.core p).strand n).stream e).state = .idle ∧ ((t.core p).strand n).descs = [])
        ∧ (∀ p, ¬mine p → t.core p = s.core p) ∧ (∀ d, d ≠ c → t.ctx d = s.ctx d)
        ∧ (∀ v ∈ x.sliceVcs k, v ∈ (t.ctx c).withdrawnCores)
        ∧ t.hub.clearing = s.hub.clearing ++ [(k, c, s.now)] ∧ (t.ctx c).slices = x.slices)
    ∧ (s.quiet c = false → idles (.contextSwitch c k) s)
    ∧ (∀ e, (s.hub.clearing.find? fun e => e.1 = k) = some e →
        (s.now - e.2.2 < 1024 → idles (.contextSwitchClearDone k) s)
        ∧ (1024 ≤ s.now - e.2.2 → s.exists_ e.2.1 = true → k ∈ (s.ctx e.2.1).slices → (s.ctx e.2.1).holdFor = none →
          goes (.contextSwitchClearDone k) s fun t =>
            (∀ p, p ∉ s.part.sliceCores k → t.core p = s.core p) ∧ (∀ d, d ≠ e.2.1 → t.ctx d = s.ctx d)
              ∧ (∀ p ∈ s.part.sliceCores k, (t.core p).sp = (s.core p).sp ∧ (t.core p).cells = (s.core p).cells
                  ∧ ∀ n g, (((t.core p).strand n).stream g).state = .idle)
              ∧ (∀ j, j ∈ (t.ctx e.2.1).slices ↔ j ∈ (s.ctx e.2.1).slices ∧ j ≠ k)
              ∧ (t.ctx e.2.1).grid = s.part.gridOf (t.ctx e.2.1).slices
              ∧ t.hub.clearing = s.hub.clearing.filter (fun z => z.1 != k)
              ∧ (t.ctx e.2.1).withdrawnCores =
                  ((t.hub.clearing.filter fun z => z.2.1 = e.2.1).map fun z => z.1).flatMap (t.ctx e.2.1).sliceVcs))

/-- R246, R226: FINAL_SEAL_CLOSE of a step that the step number has passed, with none of its instructions still to
complete, moves the step's glaze sums to the log and closes the step, and before that it waits; a device whose source is
PTP selects the better grandmaster, and over transparent clocks sets its time base within 5.3 ns of that one's time (how data
sets compare is log 148's). -/
def Obligations.SealsAndTime : Prop :=
  ∀ (s : State),
    (∀ c n,
      let x := s.ctx c
      (s.compares c = false → x.state = .ready → n ∈ x.openSteps → n.toNat < x.step.toNat → s.stepBusy c n = false →
        goes (.finalSealClose c n) s fun t => ctxOnly s t c
          ∧ (t.ctx c).openSteps = x.openSteps.filter (· != n)
          ∧ (t.ctx c).partials = x.partials.filter (fun p => !(p.step = n))
          ∧ (x.partials.filter (fun p => p.step = n) = [] → (t.ctx c).glog = x.glog))
      ∧ (n ∉ x.openSteps ∨ x.step.toNat ≤ n.toNat ∨ s.stepBusy c n = true → idles (.finalSealClose c n) s))
    ∧ (s.aon.tsource = 1 → s.pwr.dev ≠ .standby → ∀ (m : PtpMsg) time,
      let mine : Prop := ∃ r, s.aon.ptpMaster = some (m.clock, r)
      (m.kind = .sync ∨ (m.kind = .followUp ∧ s.aon.ptpTwoStep = true) → mine → m.transparent = true →
        goes (.ptpMessage m time) s fun t => t = { s with aon := t.aon, freeCtr := t.freeCtr }
          ∧ t.aon = { s.aon with
              tbase := t.aon.tbase, tfrac := 0
              ptpTwoStep := if m.kind = .followUp then false else s.aon.ptpTwoStep }
          ∧ (t.aon.tbase - time + 5427).toNat ≤ 10854)
      ∧ (m.kind = .syncTwoStep → mine →
          exec (.ptpMessage m time) s = .next { s with aon := { s.aon with ptpTwoStep := true } })
      ∧ (m.kind = .announce → s.aon.ptpMaster = none →
          exec (.ptpMessage m time) s = .next { s with aon := { s.aon with ptpMaster := some (m.clock, m.rank) } })
      ∧ (∀ g, m.kind = .announce → s.aon.ptpMaster = some g → g.1 ≠ m.clock →
          exec (.ptpMessage m time) s = .next { s with aon := { s.aon with ptpMaster := some (
            if m.rank < g.2 ∨ (m.rank = g.2 ∧ m.clock < g.1) then (m.clock, m.rank) else g) } })
      ∧ (m.kind = .delayReq ∨ m.kind = .delayResp ∨ (m.kind ≠ .announce ∧ ¬mine) → idles (.ptpMessage m time) s))
    ∧ (∀ m time, s.aon.tsource ≠ 1 → idles (.ptpMessage m time) s)

/-! ### Checkpoints -/

/-- R300, R301, R306, R307, R253: the copier moves the pages in order, those of the fence buffer first, each to its
place in the snapshot area; a write to a page still pending copies it ahead into the fence buffer, or holds while that
is full; once all pages have moved, table and manifest are written and read back, and where they stand as written the
checkpoint commits; a poisoned page, a change of pair mode, an area too small or a bad read-back abandons it; the
closure record follows when the step has ended. -/
def Obligations.CheckpointCopies : Prop :=
  ∀ (s : State) (c : Nat) (k : Copying), (s.ctx c).ckpt.copying = some k → clean s →
    s.mem.inReset = [] → s.mem.isolated = [] →
    (∀ p r, k.fenced = p :: r → goes (.checkpointPageCopy c) s fun t =>
      (t.ctx c).ckpt.copying = some { k with fenced := r, bad := k.bad ++ (s.copyPage c k p).2 } ∧ t.cores = s.cores)
    ∧ (∀ p, k.fenced = [] → k.nextPending = some p → goes (.checkpointPageCopy c) s fun t =>
      (t.ctx c).ckpt.copying = some { k with
          next := p + 1, heldPages := k.heldPages.filter (· != p), bad := k.bad ++ (s.copyPage c k p).2 }
        ∧ t.cores = s.cores
        ∧ (∀ h pg i n, shardPage k.shards p = some (h, pg) → k.buddy = false → i < (k.capt.page h pg).1.length →
            (s.ctx c).localUnits[(h.at_ + pg * 65536 + i) >>> 36]? = some n →
            t.byteAt .ddr (n * 2 ^ 36 + (h.at_ + pg * 65536 + i) % 2 ^ 36) = (k.capt.page h pg).1.getD i 0))
    ∧ (∀ page, k.next ≤ page → page < shardPages k.shards → page ∉ k.early → goes (.copyBeforeWrite c page) s fun t =>
      ctxOnly { s with mem := { s.mem with fenceUsed := t.mem.fenceUsed } } t c
        ∧ (s.mem.fenceUsed < 16384 → t.mem.fenceUsed = s.mem.fenceUsed + 1
            ∧ (t.ctx c).ckpt.copying = some { k with early := k.early ++ [page], fenced := k.fenced ++ [page] })
        ∧ (16384 ≤ s.mem.fenceUsed → t.mem.fenceUsed = s.mem.fenceUsed
            ∧ (t.ctx c).ckpt.copying = some { k with early := k.early ++ [page], heldPages := k.heldPages ++ [page] }))
    ∧ (∀ page, page ∈ k.heldPages →
      (s.mem.fenceUsed < 16384 → goes (.heldWriteResume c page) s fun t =>
        t.mem = { s.mem with fenceUsed := s.mem.fenceUsed + 1 }
          ∧ (t.ctx c).ckpt.copying = some { k with
              heldPages := k.heldPages.filter (· != page), fenced := k.fenced ++ [page] })
      ∧ (16384 ≤ s.mem.fenceUsed → idles (.heldWriteResume c page) s))
    ∧ (s.modeStands k = false → exec (.checkpointCommit c) s = .next (s.abandonCkpt c 4))
    ∧ (s.modeStands k = true → (k.nextPending.isSome = true ∨ k.fenced ≠ []) → idles (.checkpointCommit c) s)
    ∧ (s.modeStands k = true → k.nextPending = none → k.fenced = [] → (k.buddy = true → s.buddyPending c = false) →
      (s.copyFits c k = false → exec (.checkpointCommit c) s = .next (s.abandonCkpt c 1))
      ∧ (s.copyFits c k = true → s.canSign = false → exec (.checkpointCommit c) s = .next (s.abandonCkpt c 5))
      ∧ (s.copyFits c k = true → s.canSign = true → k.bad ≠ [] → exec (.checkpointCommit c) s = .next (s.abandonCkpt c 2))
      ∧ (s.copyFits c k = true → s.canSign = true → k.bad = [] → s.twin.mode ≠ 2 → k.back = 0 → k.buddy = true →
          exec (.checkpointCommit c) s = .next ((s.commitWrite c k).setCopy c (some { k with back := 1 })))
      ∧ (s.copyFits c k = true → s.canSign = true → k.bad = [] → s.twin.mode ≠ 2 → k.back = 0 → k.buddy = false →
          goes (.checkpointCommit c) s fun t =>
          let z := (t.ctx c).ckpt.slot k.slotB
          let v := s.commitWrite c k
          (v.backOk c k = false → t = v.abandonCkpt c 1) ∧ (v.backOk c k = true →
          (t.ctx c).ckpt.copying = none ∧ z.valid = true ∧ manStep z.manifest = k.capt.step.toNat
            ∧ z.manifest = s.manifest c k.capt k.shards ∧ z.capt = some k.capt ∧ z.closure = [] ∧ z.drained = false
            ∧ (t.ctx c).ckpt.slot (!k.slotB) = (s.ctx c).ckpt.slot (!k.slotB) ∧ t.cores = s.cores)))
    ∧ (∀ (d : Nat) b e, (s.ctx d).ckpt.closable = some (b, e) → s.canSign = true → (s.ctx d).openSteps = [] →
      goes (.stepClosureWrite d) s fun t =>
        ((t.ctx d).ckpt.slot b).closure = closureRec s.vault e ((s.ctx d).ckpt.slot b).manifest
          ∧ (t.ctx d).ckpt.slot (!b) = (s.ctx d).ckpt.slot (!b) ∧ t.cores = s.cores)

/-- R315 to R318, R313: RESIZE_HOLD changes the units of a context that stands still at its snapshot barrier and lets it
go on, refuses with NO_RESOURCE what there is no room for, and waits while the context does not stand; AUTO_RESTORE
puts a Faulted context that asks for it back to the newest valid checkpoint of its LOCAL area where that verifies, with its
step, and starts its strands; for one in the twin's region it asks the twin first. -/
def Obligations.HoldsAndRestores : Prop :=
  ∀ (s : State) (c : Nat),
    let x := s.ctx c
    let served : Prop := ∀ d h, s.fab.engine d h = .serving
    (∀ r, x.resize = some r → r.receiver = false → r.other = none → r.was = none → served →
        x.cfg.set.snapbar.isSome = true →
      (s.standing c = false → idles (.resizeHold c) s)
      ∧ (∀ e, s.standing c = true → s.resizeRefused c r = some e → goes (.resizeHold c) s fun t =>
          (t.ctx c).resize = none ∧ (t.ctx c).hbmUnits = x.hbmUnits ∧ (t.ctx c).slices = x.slices ∧ t.mem = s.mem
            ∧ (t.ctx c).dagger = x.dagger.map fun d =>
                { d with ready := true, status := BitVec.ofNat 8 e.1, detail := BitVec.ofNat 32 e.2 })
      ∧ (∀ n, s.resizeRoom c r = .inl n → s.resizeRefused c r = some (6, n))
      ∧ (∀ h d b, s.standing c = true → s.resizeRoom c r = .inr (h, d, b) → s.resizeRefused c r = none → r.mask = 0 →
          r.nslice = 0 → goes (.resizeHold c) s fun t =>
            (t.ctx c).resize = none ∧ (t.ctx c).slices = x.slices ∧ (t.ctx c).grid = x.grid
              ∧ (t.ctx c).hbmUnits = x.hbmUnits.take r.hbmu ++ h ∧ (t.ctx c).ddrUnits = x.ddrUnits.take r.ddru ++ d
              ∧ t.mem.bandLocal = b
              ∧ (∀ u ∈ x.hbmUnits.drop r.hbmu, ∀ a, a < hbmUnitBytes u → t.byteAt .hbm (u * 2 ^ 34 + a) = 0)
              ∧ (t.ctx c).dagger = x.dagger.map fun d => { d with ready := true, status := 0, detail := 0 }))
    ∧ (x.resize = none → idles (.resizeHold c) s)
    ∧ (x.state = .faulted → x.cfg.set.autorestore = true → x.arbRestore = false → s.disputed c = false →
        let m := unitsImage s.mem.ddr x.localUnits 36
        (x.cfg.set.target ≠ 2 → clean s → match s.areaNewest c m 0 with
          | none => idles (.autoRestore c) s
          | some z =>
            let only := s.staleOf c (BitVec.ofNat 64 (manStep z.man)) z.pages
            let src := s.withKept c (srcFrom s.kept m (unitsImage s.mem.ddrPoison x.localUnits 30) z.man z.ofs) only
            exec (.autoRestore c) s = .next (
              if z.location = 0 ∧ s.restorable c src false = none ∧ s.verify c src x.cfg.set.arrival = none then
                (s.restore c src false only).resumeAll c (s.sessOf c) else s))
        ∧ (x.cfg.set.target = 2 → x.ckpt.awaiting = [] → exec (.autoRestore c) s = .next (
            s.awaitFar c ((List.range 16).map fun i => s.buddyBase c + 65536 * i))))
    ∧ (∀ (y : Src) (b : Bool) only, let u := s.restore c y b only
        (u.ctx c).state = .ready ∧ (u.ctx c).step = y.capt.step ∧ (u.ctx c).stopCtl = false ∧ (u.ctx c).colls = []
          ∧ (u.ctx c).ckpt.written = [])
    ∧ (x.state ≠ .faulted ∨ (x.cfg.set.autorestore = false ∧ x.arbRestore = false) → idles (.autoRestore c) s)

/-! ### Silent errors -/

/-- R334, R232: 10 ms after a core became suspect its context is stopped for it, and once it stands the copy to a spare
begins; 12,288 cycles after that the spare holds the core's scratchpad, semaphores and streams under the same virtual
core, the core is in proofing, and what waited for it goes on; without a spare its slice leaves the context, but a context's
only slice stays (log 145). -/
def Obligations.SuspectCoresMove : Prop :=
  ∀ (s : State) (p c v : Nat), s.ownerOf p = some (c, v) →
    let x := s.ctx c
    (s.now - (s.core p).suspectAt < 9400000 → idles (.substitutionHold p) s)
    ∧ ((s.core p).svc ≠ .suspect → idles (.substitutionHold p) s)
    ∧ (x.slices.length ≤ 1 → s.spareQuad p = none → idles (.substitutionHold p) s)
    ∧ ((s.core p).svc = .suspect → 9400000 ≤ s.now - (s.core p).suspectAt → x.state = .ready →
        (∀ e ∈ x.subst, e.1 ≠ p) → (2 ≤ x.slices.length ∨ (s.spareQuad p).isSome = true) →
      (x.holdFor = none → goes (.substitutionHold p) s fun t =>
        t = { s with cores := t.cores, ctxs := t.ctxs } ∧ (t.ctx c).holdFor = some p
          ∧ (∀ i, i ∈ (t.ctx c).resume ↔ i ∈ s.streamsOf c ∧ ((s.stream i).state = .running ∨ (s.stream i).state = .waiting))
          ∧ (∀ d, d ≠ c → t.ctx d = s.ctx d))
      ∧ (∀ q, x.holdFor = some p → s.atRest c = true → s.spareQuad p = some q → goes (.substitutionHold p) s fun t =>
          ctxOnly s t c ∧ t.ctx c = { x with subst := x.subst ++ [(p, s.now)] })
      ∧ (∀ k, x.holdFor = some p → s.atRest c = true → s.spareQuad p = none → s.part.sliceOf p = some k →
          exec (.substitutionHold p) s = .next (s.switchAll c [k])))
    ∧ (∀ e, (x.subst.find? fun e => e.1 = p) = some e →
      (s.now - e.2 < 12288 → idles (.substitutionCopyDone p) s)
      ∧ (∀ q, 12288 ≤ s.now - e.2 → s.spareQuad p = some q → x.holdFor = none → (∀ z ∈ x.heldIncs, z.1 ≠ p) →
          p < 272 → clean s → goes (.substitutionCopyDone p) s fun t => ∃ v : State, t = v.pokeEngines.pokeHosts.unhold c
            ∧ let n := s.part.spareCore (coreDie p) q
              v.mem = s.mem ∧ (v.ctx c).grid = (x.grid.map fun z => if z = p then n else z)
                ∧ (v.core n).sp = (s.core p).sp ∧ (v.core n).poison = (s.core p).poison
                ∧ (v.core n).cells = (s.core p).cells ∧ (v.core n).deferred = (s.core p).deferred
                ∧ (v.core n).strands = (s.core p).strands
                ∧ (v.core p).svc = .proofing ∧ (∀ z ∈ (v.ctx c).subst, z.1 ≠ p)))

/-- R256, R257, R331, Table 9.8 (and log 154): a verdict is recorded once and reported; one on a seal waits until the
context is quiescent and a slice for the third run is free, makes this device's party suspect where it names it, and asks
for the restore; one for the producer of a sampled tile product frees the granules its group had poisoned and makes the
checking core suspect. -/
def Obligations.ArbitrationDecides : Prop :=
  ∀ (s : State) (n : Nat) (th : Third) (a : Arb), (s.hub.arbs.find? fun a => a.case = n) = some a →
    (a.verdict.isSome = true → idles (.arbitrationVerdict n th) s)
    ∧ (a.verdict = none → a.checker = 1 → (s.ctx a.ctx).state.isStopping = true → idles (.arbitrationVerdict n th) s)
    ∧ (a.verdict = none → a.checker = 1 → (s.ctx a.ctx).state.isStopping = false →
      (∀ l, s.thirdSlices a.ctx = some l → goes (.arbitrationVerdict n th) s fun t =>
        let v := verdictOf true (a.compare th)
        (∃ b ∈ t.hub.arbs, b.case = n ∧ b.verdict = some v ∧ b.thirdCores = l.flatMap s.part.sliceCores)
          ∧ t.mem = s.mem ∧ (∀ q, (t.core q).sp = (s.core q).sp ∧ (t.core q).strands = (s.core q).strands)
          ∧ (s.exists_ a.ctx = true → (t.ctx a.ctx).arbRestore = true) ∧ eventAdded s t 0x0F
          ∧ ((v = 2 ∨ v = 4 ∨ (v = 1 ∧ a.produces = true) ∨ (v = 0 ∧ a.produces = false)) → a.engines = [] →
              ∀ q ∈ a.cores, q < 272 → (s.core q).svc = .serving → (t.core q).svc = .suspect))
      ∧ (∀ t, s.thirdSlices a.ctx = none → s.freeThird a.ctx = some t → exec (.arbitrationVerdict n th) s = .next t)
      ∧ (s.thirdSlices a.ctx = none → s.freeThird a.ctx = none → goes (.arbitrationVerdict n th) s fun t =>
          (∃ b ∈ t.hub.arbs, b.case = n ∧ b.verdict = some 3) ∧ t.cores = s.cores ∧ t.mem = s.mem ∧ eventAdded s t 0x0F))
    ∧ (∀ p, a.verdict = none → a.checker = 0 → s.pcore a.t.ctx a.t.vc = some p → (s.thirdCore a.producer).isSome = true →
        (∀ g ∈ (s.strand a.t).closing, g.gid ≠ a.gid) → (s.strand a.t).openGroup = none → (s.strand a.t).mrun = none →
        (∀ z ∈ s.hub.arbs, z.case = n ∨ ¬(z.checker = 0 ∧ z.t = a.t ∧ z.gid = a.gid)) →
        a.checkerCore < 272 → (s.core a.checkerCore).svc = .serving → goes (.arbitrationVerdict n .agreesProducer) s fun t =>
          (∃ b ∈ t.hub.arbs, b.case = n ∧ b.verdict = some 0) ∧ (t.core a.checkerCore).svc = .suspect
            ∧ (∀ g ∈ a.granules, SMap.get false (t.core p).poison g = false)
            ∧ (∀ q, (t.core q).sp = (s.core q).sp) ∧ eventAdded s t 0x0F)

namespace Sys2Proof.Statements

/-- R335, R338: a retest stands at the first setting of which no pass failed; three good passes end it there. -/
def settingsInOrder : Prop :=
  ∀ (k : Core) (n : Nat), n ≤ 7 → (∀ m, m < n → ∃ q ∈ k.proofs, q.setting = m ∧ k.good q = false) →
    (n = 7 → k.proofAt 7 0 = (7, false))
    ∧ (n < 7 → (∀ q ∈ k.proofs, q.setting = n → k.good q = true) →
        k.proofAt 7 0 = (n, decide (3 ≤ (k.proofs.filter (·.setting = n)).length)))

/-- R335 to R339: a core in proofing is released at the first setting that passed, which becomes its offsets; until then it
stands at the setting under test; it is retired where none passed or its release was under 90 days ago, and waits where it
would be the fifth of its rail with an offset. -/
def proofingDecides : Prop :=
  ∀ (s : State) (p : Nat) (l : List ProofPass),
    let k := s.core p
    let k' : Core := { k with proofs := k.proofs ++ l }
    let old : Prop := ∃ t, SMap.get none s.flash.released p = some t ∧ k.suspectAt - t < 7309440000000000
    let retired (t : State) (k : Core) : Prop :=
      t.core p = { k with svc := .retired, voff := 0, foff := 0 } ∧ (∀ q, q ≠ p → t.core q = s.core q) ∧ t.mem = s.mem
        ∧ t.part = { s.part with retired := s.part.retired ++ [(coreDie p, (s.part.spareFor p).getD 4, coreLocal p)] }
    (k.svc ≠ .proofing → idles (.proofingEnd p l) s)
    ∧ (k.svc = .proofing → old → goes (.proofingEnd p l) s fun t => retired t k)
    ∧ (k.svc = .proofing → ¬old → (∃ q ∈ l, q.setting ≠ 0) → 4 ≤ s.offsetsOn p → idles (.proofingEnd p l) s)
    ∧ (k.svc = .proofing → ¬old → ((∀ q ∈ l, q.setting = 0) ∨ s.offsetsOn p < 4) →
        (∀ a ∈ s.hub.arbs, a.case ∉ k.cases) → ∀ n d, k'.proofAt 7 0 = (n, d) →
      (n < 7 → d = false → exec (.proofingEnd p l) s = .next
        ((s.updCore p fun _ => k').updCore p fun k => { k with voff := min 3 n, foff := n - 3 }))
      ∧ (n < 7 → d = true → (n < 4 ∨ (s.part.sliceOf p).isSome = true) → goes (.proofingEnd p l) s fun t =>
        t.core p = { k with svc := .released, voff := min 3 n, foff := n - 3, cases := [], proofs := [] }
          ∧ SMap.get none t.flash.released p = some s.now
          ∧ (∀ q, q ≠ p → t.core q = s.core q) ∧ t.mem = s.mem ∧ t.ctxs = s.ctxs ∧ t.part = s.part
          ∧ eventAdded s t 0x0A)
      ∧ ((n = 7 ∨ (d = true ∧ 4 ≤ n ∧ s.part.sliceOf p = none)) → goes (.proofingEnd p l) s fun t => retired t k'))

/-- R328, R340: a repaired row is no longer suspect, loses its record of errors and is reported; one that cannot be repaired
stays suspect and is reported too. -/
def rowsAreRepaired : Prop :=
  ∀ (s : State) (r : RowId),
    let row := s.rowAt r.hbm r.base
    ((r.hbm, row) ∉ s.mem.suspectRows → ∀ b, idles (.rowRepair r b) s)
    ∧ ((r.hbm, row) ∈ s.mem.suspectRows → clean s →
      (goes (.rowRepair r true) s fun t => t.cores = s.cores ∧ eventAdded s t 0x0B
        ∧ t.mem = { s.mem with rowErrs := t.mem.rowErrs, suspectRows := t.mem.suspectRows }
        ∧ (∀ e ∈ t.mem.rowErrs, ¬(e.1 = r.hbm ∧ e.2.1 = row))
        ∧ ∀ z, z ∈ t.mem.suspectRows ↔ z ∈ s.mem.suspectRows ∧ z ≠ (r.hbm, row))
      ∧ (goes (.rowRepair r false) s fun t => t.cores = s.cores ∧ t.mem = s.mem ∧ eventAdded s t 0x0B
        ∧ Emission.event 0x340 [r.unit, r.base] ∈ t.sent))

end Sys2Proof.Statements

/-- R328, R335 to R340: cores in proofing are released or retired, and suspect rows repaired. -/
def Obligations.ProofingAndRows : Prop := settingsInOrder ∧ proofingDecides ∧ rowsAreRepaired

/-! ### Fabric frames -/

namespace Sys2Proof.Statements

/-- A command that a fabric frame with a PSN brings: which frames it takes, the effect of its message, and whether that may
write scratchpads, so that the command brings what bank arbitration makes of it. -/
structure FabOp where
  ins : FabFrame → BankEnv → Instr
  sel : FabFrame → Bool
  apply : FabFrame → State → Nat → Origin → State
  banked : Bool := true

/-- Tables 10.3 and 10.4. -/
def fabOps : List FabOp :=
  [{ ins := fun f b => .collContribution ⟨f, b⟩, sel := fun f => f.typ = 1 && !f.w1.getLsbD 48
     apply := fun f s c _ => s.takeContribution c f },
   { ins := fun f b => .collResult ⟨f, b⟩, sel := fun f => f.typ = 1 && f.w1.getLsbD 48
     apply := fun f s c _ => s.takeResult c f },
   { ins := fun f _ => .abandon f, sel := fun f => f.typ = 8
     apply := fun f s c _ => s.takeAbandon c f, banked := false },
   { ins := fun f b => .dtok ⟨f, b⟩, sel := fun f => f.typ = 2, apply := fun f s c o => s.takeDispatch c f o },
   { ins := fun f b => .dcntCounts ⟨f, b⟩, sel := fun f => f.typ = 3 && !f.w1.getLsbD 0
     apply := fun f s c o => s.takeDispatch c f o },
   { ins := fun f b => .dcntAccepted ⟨f, b⟩, sel := fun f => f.typ = 3 && f.w1.getLsbD 0
     apply := fun f s c o => s.takeDispatch c f o },
   { ins := fun f b => .dcmb ⟨f, b⟩, sel := fun f => f.typ = 4, apply := fun f s c o => s.takeDispatch c f o },
   { ins := fun f _ => .rsig f, sel := fun f => f.typ = 5
     apply := fun f s c o => s.takeSignal c o.1 f, banked := false },
   { ins := fun f _ => .barrierArrive f, sel := fun f => f.typ = 6 && !f.w0.getLsbD 8
     apply := fun f s c o => s.takeArrive c o.1 f, banked := false },
   { ins := fun f _ => .barrierReleaseMsg f, sel := fun f => f.typ = 6 && f.w0.getLsbD 8
     apply := fun f s c o => s.takeRelease c o.1 f, banked := false }]

/-- What a fabric command leaves whose frame does `x` to the state. -/
def FabOp.leaves (op : FabOp) (b : BankEnv) (s : State) (x : State → State) : State :=
  if op.banked then s.withBank b x else x s

/-- A frame that passes the first checks of R260 and R266. -/
abbrev forUs (s : State) (f : FabFrame) : Prop :=
  (s.fport f.port).up = true ∧ f.ip.dport = s.fab.udp ∧ f.dstdev = s.fab.fabdev ∧ f.crcOk = true ∧ f.ver = 1

/-- The connection as a frame finds it: its congestion mark noted. -/
def marked (s : State) (f : FabFrame) : State :=
  s.updConn f.dstctx.toNat f.dstep.toNat fun x => { x with ceEcho := x.ceEcho || f.ce }

/-- A connection with one more frame owed an acknowledgement. -/
def owing (s : State) (x : Conn) : Conn :=
  { x with owed := x.owed + 1, owedSince := if x.owed = 0 then s.now else x.owedSince }

end Sys2Proof.Statements

/-- R260, R266, R267: a fabric frame to another UDP port, for another device, with a wrong CRC, of another version or on a
port that is down has no effect but its count; one that no granted endpoint takes is answered ISOLATED; a new frame that its
receiver can take has its message's effect once, and is accepted and acknowledged as due; one that finds no room is answered
BUSY and not accepted; a duplicate has no effect and is acknowledged again, as ISOLATED or PLANMISS where that is its
answer. -/
def Obligations.FabricFrames : Prop :=
  ∀ op ∈ fabOps, ∀ (s : State) (f : FabFrame) (b : BankEnv), op.sel f = true →
    let c := f.dstctx.toNat
    let ep := f.dstep.toNat
    let x := (s.ctx c).conn ep
    let took (s : State) := (marked s f).updConn c ep fun x => x.accept f.psn s.now
    let does (x : State → State) : Prop := exec (op.ins f b) s = .next (op.leaves b s x)
    ((s.fport f.port).up = false → does id)
    ∧ ((s.fport f.port).up = true → f.ip.dport ≠ s.fab.udp →
        does fun s => s.updFport f.port fun p => { p with fabother := p.fabother + 1 })
    ∧ ((s.fport f.port).up = true → f.ip.dport = s.fab.udp → f.dstdev ≠ s.fab.fabdev →
        does fun s => s.updFport f.port fun p => { p with fabmisdir := p.fabmisdir + 1 })
    ∧ ((s.fport f.port).up = true → f.ip.dport = s.fab.udp → f.dstdev = s.fab.fabdev → f.crcOk = false →
        does fun s => s.updFport f.port fun p => { p with fabcrc := p.fabcrc + 1 })
    ∧ ((s.fport f.port).up = true → f.ip.dport = s.fab.udp → f.dstdev = s.fab.fabdev → f.crcOk = true → f.ver ≠ 1 →
        does id)
    ∧ (forUs s f → s.epOk f = false → goes (op.ins f b) s fun t => ∃ g : FabFrame,
        t.sent = s.sent ++ [.fab g] ∧ g.typ = 7 ∧ g.status = 3 ∧ g.w2 = f.psn ∧ g.port = f.port ∧ g.dstdev = f.srcdev
          ∧ t.cores = s.cores ∧ t.mem = s.mem)
    ∧ (forUs s f → s.epOk f = true → x.unacked = [] →
      ((f.psn - x.apsn).toNat < 4096 → f.psn ∉ x.got →
        ((marked s f).fabCheck c f = .ok → does fun s => (op.apply f (took s) c (ep, some f.psn)).ackDue c ep f)
        ∧ ((marked s f).fabCheck c f = .isolated →
          does fun s => (op.apply f (took s) c (ep, some f.psn)).fabAckOut c ep 3 f.psn)
        ∧ ((marked s f).fabCheck c f = .busy → does fun s => (marked s f).fabAckOut c ep 0x80 f.psn)
        ∧ ((marked s f).fabCheck c f = .planmiss → does fun s => (took s).fabAckOut c ep 0x81 f.psn))
      ∧ ((2 ^ 31 ≤ (f.psn - x.apsn).toNat ∨ ((f.psn - x.apsn).toNat < 4096 ∧ f.psn ∈ x.got)) →
        (((marked s f).fabCheck c f = .ok ∨ (marked s f).fabCheck c f = .busy) →
          does fun s => ((marked s f).updConn c ep (owing s)).ackDue c ep f)
        ∧ ((marked s f).fabCheck c f = .isolated → does fun s => (marked s f).fabAckOut c ep 3 f.psn)
        ∧ ((marked s f).fabCheck c f = .planmiss → does fun s => (marked s f).fabAckOut c ep 0x81 f.psn))
      ∧ (4096 ≤ (f.psn - x.apsn).toNat → (f.psn - x.apsn).toNat < 2 ^ 31 → does fun s => marked s f))

/-- R217, R227, R232, R274, R277: what messages do: a remote signal adds its increment to its semaphore, is held while
its core moves to a spare, or is dropped and counted where its core is outside the context; an arrival for the open
generation joins its unit, and one for a later generation than the next is dropped; a contribution new to its owner is
kept in order of arrival; an ABANDON of an instance that is not open changes nothing. -/
def Sys2Proof.Statements.messagesAct : Prop :=
  ∀ (s : State) (c ep : Nat) (f : FabFrame),
    let x := s.ctx c
    let sem := bits f.w0.toNat 0 16
    let inc := if bits f.w0.toNat 16 4 = 0 then 16 else bits f.w0.toNat 16 4
    let b := bits f.w0.toNat 0 6
    let w := x.unit b
    (∀ p, x.dropsSignal sem = false → s.pcore c (sem / 256) = some p →
        (s.coreMoves p = false → s.takeSignal c ep f = s.signal c sem inc (remoteKey ep))
        ∧ (s.coreMoves p = true → s.takeSignal c ep f = s.updCtx c fun x => { x with
            heldIncs := x.heldIncs ++ [(p, { cell := sem % 256, inc := inc, key := remoteKey ep, cycle := s.now })] }))
    ∧ (x.dropsSignal sem = true → ctxOnly s (s.takeSignal c ep f) c
        ∧ ((s.takeSignal c ep f).ctx c).ctrs.rsigdrop = x.ctrs.rsigdrop + 1)
    ∧ (barTree (x.bar b) = true → f.w2 = w.gen → w.child.length < barNchild (x.bar b) →
        s.takeArrive c ep f = (s.updUnit c b fun u =>
          { u with child := u.child ++ [⟨ep, bits f.w3.toNat 0 6, f.w1⟩] }).treeStep c b)
    ∧ (barTree (x.bar b) = true → f.w2 ≠ w.gen → f.w2 ≠ w.gen + 1 → s.takeArrive c ep f = s.barDrop c)
    ∧ (barTree (x.bar b) = true → barRoot (x.bar b) = false → f.w2 = w.gen → w.sent = true → ep = barParent (x.bar b) →
        w.trel = none → x.state = .ready → f.w1.toNat ≤ s.aon.tbase.toNat →
        s.takeRelease c ep f = ((s.sendReleases c w f.w1).releaseBar c b true).treeStep c b)
    ∧ ((∀ y ∈ x.colls, ¬(y.collid.toNat = f.collid ∧ y.num % 2 ^ 32 = f.inst)) → f.w1.getLsbD 0 = false →
        s.takeAbandon c f = s)
    ∧ (x.planFor f = none → s.takeContribution c f = s ∧ s.takeResult c f = s ∧ ∀ o, s.takeDispatch c f o = s)

/-- R267, R268: an acknowledgement frees the frames it names, and with the echo of congestion lowers the rate by an
eighth; BUSY has its frame wait; the acknowledgement of an XRSIG completes its fragment. -/
def Sys2Proof.Statements.acknowledgementsFree : Prop :=
  ∀ (s : State) (f : FabFrame),
    let c := f.dstctx.toNat
    let ep := f.dstep.toNat
    let x := (s.ctx c).conn ep
    let hit (u : Unacked) : Bool := ackedBy f.apsn f.sack u.psn
    forUs s f → f.typ = 7 → s.epOk f = true → f.status = 0 → x.unacked.length ≤ 4096 →
      ((∀ u ∈ x.unacked, u.dep = none) → goes (.fabricAck f) s fun t => ctxOnly s t c
        ∧ (t.ctx c).conn ep = { x with
            ceEcho := x.ceEcho || f.ce
            unacked := x.unacked.filter fun u => !hit u
            rate := if f.flags.getLsbD 1 then x.rate * 7 / 8 else x.rate
            echoAt := if f.flags.getLsbD 1 then s.now else x.echoAt }
        ∧ (∀ e, e ≠ ep → (t.ctx c).conn e = (s.ctx c).conn e)
        ∧ (t.ctx c).ctrs.fabce = (s.ctx c).ctrs.fabce + (if f.flags.getLsbD 1 then 1 else 0))
      ∧ (∀ u d y, x.unacked = [u] → hit u = true → u.dep = some d → s.xfer d.t d.id = some y →
          Word.opc y.latch.word = 0x64 → f.flags.getLsbD 1 = false →
          exec (.fabricAck f) s = .next (((marked s f).updConn c ep fun x => { x with unacked := [] }).fragDone d.t d.id d.frag))

/-- R217, R227, R232, R267, R268, R274, R277: what fabric messages do, and what their acknowledgements free. -/
def Obligations.MessagesAndAcknowledgements : Prop := messagesAct ∧ acknowledgementsFree

namespace Sys2Proof.Statements

/-- Frame `f` is the next of a connection that owes no acknowledgement yet: it will be taken, and nothing leaves for it. -/
abbrev arrives (s : State) (f : FabFrame) : Prop :=
  let x := (s.ctx f.dstctx.toNat).conn f.dstep.toNat
  forUs s f ∧ s.epOk f = true ∧ x.unacked = [] ∧ (f.psn - x.apsn).toNat < 4096 ∧ f.psn ∉ x.got
    ∧ f.flags.getLsbD 0 = false ∧ x.owed < 15

/-- Command `i` takes the message of context `c`; nothing else changes in memory, cores and other contexts, and no frame
leaves. -/
def reaches (i : Instr) (s : State) (c : Nat) (P : Ctx → Prop) : Prop :=
  goes i s fun t => P (t.ctx c) ∧ t.mem = s.mem ∧ t.cores = s.cores ∧ t.sent = s.sent ∧ t.hub = s.hub
    ∧ ∀ d, d ≠ c → t.ctx d = s.ctx d

/-- Messages of collectives: contributions wait at their owner, results at the ranks that land them, and an ABANDON ends an
instance. -/
def collMessages : Prop :=
  ∀ (s : State) (f : FabFrame) (k n : Nat), arrives s f →
    let c := f.dstctx.toNat
    let x := s.ctx c
    let p := x.collPlan k
    let y : CollInst := { collid := BitVec.ofNat 32 f.collid, plan := k, num := n }
    (f.typ = 1 → x.planFor f = some k → x.collsOf f.collid = [k] → Plan.id p = f.collid → x.collNum k f.inst = some n →
        Plan.check p = bits f.w3.toNat 0 8 → x.colls = [] → f.elems p ≠ [] →
      (f.w1.getLsbD 48 = false → (Plan.op p = 1 ∨ Plan.op p = 2) → (∀ v ∈ f.elems p, x.collRoom k n v.elem = true) →
          reaches (.collContribution ⟨f, {}⟩) s c fun z => z.colls = [{ y with vals := f.elems p }])
      ∧ (f.w1.getLsbD 48 = true → reaches (.collResult ⟨f, {}⟩) s c fun z => z.colls = [{ y with results := f.elems p }]))
    ∧ (∀ w, f.typ = 8 → f.w1.getLsbD 0 = false → x.colls = [w] → w.collid.toNat = f.collid → w.num % 2 ^ 32 = f.inst →
        w.landings = [] → w.latches = [] → w.defer = [] → reaches (.abandon f) s c fun z => z.colls = []
          ∧ z.ctrs = { x.ctrs with abandons := x.ctrs.abandons + 1 })

/-- Messages of dispatches: counts, accepted counts and outputs are kept as their instance's, tokens past those accepted
are counted and not written, and an ABANDON ends the instance. -/
def dispMessages : Prop :=
  ∀ (s : State) (f : FabFrame) (k n : Nat), arrives s f →
    let c := f.dstctx.toNat
    let ep := f.dstep.toNat
    let x := s.ctx c
    let p := x.dispPlan k
    let y : DispInst := { dispid := BitVec.ofNat 32 f.collid, plan := k, num := n }
    let ends (r : Nat) : List (Nat × Option (Nat × U32)) := if f.flags.getLsbD 2 then [(r, some (ep, f.psn))] else []
    (x.planFor f = some k → x.dispsOf f.collid = [k] → Plan.id p = f.collid → 2 ≤ Plan.nrank p →
      (x.disps = [] → x.dispNum k f.inst = some n →
        (f.typ = 3 → f.w1.getLsbD 0 = false → reaches (.dcntCounts ⟨f, {}⟩) s c fun z => z.disps =
          [{ y with counts := f.pairs.map fun q => (f.srcRank, q.1, q.2), ends := ends f.srcRank }])
        ∧ (f.typ = 3 → f.w1.getLsbD 0 = true → reaches (.dcntAccepted ⟨f, {}⟩) s c fun z => z.disps =
          [{ y with acc := f.pairs.map fun q => (f.dstRank, q.1, q.2), accEnds := ends f.dstRank }])
        ∧ (f.typ = 4 → reaches (.dcmb ⟨f, {}⟩) s c fun z => z.disps =
          [{ y with outs := [⟨f.srcRank, f.dstRank, bits f.w3.toNat 0 12, f.w1.toNat, f.data⟩] }]))
      ∧ (∀ w t id, f.typ = 2 → x.disps = [w] → w.plan = k → w.num % 2 ^ 32 = f.inst → w.placed = true →
          w.disp = some (t, id) → (s.xfer t id).isSome = true → w.begun = true → w.dispDone = false → w.waiting = [] →
          w.comb = none → w.accept p f.srcRank (bits f.w3.toNat 0 12) = 0 → w.tokGot + f.payload.length ≠ w.tokAll p →
          reaches (.dtok ⟨f, {}⟩) s c fun z =>
            z.disps = [{ w with tokRuns := w.tokRuns ++ [(f.srcRank, bits f.w3.toNat 0 12, f.w1.toNat, f.payload.length)] }]
              ∧ z.ctrs.dispdrop = x.ctrs.dispdrop + BitVec.ofNat 64
                ((List.range f.payload.length).filter fun i => (f.w1.toNat + i) % max 1 (Plan.tokBytes p) = 0).length))
    ∧ (∀ w, f.typ = 8 → f.w1.getLsbD 0 = true → x.disps = [w] → w.dispid.toNat = f.collid → w.num % 2 ^ 32 = f.inst →
        w.ended = false → w.disp = none → w.comb = none → reaches (.abandon f) s c fun z =>
          z.disps = [{ w with ended := true, waiting := [] }] ∧ z.ctrs = { x.ctrs with abandons := x.ctrs.abandons + 1 })

end Sys2Proof.Statements

/-- R274, R275, R277, R278, R283, R284, R285: what the messages of collectives and dispatches leave in their instances. -/
def Obligations.MessagesReachInstances : Prop := collMessages ∧ dispMessages

/-- An unacknowledged frame once it has left again by port `q` (R267): a retransmission after BUSY is not counted. -/
def Sys2Proof.Statements.sentAgain (u : Unacked) (q now : Nat) : Unacked :=
  { u with
    retx := if u.busy then u.retx else u.retx + 1
    sentAt := now
    lastPort := q
    busy := false
    left := true }

/-- R259, R260, R266 to R268: an unacknowledged frame leaves again after its wait, by the next port, and after the eighth
retransmission the connection fails; what is owed is acknowledged after 2 us; a lowered rate rises by 1 % after 16 us
without an echo; requests of the address protocols are answered and other frames counted; a port's link comes up once
released, and goes down. -/
def Sys2Proof.Statements.fabricTimers : Prop :=
  ∀ (s : State) (c ep : Nat),
    let x := (s.ctx c).conn ep
    (∀ psn u, ((x.unacked.take 4096).find? fun u => u.psn = psn) = some u →
      (s.now - u.sentAt < u.interval → idles (.fabricRetransmitTimer c ep psn) s)
      ∧ (u.interval ≤ s.now - u.sentAt → (u.busy = true ∨ u.retx < 8) → s.mayLeave c u = false →
          idles (.fabricRetransmitTimer c ep psn) s)
      ∧ (∀ q, u.interval ≤ s.now - u.sentAt → (u.busy = true ∨ u.retx < 8) → s.mayLeave c u = true →
          nextPort (s.portsOf ((s.ctx c).endpoint ep)) u.lastPort = some q →
          goes (.fabricRetransmitTimer c ep psn) s fun t =>
            (∃ g : FabFrame, t.sent = s.sent ++ [.fab g] ∧ g.psn = u.frame.psn ∧ g.payload = u.frame.payload ∧ g.port = q)
              ∧ (t.ctx c).ctrs.fabretx = (s.ctx c).ctrs.fabretx + (if u.left then 1 else 0)
              ∧ ((t.ctx c).conn ep).unacked = x.unacked.map (fun v => if v.psn = psn then sentAgain u q s.now else v)
              ∧ t.cores = s.cores ∧ t.mem = s.mem)
      ∧ (u.interval ≤ s.now - u.sentAt → u.busy = false → 8 ≤ u.retx → (∀ v ∈ x.unacked, v.dep = none) →
          (s.ctx c).colls = [] → (s.ctx c).disps = [] → goes (.fabricRetransmitTimer c ep psn) s fun t =>
            ((t.ctx c).conn ep).failed = true ∧ ((t.ctx c).conn ep).unacked = [] ∧ t.cores = s.cores ∧ t.mem = s.mem))
    ∧ ((x.owed = 0 ∨ s.now - x.owedSince < 1880) → idles (.fabricAckTimer c ep) s)
    ∧ (∀ q, 0 < x.owed → 1880 ≤ s.now - x.owedSince → pickPort (s.portsOf ((s.ctx c).endpoint ep)) 0 = some q →
        goes (.fabricAckTimer c ep) s fun t => ctxOnly { s with sent := t.sent } t c ∧ ((t.ctx c).conn ep).owed = 0
          ∧ ∃ g : FabFrame, t.sent = s.sent ++ [.fab g] ∧ g.typ = 7 ∧ g.status = 0 ∧ g.apsn = x.apsn ∧ g.port = q)
    ∧ (x.rate < 1000000 → 15040 ≤ s.now - x.echoAt → goes (.fabricRateRaise c ep) s fun t => ctxOnly s t c
        ∧ ((t.ctx c).conn ep).rate = min 1000000 (x.rate + 10000) ∧ ((t.ctx c).conn ep).echoAt = s.now)
    ∧ (s.now - x.echoAt < 15040 → idles (.fabricRateRaise c ep) s)
    ∧ (∀ k o, (s.fport k).up = false → idles (.fabricOtherFrame k o) s)
    ∧ (∀ k o, o ≠ .bad → (∀ f, o ≠ .transport f) → (s.fport k).up = true →
        exec (.fabricOtherFrame k o) s = .next (s.emit (.answer false k o)))
    ∧ (∀ k o, (s.fport k).up = true → (o = .bad ∨ ∃ f, o = .transport f ∧ f.ip.dport ≠ s.fab.udp) →
        goes (.fabricOtherFrame k o) s fun t => t = { s with fab := t.fab }
          ∧ (t.fport k).fabother = (s.fport k).fabother + 1 ∧ ∀ j, j ≠ k → t.fport j = s.fport j)
    ∧ (∀ k f, (s.fport k).up = true → f.ip.dport = s.fab.udp →
        (f.dstdev ≠ s.fab.fabdev → goes (.fabricOtherFrame k (.transport f)) s fun t => t = { s with fab := t.fab }
          ∧ (t.fport k).fabmisdir = (s.fport k).fabmisdir + 1)
        ∧ (f.dstdev = s.fab.fabdev → f.crcOk = false → goes (.fabricOtherFrame k (.transport f)) s fun t =>
            t = { s with fab := t.fab } ∧ (t.fport k).fabcrc = (s.fport k).fabcrc + 1))
    ∧ (∀ k, goes (.fabricLinkChange k false) s fun t => t = { s with fab := t.fab } ∧ (t.fport k).up = false)
    ∧ (∀ k, 7 ≤ s.aon.stage → .fabric k ∉ s.mem.inReset → s.pwr.dev ≠ .standby →
        goes (.fabricLinkChange k true) s fun t => t = { s with fab := t.fab } ∧ (t.fport k).up = true)
    ∧ (∀ k, s.aon.stage < 7 → idles (.fabricLinkChange k true) s)

/-- R277, R285: an instance whose first XCOLL or XDISP of this device was issued the wait limit ago ends; before that,
and with no limit, it stays. -/
def Sys2Proof.Statements.instancesTimeOut : Prop :=
  ∀ (s : State) (c n : Nat) (id : U32),
    let x := s.ctx c
    let lim := x.cfg.set.wlim.toNat * 1048576
    (∀ y t0, x.colls = [y] → y.collid = id → y.num = n → y.since = some t0 →
      ((lim = 0 ∨ s.now - t0 < lim) → idles (.collInstanceTimeout c false id n) s)
      ∧ (lim ≠ 0 → lim ≤ s.now - t0 → exec (.collInstanceTimeout c false id n) s = .next (s.collEnd c y)
          ∧ (y.landings = [] → y.latches = [] → y.defer = [] → goes (.collInstanceTimeout c false id n) s fun t =>
              ctxOnly s t c ∧ (t.ctx c).colls = [] ∧ (t.ctx c).ctrs.abandons = x.ctrs.abandons + 1)))
    ∧ (∀ y t0, x.disps = [y] → y.dispid = id → y.num = n → y.since = some t0 → y.ended = false →
      ((lim = 0 ∨ s.now - t0 < lim) → idles (.collInstanceTimeout c true id n) s)
      ∧ (lim ≠ 0 → lim ≤ s.now - t0 → exec (.collInstanceTimeout c true id n) s = .next (s.dispEnd c y)))

/-- R259, R260, R267, R268, R277, R285: the timers of connections and of instances, and the links of ports. -/
def Obligations.FabricTimersAndInstances : Prop := fabricTimers ∧ instancesTimeOut

/-! ### The twin link -/

namespace Sys2Proof.Statements

/-- The twin has been heard in this cycle. -/
def heard (s : State) : State := { s with twin := { s.twin with lastRx := s.now, silent := false } }

/-- The frame that was next has been taken. -/
def passed (s : State) : State := { s with twin := { s.twin with rxSeq := s.twin.rxSeq + 1 } }

/-- A command that a twin-link frame brings, with its channel, and whether what it lands may write scratchpads, so that it
brings what bank arbitration makes of it. -/
structure TwinOp where
  ins : TwinFrame → BankEnv → Instr
  chan : Byte
  banked : Bool := false

/-- Table 11.2. -/
def twinOps : List TwinOp :=
  [{ ins := fun f _ => .twinIdleFrame f, chan := 0 }, { ins := fun f _ => .twinBuddyFrame f, chan := 1 },
   { ins := fun f _ => .twinBreqFrame f, chan := 2 }, { ins := fun f _ => .twinBdataFrame f, chan := 3 },
   { ins := fun f _ => .twinSealFrame f, chan := 4 }, { ins := fun f b => .twinFabFrame ⟨f, b⟩, chan := 5, banked := true },
   { ins := fun f _ => .twinTimeFrame f, chan := 6 }, { ins := fun f _ => .twinCtrlFrame f, chan := 7 },
   { ins := fun f _ => .twinFailingFrame f, chan := 8 }]

/-- What a twin-link command leaves whose frame does `x` to the state. -/
def TwinOp.leaves (op : TwinOp) (b : BankEnv) (s : State) (x : State → State) : State :=
  if op.banked then s.withBank b x else x s

/-- A frame of channel `ch` that the link takes. -/
abbrev twinGood (s : State) (f : TwinFrame) (ch : Byte) : Prop :=
  s.twin.up = true ∧ f.crcOk = true ∧ f.ver = 1 ∧ f.chan = ch

/-- R288, R289, R291, R292: what every twin-link frame meets. -/
def twinChecks : Prop :=
  ∀ op ∈ twinOps, ∀ (s : State) (f : TwinFrame) (b : BankEnv),
    (s.twin.up = false → exec (op.ins f b) s = .next (op.leaves b s id))
    ∧ (s.twin.up = true → (f.crcOk = false ∨ f.ver ≠ 1 ∨ 9 ≤ f.chan.toNat) →
        exec (op.ins f b) s = .next (op.leaves b s State.twinDrop))
    ∧ (twinGood s f op.chan → s.twin.paired = false → op.chan ∉ [(0 : Byte), 3, 6, 7] →
        exec (op.ins f b) s = .next (op.leaves b s State.twinDrop))
    ∧ (twinGood s f op.chan → s.twin.paired = true → s.twin.unacked = [] → op.chan ≠ 0 → f.seq ≠ s.twin.rxSeq →
        exec (op.ins f b) s = .next (op.leaves b s heard))

/-- What each frame does when its turn has come. -/
def twinEffects : Prop :=
  ∀ (s : State) (f : TwinFrame), s.twin.paired = true → s.twin.unacked = [] → f.seq = s.twin.rxSeq →
    let o := f.aux.toNat
    (twinGood s f 0 → exec (.twinIdleFrame f) s = .next (heard s))
    ∧ (twinGood s f 1 → clean s → f.payload.length ≤ 4096 → goes (.twinBuddyFrame f) s fun t =>
        (∀ i a, i < f.payload.length → s.twin.regionOfs (o + i) = some a → t.byteAt .ddr a = f.payload.getD i 0)
          ∧ (∀ a, (∀ i, i < f.payload.length → s.twin.regionOfs (o + i) ≠ some a) → t.byteAt .ddr a = s.byteAt .ddr a)
          ∧ t.cores = s.cores ∧ t.twin = (passed (heard s)).twin)
    ∧ (twinGood s f 2 → clean s → 0 < fld f.payload 0 4 → fld f.payload 0 4 ≤ 4096 →
        (s.twin.regionOfs (o + fld f.payload 0 4 - 1)).isSome = true → s.twin.waiting = [] →
        goes (.twinBreqFrame f) s fun t => t.mem = s.mem ∧ t.cores = s.cores ∧ ∃ w, t.twin.unacked = [w]
            ∧ w.chan = 3 ∧ w.aux = f.aux ∧ w.payload.length = fld f.payload 0 4
            ∧ ∀ i a, i < fld f.payload 0 4 → s.twin.regionOfs (o + i) = some a → w.payload.getD i 0 = s.byteAt .ddr a)
    ∧ (twinGood s f 3 → s.aon.imageWait = none → (∀ c, c < 16 → (s.ctx c).disps = []) → goes (.twinBdataFrame f) s fun t =>
        (∀ i, i < f.payload.length → Memory.read t.twin.inMem (o + i) =
          if o + i ∈ s.twin.inOwn then Memory.read s.twin.inMem (o + i) else f.payload.getD i 0)
          ∧ t.twin.inHave = s.twin.inHave ++ [(o, f.payload.length)] ∧ t.mem = s.mem ∧ t.cores = s.cores)
    ∧ (twinGood s f 6 → s.aon.tsource = 0 → goes (.twinTimeFrame f) s fun t =>
        (t.aon.tbase - f.aux + 1085).toNat < 2 ^ 32 + 2170 ∧ t.mem = s.mem ∧ t.cores = s.cores
          ∧ t.twin = (passed (heard s)).twin)
    ∧ (twinGood s f 6 → s.aon.tsource ≠ 0 → s.twin.waiting = [] → goes (.twinTimeFrame f) s fun t =>
        t.aon = s.aon ∧ t.mem = s.mem ∧ t.cores = s.cores ∧ t.twin.rxSeq = s.twin.rxSeq + 1
          ∧ ∃ g : TwinFrame, t.sent = s.sent ++ [.twin g] ∧ g.chan = 6 ∧ g.aux = s.aon.tbase ∧ g.seq = s.twin.txSeq)
    ∧ (∀ c m, twinGood s f 4 → bits o 32 16 = 0 → f.aux.getLsbD 48 = true → s.partnerOf (bits o 0 16) = some c →
        s.compares c = true → (s.ctx c).sealsPeer = [] →
        ((s.ctx c).sealsMine.find? fun e => e.2.1 = bits o 16 16) = some m → (s.ctx c).state = .ready →
        (m.2.2 = f.payload → goes (.twinSealFrame f) s fun t =>
          (t.ctx c).sealAgreed = (s.ctx c).sealAgreed ++ [(m.1, bits o 16 16)] ∧ (t.ctx c).state = .ready
            ∧ t.hub = s.hub ∧ t.cores = s.cores)
        ∧ (m.2.2 ≠ f.payload → c < 16 → goes (.twinSealFrame f) s fun t =>
          (t.ctx c).state = .stopping s.now ∧ (t.ctx c).stopCtl = true ∧ (t.ctx c).records = []
            ∧ (t.ctx c).noCompare = true ∧ t.aon.caseCounter = s.aon.caseCounter + 1
            ∧ (∃ a, t.hub.arbs = s.hub.arbs ++ [a] ∧ a.checker = 1 ∧ a.ctx = c ∧ a.step = m.1) ∧ dataKept s t
            ∧ eventAdded s t 3))
    ∧ (∀ b, twinGood s f 5 → bits o 0 16 = 0 → f.aux.getLsbD 16 = true →
        let g := fabOf f.payload (BitVec.ofNat 128 (f.mask.toNat / 2))
        let whole (t : State) : State := passed { t with twin := { t.twin with fabSeg := [], fabMask := 0 } }
        g.ver = 1 → g.typ = 5 → s.epTwinOk g = true → (s.ctx g.dstctx.toNat).dropsSignal (bits g.w0.toNat 0 16) = false →
          exec (.twinFabFrame ⟨f, b⟩) s =
            .next (s.withBank b fun u => whole ((heard u).takeSignal g.dstctx.toNat g.dstep.toNat g)))
    ∧ (∀ c, twinGood s f 7 → 16 ≤ f.payload.length → s.twinChanIn = some c →
        let m := Msg.parse f.payload
        (m.cmd.toNat < 0x1001 ∨ 0x100A < m.cmd.toNat) → s.recvState (bindDst (s.bind c)) = 0 →
        ((s.chan c).slots.length < 8 → goes (.twinCtrlFrame f) s fun t =>
          (t.chan c).slots = (s.chan c).slots ++ [{ m with mseq := (s.chan c).mseq }]
            ∧ (∀ n, n ≠ c → t.chan n = s.chan n) ∧ t.twin = (passed (heard s)).twin ∧ t.cores = s.cores)
        ∧ (8 ≤ (s.chan c).slots.length → exec (.twinCtrlFrame f) s = .next (heard s)))
    ∧ (twinGood s f 8 → s.twin.mode ≠ 1 → s.twin.mode ≠ 3 → (∀ c, c < 16 → (s.ctx c).ckpt.copying = none) →
        (∀ c, c < 16 → ∀ e ∈ (s.ctx c).cfg.endpoints, epTwin e.2 = false) →
        goes (.twinFailingFrame f) s fun t => t.twin.mode = 0 ∧ t.twin.paired = false ∧ t.twin.lost = true
          ∧ t.sent.getLast? = some .twinReset ∧ t.mem = s.mem ∧ t.cores = s.cores ∧ t.ctxs = s.ctxs
          ∧ eventAdded s t 0x0D)

/-- Timers of the link. -/
def twinTimers : Prop :=
  ∀ (s : State),
    (s.twin.up = true → s.twin.unacked ≠ [] → 2820 ≤ s.now - s.twin.progressAt →
      (s.twin.rounds < 16 → goes .twinRetransmitTimer s fun t =>
        t = { s with sent := t.sent, twin := { s.twin with
            rounds := s.twin.rounds + 1, progressAt := s.now, lastTx := s.now } }
          ∧ t.sent = s.sent ++ s.twin.unacked.map fun u => Emission.twin
              (TwinFrame.sealed ⟨1, u.chan, u.seq, s.twin.rxSeq, u.aux, u.payload, u.mask, 0⟩))
      ∧ (16 ≤ s.twin.rounds → (∀ u ∈ s.twin.unacked, u.dep = none) → (∀ u ∈ s.twin.waiting, u.dep = none) →
        goes .twinRetransmitTimer s fun t => t.twin.up = false ∧ t.mem = s.mem ∧ t.cores = s.cores ∧ t.ctxs = s.ctxs))
    ∧ (s.now - s.twin.progressAt < 2820 → idles .twinRetransmitTimer s)
    ∧ (s.twin.up = true → 940 ≤ s.now - s.twin.lastTx → s.aon.tsource = 0 → s.twin.unacked = [] → s.twin.waiting = [] →
        goes .twinKeepaliveTimer s fun t => t.mem = s.mem ∧ t.cores = s.cores ∧ t.aon = s.aon ∧ t.twin.lastTx = s.now
          ∧ ∃ g : TwinFrame, t.sent = s.sent ++ [.twin g] ∧ g.chan = 6 ∧ g.aux = s.aon.tbase ∧ g.aseq = s.twin.rxSeq)
    ∧ (s.twin.up = true → 940 ≤ s.now - s.twin.lastTx → (s.aon.tsource ≠ 0 ∨ s.twin.unacked ≠ []) →
        goes .twinKeepaliveTimer s fun t => t = { s with sent := t.sent, twin := { s.twin with lastTx := s.now } }
          ∧ ∃ g : TwinFrame, t.sent = s.sent ++ [.twin g] ∧ g.chan = 0 ∧ g.aseq = s.twin.rxSeq)
    ∧ (s.now - s.twin.lastTx < 940 → idles .twinKeepaliveTimer s)
    ∧ (s.twin.paired = true → s.twin.silent = false → 9400 ≤ s.now - s.twin.lastRx → goes .twinSilent s fun t =>
        t.twin.silent = true ∧ t.mem = s.mem ∧ t.cores = s.cores ∧ t.ctxs = s.ctxs)
    ∧ (s.now - s.twin.lastRx < 9400 → idles .twinSilent s)
    ∧ (s.twin.up = false → .twin ∉ s.mem.inReset → s.pwr.dev ≠ .standby → 7 ≤ s.aon.stage →
      (s.aon.imageWait = none → goes (.twinLinkRetrain 8) s fun t => t.twin.up = true ∧ t.twin.lanes = 8
        ∧ t.mem = s.mem ∧ t.cores = s.cores ∧ t.hub = s.hub)
      ∧ (goes (.twinLinkRetrain 0) s fun t => t.twin = { s.twin with
            txSeq := t.twin.txSeq, unacked := t.twin.unacked, lastTx := t.twin.lastTx, progressAt := t.twin.progressAt }
          ∧ eventAdded s t 0x0C))
    ∧ (s.twin.up = true → ∀ n, idles (.twinLinkRetrain n) s)
    ∧ (s.aon.stage ≠ 0 → s.aon.twinRstEnable = false → goes .twinResetPattern s fun t =>
        eventAdded s t 0x0C ∧ t.cores = s.cores ∧ t.mem = s.mem ∧ t.ctxs = s.ctxs)
    ∧ (s.aon.stage ≠ 0 → s.aon.twinRstEnable = true → s.twin.up = false → goes .twinResetPattern s fun t =>
        t.ctxs = [] ∧ t.aon.stage = 1 ∧ t.aon.resetLog = s.aon.resetLog ++ [9] ∧ t.aon.twinRstEnable = false)

end Sys2Proof.Statements

/-- R226, R251, R269, R288 to R292, R296, R320 (and log 147 for TIME): a twin-link frame that is damaged, of another
version, of an unassigned channel, or not allowed before pairing is dropped and counted; one whose turn has not come
only shows that the twin lives; each other has its channel's effect once. -/
def Obligations.TwinFrames : Prop := twinChecks ∧ twinEffects

/-- R288, R291, R292, R417 (and log 147 for TIME): the link sends its window again after 3 us without progress and goes
down after 16 rounds, keeps itself alive after 1 us, notices silence after 10 us, trains once released, and resets the
device on the twin's pattern only while the latch allows it. -/
def Obligations.TwinTimers : Prop := twinTimers

/-! ### Host ports -/

namespace Sys2Proof.Statements

/-- The commands that frames of an open session bring. -/
def hostOps : List ((HostFrame → Instr) × Byte) :=
  [(.close, 5), (.keep, 6), (.hostAck, 7), (.msg, 8), (.db, 9), (.mask, 0x0A), (fun f => .bulkw f {}, 0x0C), (.bulkr, 0x0D)]

/-- A frame of type `ty` that a host port passes on. -/
abbrev hostGood (s : State) (f : HostFrame) (ty : Byte) : Prop :=
  s.hostUp f.port = true ∧ s.pwr.dev ≠ .standby ∧ f.ip.dport = s.hub.udp ∧ f.crcOk = true ∧ f.ver = 1 ∧ f.typ = ty

/-- A session whose frame in order has been taken. -/
def hostTook (s : State) (f : HostFrame) : State :=
  let k := f.sess.toNat
  ((s.updSession k fun x => { x with lastRx := s.now }).answersTo k f).updSession k fun x => { x with rxSeq := x.rxSeq + 1 }

/-- The session of a frame is open, the frame carries its cookie and is the next in order, and nothing else is under
way in it. -/
abbrev inTurn (s : State) (f : HostFrame) : Prop :=
  let x := s.session f.sess.toNat
  f.sess.toNat < 8 ∧ x.opened = true ∧ f.cookie = x.cookie ∧ f.seq = x.rxSeq ∧ x.unacked = [] ∧ x.ahead = []

/-- R361 to R363, R366: what every frame of a session meets. -/
def hostChecks : Prop :=
  ∀ op ∈ hostOps ++ [(.open_, 1), (.prove, 3)], ∀ (s : State) (f : HostFrame),
    ((s.hostUp f.port = false ∨ s.pwr.dev = .standby) → idles (op.1 f) s)
    ∧ (s.hostUp f.port = true → s.pwr.dev ≠ .standby → f.ip.dport ≠ s.hub.udp →
        exec (op.1 f) s = .next (s.updHport f.port fun p => { p with hostother := p.hostother + 1 }))
    ∧ (s.hostUp f.port = true → s.pwr.dev ≠ .standby → f.ip.dport = s.hub.udp → f.crcOk = false →
        exec (op.1 f) s = .next (s.updHport f.port fun p => { p with hostcrc := p.hostcrc + 1 }))
    ∧ (f.ip.dport = s.hub.udp → f.crcOk = true → (f.ver ≠ 1 ∨ f.typ ≠ op.2) → idles (op.1 f) s)
    ∧ (op ∈ hostOps → hostGood s f op.2 → (8 ≤ f.sess.toNat ∨ (s.session f.sess.toNat).opened = false) → idles (op.1 f) s)
    ∧ (op ∈ hostOps → hostGood s f op.2 → f.sess.toNat < 8 → (s.session f.sess.toNat).opened = true →
        f.cookie ≠ (s.session f.sess.toNat).cookie → goes (op.1 f) s fun t =>
          t = { s with sent := t.sent } ∧ ∃ g : HostFrame, t.sent = s.sent ++ [.host g] ∧ g.typ = 7 ∧ g.status = 8
            ∧ g.word = f.seq ∧ g.addr = f.addr ∧ g.udp = f.udp ∧ g.port = f.port)

/-- What frames of a session do in their turn. -/
def hostEffects : Prop :=
  ∀ (s : State) (f : HostFrame), inTurn s f →
    let k := f.sess.toNat
    let n := f.chan.toNat
    let b := s.bind n
    (hostGood s f 6 → exec (.keep f) s = .next ((hostTook s f).hostOwe k f))
    ∧ (hostGood s f 5 → goes (.close f) s fun t => (t.session k).opened = false ∧ (t.session k).cookie = 0
        ∧ (t.session k).unacked = [] ∧ (t.session k).nonce = none ∧ t.mem = s.mem ∧ t.cores = s.cores ∧ t.ctxs = s.ctxs)
    ∧ (hostGood s f 8 → n < 64 → bindValid b = true → bindSrc b = k → 16 ≤ f.payload.length → f.payload.length ≤ 256 →
        f.payload.length = 16 + fld f.payload 10 2 → 8 ≤ bindDst b → bindDst b < 12 → s.recvState (bindDst b) = 0 →
        ((s.chan n).slots.length < 8 → goes (.msg f) s fun t =>
          (t.chan n).slots = (s.chan n).slots ++ [{ Msg.parse f.payload with mseq := f.seq.setWidth 16 }]
            ∧ (∀ j, j ≠ n → t.chan j = s.chan j) ∧ t.mem = s.mem ∧ t.cores = s.cores ∧ t.ctxs = s.ctxs)
        ∧ (8 ≤ (s.chan n).slots.length → goes (.msg f) s fun t =>
          (t.chan n).slots = (s.chan n).slots ∧ (t.chan n).mbfull = (s.chan n).mbfull + 1
            ∧ ∃ g : HostFrame, .host g ∈ t.sent ∧ g.typ = 7 ∧ g.status = 2 ∧ g.word = f.seq))
    ∧ (hostGood s f 9 → n < 64 → bindValid b = true → bindSrc b = k → s.recvState (bindDst b) < 2 →
        goes (.db f) s fun t => (t.chan n).db = (s.chan n).db ||| f.word ∧ (t.chan n).slots = (s.chan n).slots
          ∧ (∀ j, j ≠ n → t.chan j = s.chan j) ∧ t.mem = s.mem ∧ t.cores = s.cores)
    ∧ (hostGood s f 0x0A → n < 64 → bindValid b = true → bindDst b = k → goes (.mask f) s fun t =>
        (t.chan n).mask = f.word ∧ (t.chan n).db = (s.chan n).db ∧ (∀ j, j ≠ n → t.chan j = s.chan j) ∧ t.mem = s.mem
          ∧ t.cores = s.cores)
    ∧ (hostGood s f 0x0C → n < 16 → 32 < f.payload.length →
        let p := s.bport k n
        let d := f.payload.drop 32
        let a := fld f.payload 0 8
        p.space = 3 → p.rowlen.toNat = d.length → d.length ≤ 8192 → a + d.length ≤ 67108864 →
        p.wbase.toNat ≤ a → a + d.length ≤ p.wbase.toNat + p.wlim.toNat → goes (.bulkw f {}) s fun t =>
          (∀ i, i < d.length → Memory.read (t.session k).staging (a + i) = d.getD i 0)
            ∧ (∀ i, (i < a ∨ a + d.length ≤ i) →
                Memory.read (t.session k).staging i = Memory.read (s.session k).staging i)
            ∧ t.mem = s.mem ∧ t.cores = s.cores ∧ t.ctxs = s.ctxs
            ∧ ∃ g : HostFrame, .host g ∈ t.sent ∧ g.typ = 7 ∧ g.status = 0 ∧ g.word = f.seq)
    ∧ (hostGood s f 0x0D → n < 16 → f.payload.length = 16 →
        let p := s.bport k n
        let m := fld f.payload 8 4
        let a := fld f.payload 0 8
        p.space = 3 → 0 < m → p.rowlen.toNat = m → m ≤ 8192 → a + m ≤ 67108864 →
        p.wbase.toNat ≤ a → a + m ≤ p.wbase.toNat + p.wlim.toNat → (s.session k).stgPoison = [] →
        goes (.bulkr f) s fun t =>
          t.mem = s.mem ∧ t.cores = s.cores ∧ t.ctxs = s.ctxs ∧ (t.session k).staging = (s.session k).staging
            ∧ ∃ g : HostFrame, .host g ∈ t.sent ∧ g.typ = 0x0E ∧ g.status = 0
              ∧ g.payload = leBytes 8 a ++ zeros 24 ++ Memory.readN (s.session k).staging a m)

/-- Opening, acknowledging and the timers of sessions. -/
def hostSessions : Prop :=
  ∀ (s : State),
    (∀ f : HostFrame, hostGood s f 1 → f.word.toNat < 8 →
      let k := f.word.toNat
      ((s.session k).hkey = 0 → (s.session k).opened = false → goes (.open_ f) s fun t =>
        (t.session k).opened = true ∧ (t.session k).addr = f.addr ∧ (t.session k).udp = f.udp ∧ (t.session k).port = f.port
          ∧ (t.session k).rxSeq = 0 ∧ (t.session k).txSeq = 1 ∧ (t.session k).lastRx = s.now
          ∧ ∃ g : HostFrame, t.sent = s.sent ++ [.host g] ∧ g.typ = 4 ∧ g.word = (t.session k).cookie ∧ g.addr = f.addr)
      ∧ ((s.session k).hkey ≠ 0 → goes (.open_ f) s fun t => ∃ v : BitVec 384,
        (t.session k).nonce = some v ∧ (t.session k).opened = (s.session k).opened
          ∧ ∃ g : HostFrame, t.sent = s.sent ++ [.host g] ∧ g.typ = 2 ∧ g.payload = leBytes 48 v.toNat ∧ g.addr = f.addr))
    ∧ (∀ (f : HostFrame) (k : Nat) (v : BitVec 384) (q : Nat × Nat), hostGood s f 3 → f.payload.length = 193 → k < 8 →
        (s.session k).nonce = some v → (∀ j, j < k → (s.session j).nonce = none) → (s.session k).opened = false →
        ecParse ((f.payload.drop 96).take 97) = some q →
        leNat (sha384 ((f.payload.drop 96).take 97)) = (s.session k).hkey.toNat →
        (ecVerify q (proofBytes v k f) (fld f.payload 0 48) (fld f.payload 48 48) = true → goes (.prove f) s fun t =>
          (t.session k).opened = true ∧ (t.session k).nonce = none ∧ (t.session k).addr = f.addr
            ∧ ∃ g : HostFrame, t.sent = s.sent ++ [.host g] ∧ g.typ = 4 ∧ g.word = (t.session k).cookie)
        ∧ (ecVerify q (proofBytes v k f) (fld f.payload 0 48) (fld f.payload 48 48) = false →
          (∀ j, k < j → j < 8 → (s.session j).nonce = none) → goes (.prove f) s fun t =>
            t = { s with sent := t.sent } ∧ ∃ g : HostFrame, t.sent = s.sent ++ [.host g] ∧ g.typ = 5))
    ∧ (∀ f : HostFrame, hostGood s f 7 → f.sess.toNat < 8 →
      let k := f.sess.toNat
      let x := s.session k
      x.opened = true → f.cookie = x.cookie → x.unacked.length ≤ 512 →
      (∀ u ∈ x.unacked, u.typ ≠ 0x08 ∧ u.typ ≠ 0x0B) → goes (.hostAck f) s fun t =>
        (t.session k).unacked = x.unacked.filter (fun u => !ackedBy f.aseq f.sack u.seq)
          ∧ (t.session k).lastRx = s.now ∧ t.sent = s.sent ∧ t.mem = s.mem ∧ t.cores = s.cores)
    ∧ (∀ k q u, (((s.session k).unacked.take 512).find? fun u => u.seq = q) = some u → (s.session k).opened = true →
      let w := min 12800 (200 * 2 ^ u.retx) * 940
      (s.now - u.sentAt < w → idles (.hostRetransmitTimer k q) s)
      ∧ (w ≤ s.now - u.sentAt → u.retx < 12 → goes (.hostRetransmitTimer k q) s fun t =>
          (t.session k).hostretx = (s.session k).hostretx + 1
            ∧ ∃ g : HostFrame, t.sent = s.sent ++ [.host g] ∧ g.typ = u.typ ∧ g.seq = q ∧ g.payload = u.payload)
      ∧ (w ≤ s.now - u.sentAt → 12 ≤ u.retx → exec (.hostRetransmitTimer k q) s = .next (s.sessionDead k)))
    ∧ (∀ k, (s.session k).opened = true → 0 < (s.session k).owed → 9400 ≤ s.now - (s.session k).owedSince →
        goes (.hostAckTimer k) s fun t => (t.session k).owed = 0
          ∧ ∃ g : HostFrame, t.sent = s.sent ++ [.host g] ∧ g.typ = 7 ∧ g.status = 0 ∧ g.aseq = (s.session k).rxSeq)
    ∧ (∀ k, (s.session k).owed = 0 ∨ s.now - (s.session k).owedSince < 9400 → idles (.hostAckTimer k) s)
    ∧ (∀ k, (s.session k).opened = true →
        ((s.session k).timeout * 940000000 ≤ s.now - (s.session k).lastRx →
          goes (.sessionTimeout k) s fun t => (t.session k).opened = false ∧ (t.session k).cookie = 0
            ∧ t.mem = s.mem ∧ t.cores = s.cores ∧ t.ctxs = s.ctxs)
        ∧ (s.now - (s.session k).lastRx < (s.session k).timeout * 940000000 → idles (.sessionTimeout k) s))
    ∧ (∀ p o, s.hostUp p = true → o ≠ .bad → (∀ f, o ≠ .transport f) →
        exec (.hostOtherFrame p o) s = .next (s.emit (.answer true p o)))
    ∧ (∀ p o, s.hostUp p = true → (o = .bad ∨ ∃ f, o = .transport f) →
        goes (.hostOtherFrame p o) s fun t => t = { s with hub := t.hub } ∧ (t.hub.hport p).hostother = (s.hub.hport p).hostother + 1)
    ∧ (∀ p r, r ∈ [0, 200, 400, 800] → 6 ≤ s.aon.stage → goes (.hostLinkChange p r) s fun t =>
        t = { s with hub := t.hub } ∧ (t.hub.hport p).rate = r)

end Sys2Proof.Statements

/-- R356 to R358, R361 to R363, R366, R367, R371: a host frame that is damaged is dropped and counted, one without an
open session is dropped, one with another cookie is answered NOCOOKIE; in its turn each has its effect: a message in a
channel or FULL, doorbell bits, a mask, bytes to and from staging, the end of its session. -/
def Obligations.HostFrames : Prop := hostChecks ∧ hostEffects

/-- R361, R362, R365 to R367: a session opens at once without a host key and else by a signed proof; acknowledged frames
are gone, others leave again, and a session without frames becomes dead. -/
def Obligations.HostSessions : Prop := hostSessions

/-! ### Mailboxes and stewards -/

/-- R356 to R359: a post on a channel whose receiver is ready and that has room stores the message behind those it
holds; on a full channel it is counted; where the receiver is not ready it is aborted. A take removes the oldest, and a
request is kept as the channel's until it is answered. -/
def Sys2Proof.Statements.mailboxChannels : Prop :=
  ∀ (s : State) (n : Nat) (m : Msg),
    let b := s.bind n
    n < 64 → bindValid b = true →
    (8 ≤ bindSrc b → 8 ≤ bindDst b → bindDst b < 12 →
      (s.recvState (bindDst b) = 0 → (s.chan n).slots.length < 8 → goes (.mailboxPost n m) s fun t =>
        t = { s with hub := { s.hub with chans := t.hub.chans } } ∧ (∀ j, j ≠ n → t.chan j = s.chan j)
          ∧ (t.chan n).slots = (s.chan n).slots ++ [{ m with mseq := (s.chan n).mseq }]
          ∧ (t.chan n).mseq = (s.chan n).mseq + 1)
      ∧ (s.recvState (bindDst b) = 0 → 8 ≤ (s.chan n).slots.length → goes (.mailboxPost n m) s fun t =>
        (t.chan n).slots = (s.chan n).slots ∧ (t.chan n).mbfull = (s.chan n).mbfull + 1 ∧ t.sent = s.sent)
      ∧ (2 ≤ s.recvState (bindDst b) → goes (.mailboxPost n m) s fun t =>
        (t.chan n).slots = (s.chan n).slots ∧ (t.chan n).mbabort = (s.chan n).mbabort + 1
          ∧ ∀ j, j ≠ n → t.chan j = s.chan j))
    ∧ (∀ l, (s.chan n).slots = m :: l → s.attended n = true → (s.chan n).req = none → s.hub.outbox = [] →
        s.refuse n m = none → goes (.mailboxTake n) s fun t =>
          (t.chan n).slots = l ∧ (t.chan n).head = (s.chan n).head + 1 ∧ (t.chan n).req = some m
            ∧ t.mem = s.mem ∧ t.cores = s.cores ∧ t.ctxs = s.ctxs)
    ∧ ((s.chan n).req.isSome = true → bindDst b < 12 ∨ 16 ≤ bindDst b → idles (.mailboxTake n) s)

/-- R7 to R10, R357, R355: doorbell bits are set by DBSET and cleared by writing 1, a bit set in the same cycle ending
set; LOCK is set once; a write to BIND takes effect only before the lock and to read-only registers never. -/
def Sys2Proof.Statements.registers : Prop :=
  ∀ (s : State) (n : Nat) (v w : U32),
    let c := s.chan n
    let live : Prop := n < 64 ∧ bindValid (s.bind n) = true ∧ s.recvState (bindDst (s.bind n)) < 2
    let only (t : State) : Prop := t.mem = s.mem ∧ t.cores = s.cores ∧ t.ctxs = s.ctxs ∧ t.hub.bind = s.hub.bind
      ∧ ∀ j, j ≠ n → t.chan j = s.chan j
    (live → 8 ≤ bindSrc (s.bind n) → goes (.dbsetWrite n v) s fun t => (t.chan n).db = c.db ||| v ∧ only t)
    ∧ (live → goes (.dbClear n v w) s fun t => (t.chan n).db = (c.db &&& ~~~v) ||| w ∧ only t)
    ∧ (live → goes (.registerWrite (.db n) v) s fun t => (t.chan n).db = c.db &&& ~~~v ∧ only t)
    ∧ (live → goes (.registerWrite (.mask n) v) s fun t => (t.chan n).mask = v ∧ (t.chan n).db = c.db ∧ only t)
    ∧ (∀ l, goes (.lockWrite l) s fun t => t = { s with hub := { s.hub with lock := s.hub.lock || l } })
    ∧ (goes (.registerWrite .block v) s fun t => t = { s with hub := { s.hub with lock := s.hub.lock || v.getLsbD 0 } })
    ∧ (s.hub.lock = true → idles (.registerWrite (.bind n) v) s)
    ∧ (s.hub.lock = false → n < 64 → goes (.registerWrite (.bind n) v) s fun t =>
        t.bind n = (v &&& 0x7FF).setWidth 16 ∧ (∀ j, j ≠ n → t.bind j = s.bind j)
          ∧ t = { s with hub := { s.hub with bind := t.hub.bind } })
    ∧ idles (.registerWrite (.chstat n) v) s ∧ idles (.registerWrite (.feature n) v) s

/-- R7 to R10, R355 to R359: mailbox channels and the registers that the block lets its agents write. -/
def Obligations.ChannelsAndRegisters : Prop := mailboxChannels ∧ registers

/-- R349 to R351, R359, R419: a steward that fails is reset, and its identities move to its sibling; it is loaded again
after 100 us and stands by, or has failed; an asleep steward wakes. -/
def Obligations.StewardsTakeOver : Prop :=
  ∀ (s : State) (k : Nat), k < 4 →
    let sib := if k % 2 = 0 then k + 1 else k - 1
    ((stewGet s.hub k = .working ∨ stewGet s.hub k = .standby) →
        (stewGet s.hub sib = .working ∨ stewGet s.hub sib = .standby) → s.hub.journal = [] → ∀ l,
      goes (.watchdogExpiry k l) s fun t => stewGet t.hub k = .inReset s.now ∧ t.mem = s.mem ∧ t.cores = s.cores
        ∧ t.ctxs = s.ctxs ∧ (∀ j, j < 4 → t.hub.server j = if s.hub.server j = k then sib else s.hub.server j))
    ∧ ((∃ n, stewGet s.hub k = .inReset n) → ∀ l, idles (.watchdogExpiry k l) s)
    ∧ (∀ n, stewGet s.hub k = .inReset n →
        (s.now - n < 94000 → ∀ o, idles (.stewardReload k o) s)
        ∧ (94000 ≤ s.now - n → 4 ≤ s.aon.stage → ∀ o, goes (.stewardReload k o) s fun t =>
            t = { s with hub := t.hub } ∧ stewGet t.hub k = (if o then .standby else .failed)
              ∧ ∀ j, j < 4 → j ≠ k → stewGet t.hub j = stewGet s.hub j))
    ∧ ((stewGet s.hub k = .waking ∨ stewGet s.hub k = .asleep) → goes (.stewardWake k) s fun t =>
        t = { s with hub := t.hub } ∧ stewGet t.hub k = .working)
    ∧ (stewGet s.hub k = .working → idles (.stewardWake k) s)

/-! ### Requests to Hokunuon -/

namespace Sys2Proof.Statements

/-- Channel `ch` holds request `m` of command `code` with `len` bytes, and its steward works. -/
abbrev asks (s : State) (ch : Nat) (m : Msg) (code len : Nat) : Prop :=
  (s.chan ch).req = some m ∧ m.cmd.toNat = code ∧ s.attended ch = true ∧ m.payload.length = len

/-- The same for a command of a context that exists, with nothing long under way on it. -/
abbrev asksCtx (s : State) (ch : Nat) (m : Msg) (code len : Nat) : Prop :=
  asks s ch m code len ∧ s.exists_ (s.reqCtx ch) = true ∧ (s.ctx (s.reqCtx ch)).dagger = none
    ∧ (s.ctx (s.reqCtx ch)).resize = none

/-- Command `c` has effect `P` and is then answered OK with payload `pl`. -/
def oks (c : Instr) (s : State) (ch : Nat) (m : Msg) (pl : List Byte) (P : State → Prop) : Prop :=
  ∃ u : State, exec c s = .next (u.answer ch m 0 0 pl) ∧ P u

/-- Command `c` has no effect, and is answered with a status and DETAIL. -/
def refuses (c : Instr) (s : State) (ch : Nat) (m : Msg) (status detail : Nat) : Prop :=
  exec c s = .next (s.answer ch m status detail [])

/-- Staging of session `k` holds `l` from byte `o` on, granules written whole are not poisoned, and nothing else differs
from `s`. -/
def stagedBy (s u : State) (k o : Nat) (l : List Byte) : Prop :=
  u = { s with hub := { s.hub with sessions := u.hub.sessions } } ∧ (∀ j, j ≠ k → u.session j = s.session j)
    ∧ u.session k = { s.session k with staging := (u.session k).staging, stgPoison := (u.session k).stgPoison }
    ∧ (∀ g, SMap.get false (u.session k).stgPoison g =
        if (o + 63) / 64 ≤ g ∧ g < (o + l.length) / 64 then false else SMap.get false (s.session k).stgPoison g)
    ∧ (∀ i, i < l.length → Memory.read (u.session k).staging (o + i) = l.getD i 0)
    ∧ ∀ a, (a < o ∨ o + l.length ≤ a) → Memory.read (u.session k).staging a = Memory.read (s.session k).staging a

/-- The requests of Table 13.14: command, code, payload length and whether a context takes it. -/
def requests : List ((Nat → Instr) × Nat × Nat × Bool) :=
  [(.queryDevice, 0x0101, 4, false), (.queryCores, 0x0102, 4, false), (.queryBind, 0x0103, 0, false),
   (.ctxCreate, 0x0201, 240, false), (.ctxDestroy, 0x0202, 0, true), (.ctxQuery, 0x0203, 4, true),
   (.ctxTables, 0x0204, 8, true), (.ctxTtab, 0x0205, 4, true), (.ctxPlans, 0x0206, 16, true),
   (.ctxSwap, 0x0207, 0, true), (.ctxSetsem, 0x0208, 8, true), (.ctxSignal, 0x0209, 3, true),
   (.ctxResize, 0x020A, 5, true), (.ctxLend, 0x020B, 6, true), (.ctxSampler, 0x020C, 1, true),
   (.ctxReset, 0x020D, 0, true), (.memBport, 0x0301, 48, false), (.memZero, 0x0302, 16, true),
   (.progLoad, 0x0401, 16, true), (.progUnload, 0x0402, 0, true), (.strandStart, 0x0501, 5, true),
   (.strandStop, 0x0502, 5, true), (.strandStatus, 0x0503, 4, true), (.strandStep, 0x0504, 8, true),
   (.pairPair, 0x0601, 2, false), (.pairMode, 0x0602, 3, false), (.pairTakeover, 0x0603, 0, false),
   (.pairTime, 0x0604, 1, false), (.ckptArm, 0x0701, 0, true), (.ckptDrained, 0x0702, 8, true),
   (.ckptOpen, 0x0703, 3, false), (.ckptRestore, 0x0704, 4, true), (.ckptVerify, 0x0705, 5, true),
   (.teleCounters, 0x0801, 4, true), (.teleDevice, 0x0802, 4, false), (.teleGlaze, 0x0803, 5, true),
   (.teleSync, 0x0804, 4, true), (.fwStage, 0x0901, 8, false), (.fwCommit, 0x0902, 0, false),
   (.fwActivate, 0x0903, 0, false), (.attReport, 0x0A01, 56, false), (.attCerts, 0x0A02, 4, false),
   (.faultRecords, 0x0B01, 4, true), (.faultXlog, 0x0B02, 5, true), (.faultCper, 0x0B03, 8, false),
   (.faultCase, 0x0B04, 17, false), (.cfgFabric, 0x0C01, 4, false), (.cfgHostnet, 0x0C02, 4, false),
   (.cfgPower, 0x0C03, 4, false)]

/-- R375, R376: what every request meets before it has its effect. -/
def requestChecks : Prop :=
  ∀ op ∈ requests, ∀ (s : State) (ch : Nat),
    ((s.chan ch).req = none → idles (op.1 ch) s)
    ∧ ∀ m, (s.chan ch).req = some m →
      ((m.cmd.toNat ≠ op.2.1 ∨ s.attended ch = false) → idles (op.1 ch) s)
      ∧ (m.cmd.toNat = op.2.1 → s.attended ch = true → m.payload.length ≠ op.2.2.1 →
          refuses (op.1 ch) s ch m 3 op.2.2.1)
      ∧ (asks s ch m op.2.1 op.2.2.1 → op.2.2.2 = true → s.exists_ (s.reqCtx ch) = false → refuses (op.1 ch) s ch m 5 0)
      ∧ (asks s ch m op.2.1 op.2.2.1 → op.2.2.2 = true → s.exists_ (s.reqCtx ch) = true →
          (s.ctx (s.reqCtx ch)).dagger.isSome = true → changesState m = true → refuses (op.1 ch) s ch m 0x0E 0)
      ∧ (asks s ch m op.2.1 op.2.2.1 → op.2.1 ∈ [0x0601, 0x0602, 0x0603, 0x0902] → s.hub.dagger.isSome = true →
          refuses (op.1 ch) s ch m 0x0E 0)

/-- R375: one response for each request: on the channel with the reverse binding, with the request's CMD and TAG, and
a frame of the session it goes to; the channel of the request is free for the next. -/
def answersOnce : Prop :=
  ∀ (s : State) (ch r : Nat) (m : Msg) (st de : Nat) (pl : List Byte),
    let k := bindSrc (s.bind ch)
    let z := s.session k
    s.findChan (bindDst (s.bind ch)) k = some r → k < 8 → z.opened = true → s.hub.outbox = [] → (s.chan r).slots.length < 8 →
    let t := s.answer ch m st de pl
    let x : Msg := ⟨m.cmd, 1, BitVec.ofNat 8 st, m.tag, (s.chan r).mseq, BitVec.ofNat 32 de, pl⟩
    (t.chan r).slots = (s.chan r).slots ++ [x] ∧ (t.chan ch).req = none
      ∧ (∀ j, j ≠ r → (t.chan j).slots = (s.chan j).slots) ∧ (∀ j ∈ t.hub.journal, j.ch ≠ ch)
      ∧ (t.session k).unacked = z.unacked ++ [⟨z.txSeq, 8, BitVec.ofNat 8 r, 0, 0, x.bytes, 0, s.now⟩]
      ∧ t.mem = s.mem ∧ t.cores = s.cores ∧ t.ctxs = s.ctxs ∧ t.part = s.part ∧ t.aon = s.aon ∧ t.twin = s.twin

/-- Queries and telemetry of the device. -/
def deviceReads : Prop :=
  ∀ (s : State) (ch : Nat) (m : Msg),
    let k := s.reqSess ch
    let o := fld m.payload 0 4
    let max := 67108864
    let reads (c : Instr) (l pl : List Byte) : Prop := oks c s ch m pl fun u => stagedBy s u k o l
    (asks s ch m 0x0101 4 → o + 9216 ≤ max → ∃ l : List Byte, l.length = 9216
      ∧ (∀ j, j < 2304 → fld l (4 * j) 4 = s.devWord j % 2 ^ 32) ∧ reads (.queryDevice ch) l [])
    ∧ (asks s ch m 0x0102 4 → o + 272 ≤ max → ∃ l : List Byte, l.length = 272 ∧ reads (.queryCores ch) l []
      ∧ ∀ p, p < 272 →
        ((∃ e ∈ s.hub.withheld, p ∈ s.part.sliceCores e) → l.getD p 0 = 0xFF)
        ∧ ((∀ e ∈ s.hub.withheld, p ∉ s.part.sliceCores e) → l.getD p 0 =
            if s.part.absentCore p then 5 else BitVec.ofNat 8 (s.core p).svc.code))
    ∧ (asks s ch m 0x0103 0 → ∃ l : List Byte, l.length = 129 ∧ (∀ j, j < 64 → fld l (2 * j) 2 = (s.bind j).toNat)
      ∧ fld l 128 1 = k ∧ oks (.queryBind ch) s ch m l fun u => u = s)
    ∧ (asks s ch m 0x0802 4 → o + s.devRecords.length ≤ max →
        reads (.teleDevice ch) s.devRecords (leBytes 4 (s.devRecords.length / 16)))
    ∧ (asks s ch m 0x0802 4 → max < o + s.devRecords.length → refuses (.teleDevice ch) s ch m 4 0)
    ∧ (asks s ch m 0x0A01 56 → o + (s.report (slice m.payload 8 48)).length ≤ max →
        let l := s.report (slice m.payload 8 48)
        reads (.attReport ch) l [] ∧ fld l 0 4 = 0x4D594154 ∧ slice l 8 48 = slice m.payload 8 48
          ∧ (s.signsReports = false → l.length = 448 ∧ slice l 352 96 = zeros 96)
          ∧ (s.signsReports = true → l = l.take 352 ++ ecSigBytes s.vault.alias_.toNat (l.take 352)))
    ∧ (asks s ch m 0x0A02 4 → let l := leBytes 4 s.certs.length ++ s.certs.flatMap certEntry
        o + l.length ≤ max → reads (.attCerts ch) l [])
    ∧ (asks s ch m 0x0B03 8 → let l := s.hub.cper.flatMap s.cperBytes
        o + l.length ≤ max → oks (.faultCper ch) s ch m (leBytes 4 s.hub.cper.length ++ leBytes 4 s.hub.cperLost) fun u =>
          stagedBy { s with hub := { s.hub with cper := s.hub.cper.drop (fld m.payload 4 4) } } u k o l)
    ∧ (∀ a, asks s ch m 0x0B04 17 → s.hub.arbs = [a] → a.case = fld m.payload 8 8 → a.verdict.any (fun v => 2 ≤ v) = true →
        (fld m.payload 16 1 = 0 → o + a.bundle.length ≤ max → reads (.faultCase ch) a.bundle (leBytes 4 a.bundle.length))
        ∧ (fld m.payload 16 1 = 1 → o + a.partLen ≤ max → oks (.faultCase ch) s ch m [] fun u =>
            u = { s with hub := { s.hub with arbs := [{ a with emulator := some (a.confirmed (s.stgRead k o a.partLen)) }] } }))
    ∧ (asks s ch m 0x0B04 17 → fld m.payload 16 1 < 2 → s.hub.arbs = [] → refuses (.faultCase ch) s ch m 4 8)

/-- Queries and telemetry of a context. -/
def contextReads : Prop :=
  ∀ (s : State) (ch : Nat) (m : Msg),
    let c := s.reqCtx ch
    let x := s.ctx c
    let k := s.reqSess ch
    let o := fld m.payload 0 4
    let max := 67108864
    let n := x.grid.length
    let reads (c : Instr) (l pl : List Byte) : Prop := oks c s ch m pl fun u => stagedBy s u k o l
    (asksCtx s ch m 0x0203 4 → o + 262400 ≤ max → ∃ l : List Byte, l.length = 262400 ∧ reads (.ctxQuery ch) l []
      ∧ (∀ j, j < 64 → fld l (4 * j) 4 = s.ctxWord c (0x900 + j) % 2 ^ 32)
      ∧ ∀ e, e < 8192 → e ∉ x.withdrawn → fld l (256 + 32 * e) 32 = (x.endpoint e).toNat)
    ∧ (asksCtx s ch m 0x0503 4 → o + 24 * n ≤ max → ∃ l : List Byte, l.length = 24 * n ∧ reads (.strandStatus ch) l []
      ∧ ∀ v t e, v < n → t < 8 → l.getD (24 * v + 3 * t + Eng.num e) 0 =
          BitVec.ofNat 8 (s.stream ⟨c, v, t, e⟩).state.code)
    ∧ (asksCtx s ch m 0x0801 4 → o + (s.ctxRecords c).length ≤ max →
        reads (.teleCounters ch) (s.ctxRecords c) (leBytes 4 ((s.ctxRecords c).length / 16)))
    ∧ (asksCtx s ch m 0x0804 4 → o + (1024 + 1024 * n) ≤ max → ∃ l : List Byte, l.length = 1024 + 1024 * n
      ∧ reads (.teleSync ch) l [] ∧ (∀ b, b < 64 → fld l (16 * b) 4 = (x.unit b).gen.toNat)
      ∧ ∀ e, e < 256 * n → fld l (1024 + 4 * e) 4 = (s.sem c e).toNat)
    ∧ (asksCtx s ch m 0x0B01 4 → let l := x.records.flatMap FaultRec.bytes
        o + l.length ≤ max → reads (.faultRecords ch) l (leBytes 4 x.records.length))
    ∧ (asksCtx s ch m 0x0803 5 → let l := x.glog.flatMap GlazeRec.bytes ++ (layerGlazes x.glog).flatten
        let n := leBytes 4 x.glog.length ++ leBytes 4 (layerGlazes x.glog).length
        o + l.length ≤ max →
        (fld m.payload 4 1 = 0 → reads (.teleGlaze ch) l n)
        ∧ (fld m.payload 4 1 = 1 → oks (.teleGlaze ch) s ch m n fun u =>
            stagedBy (s.updCtx c fun x => { x with glog := [] }) u k o l))
    ∧ (asksCtx s ch m 0x0B02 5 → let l := x.xlog.flatMap XlogRec.bytes
        o + l.length ≤ max →
        (fld m.payload 4 1 = 0 → reads (.faultXlog ch) l (leBytes 4 x.xlog.length))
        ∧ (fld m.payload 4 1 = 1 → oks (.faultXlog ch) s ch m (leBytes 4 x.xlog.length) fun u =>
            stagedBy (s.updCtx c fun x => { x with xlog := [] }) u k o l))
    ∧ (asksCtx s ch m 0x0705 5 → 3 ≤ fld m.payload 4 1 → fld m.payload 4 1 ≤ 5 → o + 304 ≤ max →
        let d := s.replayDiff c (fld m.payload 4 1) (s.stgRead k o 304)
        (d = none → oks (.ckptVerify ch) s ch m [] fun u => u = s)
        ∧ (∀ e, d = some e → refuses (.ckptVerify ch) s ch m 0x0D e))

end Sys2Proof.Statements

/-- R375, R376, Table 13.13: a request of another length is answered with the length it must have, one for no context
with STATE, one on a context or device with a long command under way with BUSY; each is answered once. -/
def Obligations.RequestsAreChecked : Prop := requestChecks ∧ answersOnce

/-- R376, R380, R343 to R346, R258, R397 (and log 150 for the layer glazes): queries, telemetry, logs and reports put
their bytes into the session's staging at STGOFS and change nothing else but what they clear. -/
def Obligations.RequestsRead : Prop := deviceReads ∧ contextReads

namespace Sys2Proof.Statements

/-- Requests that write a context's tables, semaphores and settings. -/
def contextWrites : Prop :=
  ∀ (s : State) (ch : Nat) (m : Msg),
    let c := s.reqCtx ch
    let x := s.ctx c
    let k := s.reqSess ch
    let o := fld m.payload 0 4
    let max := 67108864
    (asks s ch m 0x0201 240 → s.exists_ c = false → s.aon.zeroing = false →
      (∀ e, badField m.payload = some e → refuses (.ctxCreate ch) s ch m 4 e)
      ∧ (∀ e, badField m.payload = none → s.modeConflict (settingsOf m.payload) = some e →
          refuses (.ctxCreate ch) s ch m 9 e)
      ∧ (badField m.payload = none → s.modeConflict (settingsOf m.payload) = none →
        (∀ e, s.formCtx m.payload = .inl e → refuses (.ctxCreate ch) s ch m 6 e)
        ∧ (∀ y lb, s.formCtx m.payload = .inr (y, lb) → ∃ u : State,
            exec (.ctxCreate ch) s = .next (u.answer ch m 0 0 (u.viewPayload c)) ∧ u.ctx c = y
              ∧ y.state = .ready ∧ y.cfg.set = settingsOf m.payload ∧ y.step = 0
              ∧ (∀ d, d ≠ c → u.ctx d = s.ctx d) ∧ u.mem = { s.mem with bandLocal := lb }
              ∧ (∀ p ∈ y.grid, (u.core p).strands = [] ∧ (u.core p).cells = [] ∧ (u.core p).holds = [])
              ∧ ∀ p, p ∉ y.grid → u.core p = s.core p)))
    ∧ (asksCtx s ch m 0x0202 0 →
      (s.quiet c = false → refuses (.ctxDestroy ch) s ch m 5 2)
      ∧ (s.quiet c = true → x.colls = [] → x.disps = [] → x.ckpt.copying = none → s.hub.clearing = [] →
          oks (.ctxDestroy ch) s ch m [] fun u => u.exists_ c = false ∧ (∀ d, d ≠ c → u.ctx d = s.ctx d)
            ∧ (∀ n ∈ x.hbmUnits, ∀ a, a < hbmUnitBytes n → u.byteAt .hbm (n * 2 ^ 34 + a) = 0)
            ∧ (∀ n ∈ x.ddrUnits, ∀ a, a < 2 ^ 36 → u.byteAt .ddr (n * 2 ^ 36 + a) = 0)))
    ∧ (asksCtx s ch m 0x0204 8 → fld m.payload 4 4 = 37392 →
      (s.quiet c = false → refuses (.ctxTables ch) s ch m 5 2)
      ∧ (s.quiet c = true → o + 37392 ≤ max →
        let l := s.stgRead k o 37392
        (∀ e, imageBad l = some e → refuses (.ctxTables ch) s ch m 0x0A e)
        ∧ (imageBad l = none → oks (.ctxTables ch) s ch m [] fun u => ctxOnly s u c
            ∧ u.ctx c = { x with cfg := { x.cfg with
                fmt := (u.ctx c).cfg.fmt, margin := (u.ctx c).cfg.margin, curves := (u.ctx c).cfg.curves } }
            ∧ (∀ j, j < 1024 → SMap.get 0 (u.ctx c).cfg.fmt j = BitVec.ofNat 32 (fld l (4 * j) 4 % 2 ^ 26))
            ∧ (∀ j, j < 16 → SMap.get 0 (u.ctx c).cfg.margin j = fld l (4096 + j) 1)
            ∧ ∀ j, j < 33280 → Memory.read (u.ctx c).cfg.curves j = curveByte (j % 4160) (l.getD (4112 + j) 0))))
    ∧ (asksCtx s ch m 0x0205 4 → o + 65536 ≤ max → oks (.ctxTtab ch) s ch m [] fun u =>
        let l := s.stgRead k o 65536
        ctxOnly s u c ∧ u.ctx c = { x with cfg := { x.cfg with ttab := (u.ctx c).cfg.ttab } }
          ∧ ∀ j, j < 4096 → SMap.get {} (u.ctx c).cfg.ttab j =
              { key := BitVec.ofNat 64 (fld l (16 * j) 8), tid := BitVec.ofNat 32 (fld l (16 * j + 8) 4)
                ctl := BitVec.ofNat 32 (fld l (16 * j + 12) 4 % 32768) })
    ∧ (asksCtx s ch m 0x0206 16 →
      let a := fld m.payload 8 4
      let n := fld m.payload 12 4
      (4 < fld m.payload 4 1 → refuses (.ctxPlans ch) s ch m 4 4)
      ∧ (fld m.payload 4 1 = 0 → a + n ≤ 8192 → o + 32 * n ≤ max → (∀ e, ((s.ctx c).conn e).unacked = []) →
          oks (.ctxPlans ch) s ch m [] fun u => ctxOnly s u c
            ∧ (∀ j, j < n → SMap.get 0 (u.ctx c).cfg.endpoints (a + j) =
                BitVec.ofNat 256 (epBits (fld (s.stgRead k o (32 * n)) (32 * j) 32)))
            ∧ (∀ j, (j < a ∨ a + n ≤ j) → SMap.get 0 (u.ctx c).cfg.endpoints j = SMap.get 0 x.cfg.endpoints j)
            ∧ ∀ j, j ∈ (u.ctx c).withdrawn ↔ j ∈ x.withdrawn ∧ (j < a ∨ a + n ≤ j))
      ∧ (fld m.payload 4 1 = 1 → a + n ≤ 65536 → o + 2 * n ≤ max →
          oks (.ctxPlans ch) s ch m [] fun u => ctxOnly s u c
            ∧ (∀ j, j < n → SMap.get 0xFFFF (u.ctx c).cfg.rankmap (a + j) =
                BitVec.ofNat 16 (fld (s.stgRead k o (2 * n)) (2 * j) 2))
            ∧ ∀ j, (j < a ∨ a + n ≤ j) → SMap.get 0xFFFF (u.ctx c).cfg.rankmap j = SMap.get 0xFFFF x.cfg.rankmap j)
      ∧ (fld m.payload 4 1 = 2 → a ≤ 4096 → 4096 < a + n → refuses (.ctxPlans ch) s ch m 4 12)
      ∧ (fld m.payload 4 1 = 2 → a < 4096 → n = 1 → o + 64 ≤ max →
          let p : Plan := BitVec.ofNat 512 (collBits (fld (s.stgRead k o 64) 0 64))
          (x.collOk p = true → oks (.ctxPlans ch) s ch m [] fun u => ctxOnly s u c
            ∧ u.ctx c = { x with cfg := { x.cfg with collPlans := SMap.set 0 x.cfg.collPlans a p } })
          ∧ (x.collOk p = false → refuses (.ctxPlans ch) s ch m 0x0A 0))
      ∧ (fld m.payload 4 1 = 3 → a < 4096 → n = 1 → o + 64 ≤ max →
          let p : Plan := BitVec.ofNat 512 (dispBits (fld (s.stgRead k o 64) 0 64))
          (x.dispOk p = true → oks (.ctxPlans ch) s ch m [] fun u => ctxOnly s u c
            ∧ u.ctx c = { x with cfg := { x.cfg with dispPlans := SMap.set 0 x.cfg.dispPlans a p } })
          ∧ (x.dispOk p = false → refuses (.ctxPlans ch) s ch m 0x0A 0)))
    ∧ (asksCtx s ch m 0x0207 0 → oks (.ctxSwap ch) s ch m [] fun u => ctxOnly s u c
        ∧ u.ctx c = { x with swapReq := true })
    ∧ (asksCtx s ch m 0x0208 8 →
      let n := fld m.payload 0 2
      (x.hasSem n = false → refuses (.ctxSetsem ch) s ch m 4 0)
      ∧ (x.hasSem n = true → s.quiet c = false → refuses (.ctxSetsem ch) s ch m 5 2)
      ∧ (x.hasSem n = true → s.quiet c = true → (∀ p, (s.core p).incCycle ≠ s.now) → oks (.ctxSetsem ch) s ch m [] fun u => ∃ p,
          s.pcore c (n / 256) = some p ∧ coreOnly s u p ∧ u.sem c n = BitVec.ofNat 32 (fld m.payload 4 4)
            ∧ u.core p = { s.core p with cells := (u.core p).cells }
            ∧ ∀ j, j ≠ n % 256 → SMap.get 0 (u.core p).cells j = SMap.get 0 (s.core p).cells j))
    ∧ (asksCtx s ch m 0x0209 3 →
      let n := fld m.payload 0 2
      let i := fld m.payload 2 1
      (x.hasSem n = true → 1 ≤ i → i ≤ 16 → oks (.ctxSignal ch) s ch m [] fun u => u = s.signal c n i hostKey)
      ∧ (x.hasSem n = true → (i = 0 ∨ 16 < i) → refuses (.ctxSignal ch) s ch m 4 2))
    ∧ (asksCtx s ch m 0x020C 1 →
      (fld m.payload 0 1 ≤ 7 → oks (.ctxSampler ch) s ch m [] fun u => ctxOnly s u c
        ∧ u.ctx c = { x with cfg := { x.cfg with set := { x.cfg.set with smpl := fld m.payload 0 1 } } })
      ∧ (7 < fld m.payload 0 1 → refuses (.ctxSampler ch) s ch m 4 0))
    ∧ (asksCtx s ch m 0x020D 0 → x.colls = [] → x.disps = [] → oks (.ctxReset ch) s ch m [] fun u =>
        (u.ctx c).state = .ready
          ∧ (∀ b, (u.ctx c).unit b = { barrel := (x.unit b).barrel, barlate := (x.unit b).barlate })
          ∧ (u.ctx c).slices = x.slices ∧ (u.ctx c).cfg = x.cfg
          ∧ (∀ p ∈ x.grid, (u.core p).cells = [] ∧ (∀ t e, (((u.core p).strand t).stream e).state = .idle)
            ∧ ∀ a, a < 6291456 → Memory.read (u.core p).sp a = 0)
          ∧ ∀ p, p ∉ x.grid → (u.core p).cells = (s.core p).cells ∧ (u.core p).strands = (s.core p).strands)

/-- Requests that write memory, programs and strands. -/
def runWrites : Prop :=
  ∀ (s : State) (ch : Nat) (m : Msg),
    let c := s.reqCtx ch
    let x := s.ctx c
    let k := s.reqSess ch
    (asks s ch m 0x0301 48 →
      let b := bportOf (slice m.payload 8 40)
      let n := fld m.payload 0 1
      (n < 16 → (b.space ≠ 1 ∨ s.bound k b.ctx.toNat = true) → oks (.memBport ch) s ch m b.bytes fun u =>
        u = { s with hub := { s.hub with sessions := u.hub.sessions } } ∧ SMap.get {} (u.session k).ports n = b
          ∧ (∀ j, j ≠ n → SMap.get {} (u.session k).ports j = SMap.get {} (s.session k).ports j)
          ∧ ∀ j, j ≠ k → u.session j = s.session j)
      ∧ (16 ≤ n → refuses (.memBport ch) s ch m 4 0)
      ∧ (n < 16 → b.space = 1 → s.bound k b.ctx.toNat = false → refuses (.memBport ch) s ch m 7 1))
    ∧ (asksCtx s ch m 0x0302 16 → clean s → s.mem.inReset = [] → s.mem.isolated = [] →
      let a := fld m.payload 0 8
      let n := fld m.payload 8 8
      (∀ p q, 0 < n → s.spot c (a : Nat) = some p → s.spot c ((a + n - 1 : Nat) : Int) = some q →
        (p.place ≠ q.place → refuses (.memZero ch) s ch m 4 0)
        ∧ (p.place = q.place → p.place ≠ .buddy → (0x300000000000 ≤ a ∨ a + n ≤ 0x280000000000) →
          oks (.memZero ch) s ch m [] fun u =>
            (∀ i z, i < n → s.spot c ((a + i : Nat) : Int) = some z → u.byteAt z.place z.off = 0)
              ∧ (∀ pl b, (∀ i z, i < n → s.spot c ((a + i : Nat) : Int) = some z → (z.place, z.off) ≠ (pl, b)) →
                  u.byteAt pl b = s.byteAt pl b)))
      ∧ (0 < n → (s.spot c (a : Nat) = none ∨ s.spot c ((a + n - 1 : Nat) : Int) = none) →
          refuses (.memZero ch) s ch m 4 0))
    ∧ (asksCtx s ch m 0x0401 16 →
      let n := fld m.payload 4 4
      let v := s.started ch c m
      (s.quiet c = false → refuses (.progLoad ch) s ch m 5 2)
      ∧ (s.quiet c = true → fld m.payload 0 4 + 16 * n ≤ 67108864 →
        let es := unpackLoad (s.stgRead k (fld m.payload 0 4) (16 * n)) (fun o n => s.stgRead k o n) 67108864
        let w := v.dropSuspects c
        let d := w.loadCheck c es (fld m.payload 8 8)
        (d ≠ 0 → goes (.progLoad ch) s fun t => t = v.daggerEnd c 0x0B d ∧ (t.ctx c).cfg = x.cfg
          ∧ (t.ctx c).dagger = some ⟨ch, m.tag, m.cmd, 0x0B, BitVec.ofNat 32 d, true⟩)
        ∧ (d = 0 → goes (.progLoad ch) s fun t => (t.ctx c).cfg.loaded = true ∧ (t.ctx c).units = []
          ∧ (t.ctx c).cfg.loadBase = BitVec.ofNat 64 (fld m.payload 8 8)
          ∧ (t.ctx c).dagger = some ⟨ch, m.tag, m.cmd, 0, 0, true⟩
          ∧ ∀ i ∈ w.streamsOf c, (w.stream i).state ≠ .faulted → (t.stream i).state = .idle)))
    ∧ (asksCtx s ch m 0x0402 0 →
      (s.quiet c = false → refuses (.progUnload ch) s ch m 5 2)
      ∧ (s.quiet c = true → oks (.progUnload ch) s ch m [] fun u => (u.ctx c).cfg.loaded = false ∧ (u.ctx c).cfg.progs = []
          ∧ (∀ i ∈ s.streamsOf c, (s.stream i).state ≠ .faulted → (u.stream i).state = .idle)
          ∧ (∀ d, d ≠ c → u.ctx d = s.ctx d) ∧ u.mem = s.mem))
    ∧ (∀ st, st < 8 → fld m.payload 2 2 = 1 → fld m.payload 4 1 = 2 ^ st → fld m.payload 0 2 < x.grid.length →
      let t : StrandId := ⟨c, fld m.payload 0 2, st⟩
      (asksCtx s ch m 0x0501 5 → x.cfg.loaded = false → refuses (.strandStart ch) s ch m 0x0B 7)
      ∧ (asksCtx s ch m 0x0501 5 → x.cfg.loaded = true → (∀ e, ((s.strand t).stream e).state = .idle) →
          let g : ProgStrand := SMap.get {} x.cfg.progs (t.vc * 8 + st)
          oks (.strandStart ch) s ch m [] fun u => (u.strand t).descs = g.descs ∧ (u.strand t).startedBy = some k
            ∧ ((u.ctx c).state = x.state →
                (u.strand t).openGroup = (s.strand t).openGroup ∧ (u.strand t).mrun = (s.strand t).mrun)
            ∧ ∀ e, ((u.strand t).stream e).codeBase = g.codeBase.getD (Eng.num e) 0
              ∧ ((u.strand t).stream e).codeLen = g.codeLen.getD (Eng.num e) 0
              ∧ ((u.strand t).stream e).entry = g.entry.getD (Eng.num e) 0)
      ∧ (asksCtx s ch m 0x0502 5 → oks (.strandStop ch) s ch m [] fun u => ∀ e,
          let y := (s.strand t).stream e
          let z := (u.strand t).stream e
          (y.state = .running → y.phase = .boundary → z = { y with state := .stopped })
            ∧ (y.state = .running → y.phase = .executing → (s.strand t).mrun = none → z = { y with stopReq := true })
            ∧ (∀ r, e = .m → y.state = .running → y.phase = .executing → (s.strand t).mrun = some r → r.granted = false →
                z.state = .stopped ∧ z.phase = .boundary ∧ (u.strand t).mrun = none)
            ∧ (∀ n v, y.state = .waiting → y.phase = .waitSem n v → z.state = .stopped)
            ∧ (∀ n v, y.state = .waiting → y.phase = .waitBar n v → z.state = .stopped ∧ z.phase = y.phase)
            ∧ (y.state ∉ [.running, .waiting] → z = { y with resumeReq := false })))
    ∧ (asksCtx s ch m 0x0501 5 → x.grid.length < fld m.payload 0 2 → refuses (.strandStart ch) s ch m 4 0)
    ∧ (asksCtx s ch m 0x0504 8 → s.compares c = false → oks (.strandStep ch) s ch m [] fun u =>
        (u.ctx c).step = BitVec.ofNat 64 (fld m.payload 0 8) ∧ (∀ d, d ≠ c → u.ctx d = s.ctx d) ∧ u.mem = s.mem
          ∧ (x.step = BitVec.ofNat 64 (fld m.payload 0 8) → u = s)
          ∧ (x.step ≠ BitVec.ofNat 64 (fld m.payload 0 8) → (u.ctx c).flags = []))

/-- Requests about checkpoints, and long commands of a context. -/
def checkpointRequests : Prop :=
  ∀ (s : State) (ch : Nat) (m : Msg),
    let c := s.reqCtx ch
    let x := s.ctx c
    let k := s.reqSess ch
    let v := s.started ch c m
    (asksCtx s ch m 0x0701 0 →
      (s.mayCheckpoint c = true → oks (.ckptArm ch) s ch m [] fun u => ctxOnly s u c
        ∧ u.ctx c = { x with ckpt := { x.ckpt with armed := true } })
      ∧ (s.mayCheckpoint c = false → refuses (.ckptArm ch) s ch m 9 2))
    ∧ (asksCtx s ch m 0x0702 8 → x.ckpt.slotA.valid = true → manStep x.ckpt.slotA.manifest = fld m.payload 0 8 →
        x.ckpt.slotA.buddy = false → oks (.ckptDrained ch) s ch m [] fun u => ctxOnly s u c
          ∧ u.ctx c = { x with ckpt := { x.ckpt with slotA := { x.ckpt.slotA with drained := true } } })
    ∧ (asksCtx s ch m 0x0702 8 → x.ckpt.slotA.valid = false → x.ckpt.slotB.valid = false → refuses (.ckptDrained ch) s ch m 4 0)
    ∧ (asks s ch m 0x0703 3 → fld m.payload 2 1 < 2 → fld m.payload 1 1 < 16 →
      let d := fld m.payload 1 1
      let kind := fld m.payload 0 1
      (kind ≤ 2 → s.bound k d = false → refuses (.ckptOpen ch) s ch m 7 1)
      ∧ (kind = 0 → s.bound k d = true → s.exists_ d = false → refuses (.ckptOpen ch) s ch m 5 0)
      ∧ (kind = 1 → s.bound k d = true → s.areaOf d = none → refuses (.ckptOpen ch) s ch m 5 0)
      ∧ ((kind = 2 ∨ (kind = 0 ∧ s.exists_ d = true)) → s.bound k d = true → ∃ n, 0 < n
          ∧ (∀ h ∈ s.hub.handles, h.1 ≠ n) ∧ oks (.ckptOpen ch) s ch m (leBytes 2 n) fun u =>
            u = { s with hub := { s.hub with handles := u.hub.handles } } ∧ (∀ j, j ≠ n → u.handle j = s.handle j)
              ∧ u.handle n = ⟨k, kind, d, decide (fld m.payload 2 1 = 1), 0, [], [], []⟩))
    ∧ (asksCtx s ch m 0x0704 4 → fld m.payload 0 1 = 2 → fld m.payload 1 1 ≤ 1 →
      let h := s.handle (fld m.payload 2 2)
      let src := srcSet v.kept h.data h.poison
      let restart : Bool := fld m.payload 1 1 = 1
      ((h.kind ≠ 2 ∨ h.sess ≠ k ∨ h.ctx ≠ c) → refuses (.ckptRestore ch) s ch m 4 2)
      ∧ (h.kind = 2 → h.sess = k → h.ctx = c → s.quiet c = false → refuses (.ckptRestore ch) s ch m 5 2)
      ∧ (h.kind = 2 → h.sess = k → h.ctx = c → s.quiet c = true →
        exec (.ckptRestore ch) s = .next (match v.restorable c src restart, v.verify c src (v.ctx c).cfg.set.arrival with
          | some r, _ => v.daggerEnd c r.1 r.2
          | none, some r => v.daggerEnd c r.1 r.2
          | none, none => (v.restore c src restart none).daggerEnd c 0 0))
      ∧ ∀ (y : Src) (b : Bool), let t := (v.restore c y b none).daggerEnd c 0 0
        (t.ctx c).state = .ready ∧ (t.ctx c).step = y.capt.step ∧ (t.ctx c).ckpt.written = []
          ∧ (t.ctx c).cfg.set.prio = x.cfg.set.prio ∧ (t.ctx c).cfg.set.seed = y.capt.cfg.set.seed
          ∧ (t.ctx c).dagger = some ⟨ch, m.tag, m.cmd, 0, 0, true⟩)
    ∧ (asksCtx s ch m 0x020A 5 →
      (fld m.payload 2 1 ≤ 16 → fld m.payload 3 1 ≤ 72 → goes (.ctxResize ch) s fun t =>
        t = { s.answer ch m 1 0 [] with ctxs := t.ctxs } ∧ (∀ d, d ≠ c → t.ctx d = s.ctx d)
          ∧ t.ctx c = { x with
              dagger := some ⟨ch, m.tag, m.cmd, 0, 0, false⟩
              resize := some ⟨fld m.payload 0 2, fld m.payload 2 1, fld m.payload 3 1, fld m.payload 4 1, none, false, false, none⟩ })
      ∧ (16 < fld m.payload 2 1 → refuses (.ctxResize ch) s ch m 4 2))
    ∧ (asksCtx s ch m 0x020B 6 →
      let o := fld m.payload 0 1
      (o < 16 → o ≠ c → s.bound k o = false → refuses (.ctxLend ch) s ch m 7 1)
      ∧ ((16 ≤ o ∨ o = c) → refuses (.ctxLend ch) s ch m 4 0)
      ∧ (o < 16 → o ≠ c → s.bound k o = true → (s.ctx o).dagger = none → s.exists_ o = true →
          (∀ j, j < 16 → bits (fld m.payload 2 2) j 1 = 1 → j ∈ x.slices) →
          ((List.range 16).filter fun j => bits (fld m.payload 2 2) j 1 = 1).length < x.slices.length →
          fld m.payload 4 1 = 0 → fld m.payload 5 1 ≤ x.ddrUnits.length → goes (.ctxLend ch) s fun t =>
            t = { s.answer ch m 1 0 [] with ctxs := t.ctxs } ∧ (∀ d, d ≠ c → d ≠ o → t.ctx d = s.ctx d)
              ∧ t.ctx c = { x with
                  dagger := some ⟨ch, m.tag, m.cmd, 0, 0, false⟩
                  resize := some ⟨fld m.payload 2 2, 0, 0, fld m.payload 5 1, some o, false, false, none⟩ }
              ∧ t.ctx o = { s.ctx o with
                  resize := some ⟨fld m.payload 2 2, 0, 0, fld m.payload 5 1, some c, true, false, none⟩ }))

/-- The notice COMPLETE that ends long commands. -/
def completions : Prop :=
  ∀ (s : State) (d : Dagger),
    (∀ c, c < 16 → (s.ctx c).dagger = some d →
      (d.ready = true → goes (.commandComplete c) s fun t => (t.ctx c).dagger = none
        ∧ t = ({ s with ctxs := t.ctxs } : State).noteComplete d ∧ ∀ e, e ≠ c → t.ctx e = s.ctx e)
      ∧ (d.ready = false → d.cmd ≠ 0x0704 → idles (.commandComplete c) s))
    ∧ (s.hub.dagger = some d →
      (d.ready = true → exec (.commandComplete 16) s =
        .next (({ s with hub := { s.hub with dagger := none } } : State).noteComplete d))
      ∧ (d.ready = false → d.cmd ≠ 0x0601 → idles (.commandComplete 16) s)
      ∧ (d.ready = false → d.cmd = 0x0601 → s.twin.peerCkpt ≠ [] → s.twin.peerPart = s.part.part →
          s.twin.peerSig.toNat = nsig → s.twin.mode = 0 → d.status = 0 → s.twin.region = [] →
          (∀ c, c < 16 → (s.ctx c).ckpt.copying = none) → s.twin.peerCopy = 0 → goes (.commandComplete 16) s fun t =>
            t.twin.paired = true ∧ t.twin.lost = false ∧ t.hub.dagger = none ∧ t.cores = s.cores ∧ t.ctxs = s.ctxs))
    ∧ (∀ r m0, d.cmd ≠ 0x0704 → s.findChan (bindDst (s.bind d.ch)) (bindSrc (s.bind d.ch)) = some r →
        bindSrc (s.bind d.ch) < 8 → (s.session (bindSrc (s.bind d.ch))).opened = true → s.hub.outbox = [] →
        (s.chan r).slots = m0 → m0.length < 8 →
        ((s.noteComplete d).chan r).slots = m0 ++ [⟨0x0F22, 2, d.status, d.tag, (s.chan r).mseq, d.detail, []⟩])

/-- Requests about the pair, firmware and configuration. -/
def deviceWrites : Prop :=
  ∀ (s : State) (ch : Nat) (m : Msg),
    let o := fld m.payload 0 4
    let k := s.reqSess ch
    let idle : Prop := s.hub.dagger = none
    let v := s.answer ch m 1 0 []
    let ends (t : State) (st : Byte) (de : U32) : Prop := t.hub.dagger = some ⟨ch, m.tag, m.cmd, st, de, true⟩
    k < 8 →
    (asks s ch m 0x0601 2 → idle →
      (3 < fld m.payload 0 1 → refuses (.pairPair ch) s ch m 4 0)
      ∧ (fld m.payload 0 1 ≤ 3 → s.twin.up = false → goes (.pairPair ch) s fun t => ends t 0x10 0
          ∧ t = { v with hub := t.hub } ∧ t.hub = { v.hub with dagger := t.hub.dagger })
      ∧ (fld m.payload 0 1 ≤ 3 → s.twin.up = true → s.twin.waiting = [] → s.twin.unacked.length ≤ 1022 →
          goes (.pairPair ch) s fun t =>
          t.hub.dagger = some ⟨ch, m.tag, m.cmd, BitVec.ofNat 8 (fld m.payload 0 1), BitVec.ofNat 32 (fld m.payload 1 1), false⟩
            ∧ t.cores = s.cores ∧ t.ctxs = s.ctxs ∧ t.mem = s.mem
            ∧ ∃ w w', t.twin.unacked = s.twin.unacked ++ [w, w'] ∧ w.chan = 7 ∧ w'.chan = 7 ∧ w.seq = s.twin.txSeq
              ∧ w'.seq = s.twin.txSeq + 1))
    ∧ (asks s ch m 0x0602 3 → idle → fld m.payload 0 1 ≤ 3 →
      let mode := fld m.payload 0 1
      let units := fld m.payload 1 1
      (∀ c, c < 16 → (s.ctx c).ckpt.copying = none) → (s.twin.paired = false ∨ s.twin.peerCopy = 0) →
      (∀ e, s.modeRule mode units = some e → goes (.pairMode ch) s fun t => ends t 9 (BitVec.ofNat 32 e) ∧ t.twin = s.twin
        ∧ t.mem = s.mem ∧ t.aon = s.aon)
      ∧ (mode = 0 → s.twin.region = [] → s.twin.up = false → goes (.pairMode ch) s fun t => ends t 0 0 ∧ t.twin.mode = 0
          ∧ t.aon = { s.aon with twinRstEnable := false } ∧ t.mem = s.mem ∧ t.ctxs = s.ctxs)
      ∧ (mode = 2 → s.modeRule 2 units = none → s.twin.up = false → goes (.pairMode ch) s fun t => ends t 0 0
          ∧ t.twin = { s.twin with mode := 2, isSpare := false, region := [], peerDrained := [] }
          ∧ t.aon = { s.aon with twinRstEnable := true } ∧ t.mem = s.mem ∧ t.ctxs = s.ctxs))
    ∧ (asks s ch m 0x0603 0 → idle →
      ((s.twin.paired = false ∨ s.twin.silent = false) → goes (.pairTakeover ch) s fun t => ends t 0x10 0
        ∧ t = { v with hub := t.hub })
      ∧ (s.twin.paired = true → s.twin.silent = true → s.twin.mode ≠ 1 → s.twin.mode ≠ 3 →
          (∀ c, c < 16 → (s.ctx c).ckpt.copying = none) →
          (∀ c, c < 16 → ∀ e ∈ (s.ctx c).cfg.endpoints, epTwin e.2 = false) → goes (.pairTakeover ch) s fun t => ends t 0 0
            ∧ t.twin.mode = 0 ∧ t.twin.paired = false ∧ t.twin.lost = true ∧ .twinReset ∈ t.sent ∧ t.ctxs = s.ctxs
            ∧ t.mem = s.mem))
    ∧ (asks s ch m 0x0604 1 →
      (fld m.payload 0 1 ≤ 2 → oks (.pairTime ch) s ch m [] fun u =>
        u = { s with aon := { s.aon with tsource := fld m.payload 0 1 } })
      ∧ (2 < fld m.payload 0 1 → refuses (.pairTime ch) s ch m 4 0))
    ∧ (asks s ch m 0x0901 8 → o + fld m.payload 4 4 ≤ 67108864 →
      let l := s.stgRead k o (fld m.payload 4 4)
      (∀ e, s.objCheck l = some e → refuses (.fwStage ch) s ch m e.1 e.2)
      ∧ (s.objCheck l = none → oks (.fwStage ch) s ch m [] fun u =>
          u = { s with hub := { s.hub with staged := some (l.take (objLen l)) } }))
    ∧ (asks s ch m 0x0902 0 → idle →
      (s.hub.staged = none → refuses (.fwCommit ch) s ch m 5 0)
      ∧ (∀ b e, s.hub.staged = some b → s.objCheck b = some e → refuses (.fwCommit ch) s ch m e.1 e.2)
      ∧ (∀ b, s.hub.staged = some b → s.objCheck b = none →
        (objKind b = 0 → goes (.fwCommit ch) s fun t => ends t 0 0 ∧ t.hub.staged = none ∧ t.flash = s.flash.commit b
          ∧ t.part = s.part ∧ t.vault = s.vault)
        ∧ (objKind b = 1 → goes (.fwCommit ch) s fun t => ends t 0 0 ∧ t.part = s.part.burnLc (objBody b 1)
          ∧ t.vault.valid = false ∧ t.vault.key = 0 ∧ t.aon.lcBurned = true ∧ t.flash = s.flash)
        ∧ (objKind b = 2 → s.revokeBad b (objBody b 1) = false → goes (.fwCommit ch) s fun t => ends t 0 0
          ∧ t.part = { s.part with revoke := s.part.revoke ||| BitVec.ofNat 4 (2 ^ objBody b 1) } ∧ t.flash = s.flash)
        ∧ (objKind b = 2 → s.revokeBad b (objBody b 1) = true → refuses (.fwCommit ch) s ch m 4 0x90)
        ∧ (objKind b = 3 → goes (.fwCommit ch) s fun t => ends t 0 0 ∧ t.vault.valid = false ∧ t.part = s.part
          ∧ t.aon.debugToken = some (BitVec.ofNat 32 (objBody b 4 % 8)) ∧ t.flash = s.flash)))
    ∧ (asks s ch m 0x0903 0 →
      (s.aon.recovery = false → s.aon.stage ≠ 0 → goes (.fwActivate ch) s fun t => t.aon.stage = 1
        ∧ t.aon.resetLog = s.aon.resetLog ++ [7] ∧ t.ctxs = [] ∧ t.vault.valid = false ∧ t.part.dieB = [0, 0, 0, 0]
        ∧ t.flash = s.flash)
      ∧ (s.aon.recovery = true → s.hub.staged = none → refuses (.fwActivate ch) s ch m 5 0)
      ∧ (∀ b, s.aon.recovery = true → s.hub.staged = some b → s.objCheck b = none → objKind b = 0 →
          goes (.fwActivate ch) s fun t => t.aon.recovery = false ∧ t.aon.image = b ∧ t.hub.staged = none
            ∧ t.hub.bind = [] ∧ t.part = s.part ∧ ∀ j, j < 8 → (t.session j).opened = false))
    ∧ (asks s ch m 0x0C01 4 → o ≤ 67108864 →
      let g := fabCfgRead (s.stgRead k o (min 4096 (67108864 - o)))
      (g.ok = false ∧ refuses (.cfgFabric ch) s ch m 4 0)
      ∨ (g.ok = true ∧ oks (.cfgFabric ch) s ch m [] fun u => u = { s with fab := u.fab } ∧ u.fab.fabdev = g.fabdev
          ∧ u.fab.fabpay = g.pay ∧ u.fab.fabdev ≠ 0 ∧ (u.fab.fabpay = 2048 ∨ u.fab.fabpay = 4096 ∨ u.fab.fabpay = 8192)
          ∧ ∀ p, p < 16 → (u.fport p).addr = g.addrs.getD p 0 ∧ (u.fport p).up = (s.fport p).up))
    ∧ (asks s ch m 0x0C02 4 → o + 98 ≤ 67108864 → oks (.cfgHostnet ch) s ch m [] fun u =>
        let l := s.stgRead k o 98
        u = { s with hub := { s.hub with port0 := u.hub.port0, port1 := u.hub.port1, udp := u.hub.udp } }
          ∧ u.hub.udp = BitVec.ofNat 16 (fld l 96 2) ∧ u.hub.port0.addr = BitVec.ofNat 128 (beNat (slice l 0 16))
          ∧ u.hub.port1.addr = BitVec.ofNat 128 (beNat (slice l 48 16)) ∧ u.hub.port0.vlan = fld l 33 2)
    ∧ (asks s ch m 0x0C03 4 →
      let mode := fld m.payload 0 1
      let cap := fld m.payload 2 2
      (mode ≤ 2 → (cap = 0 ∨ 600 ≤ cap) → oks (.cfgPower ch) s ch m [] fun u =>
        u = { s with pwr := { s.pwr with mode := mode, cap := cap } })
      ∧ (mode ≤ 2 → 0 < cap → cap < 600 → refuses (.cfgPower ch) s ch m 4 2)
      ∧ (2 < mode → refuses (.cfgPower ch) s ch m 4 0))

end Sys2Proof.Statements

/-- R376, R377, R100, R112, R125, R210, R230, R262, R280, R373, R379, R30: requests that write: a context is formed or
destroyed, tables are loaded whole or not at all, semaphores set or incremented, memory zeroed, programs loaded and
unloaded, strands started and stopped. -/
def Obligations.RequestsWrite : Prop := contextWrites ∧ runWrites

/-- R299, R309, R312, R313, R315, R317, R370, R375: checkpoint requests arm, mark as drained, open handles and restore;
a resize or lend starts; each long command ends with its one notice COMPLETE. -/
def Obligations.LongRequests : Prop := checkpointRequests ∧ completions

/-- R18, R226, R261, R294, R320, R390 to R392, R431: pairing, its modes and the takeover of a silent twin; firmware
staged, committed and activated; fabric, host-port and power configuration. -/
def Obligations.DeviceRequests : Prop := deviceWrites

/-! ### Resets and release -/

namespace Sys2Proof.Statements

/-- A reset of SYSRST_N reach has been made for `cause` (Table 15.4): no context, no key, no session or staged object,
cores and links as after POR; always-on logs, the time base, fuses, flash and the counters of POR stand. -/
def wideDone (s t : State) (cause : Nat) : Prop :=
  t.ctxs = [] ∧ t.vault = {} ∧ t.aon.stage = 1 ∧ t.aon.resetLog = s.aon.resetLog ++ [cause]
    ∧ t.aon.releaseAt = s.now + 376 ∧ t.aon.recovery = false ∧ t.aon.twinRstEnable = false ∧ t.aon.tbase = s.aon.tbase
    ∧ t.aon.faultLog = s.aon.faultLog ∧ t.aon.debugScope = s.aon.debugToken ∧ t.aon.debugToken = none
    ∧ t.hub.bind = [] ∧ t.hub.lock = false ∧ t.hub.staged = none ∧ t.hub.cper = [] ∧ (∀ k, (t.session k).opened = false)
    ∧ (∀ n, (t.chan n).slots = [] ∧ (t.chan n).db = 0) ∧ t.twin.up = false ∧ t.twin.paired = false ∧ t.twin.mode = 0
    ∧ (∀ p, (t.core p).strands = [] ∧ (t.core p).cells = [] ∧ (t.core p).sp = [] ∧ (t.core p).power = .off
        ∧ (t.core p).svc = .serving)
    ∧ (∀ k, (t.fport k).up = false) ∧ t.mem.stage = [] ∧ t.mem.inReset = [] ∧ t.part.dieB = [0, 0, 0, 0]
    ∧ t.part.lcpos = s.part.lcpos ∧ t.part.retired = s.part.retired ∧ t.flash = s.flash ∧ t.lib = s.lib
    ∧ t.pwr.lvltime = s.pwr.lvltime ∧ t.pwr.level = 7 ∧ t.twin.twldrop = s.twin.twldrop

/-- Sources of a reset of the whole device. -/
def resetSources : Prop :=
  ∀ (s : State),
    (goes .por s fun t =>
      t = { State.reset with
              pending := s.pending, freeCtr := s.freeCtr, now := s.now, sent := s.sent, flash := s.flash, lib := s.lib
              mem := t.mem, part := { s.part with dieB := [0, 0, 0, 0] } }
        ∧ t.mem.stage = [] ∧ t.mem.ddrGib = 0 ∧ t.mem.inReset = [])
    ∧ (∀ b k w, s.aon.stage = 0 → goes (.vddAonValid b k w) s fun t => t.aon.stage = 1 ∧ (0 : Nat) ∉ t.aon.sources
        ∧ t.aon.bootsrc = BitVec.ofNat 2 b ∧ t.aon.clkmode = BitVec.ofNat 2 k ∧ t.aon.twinside = w
        ∧ t.aon.releaseAt = s.now + 2407 ∧ t.cores = s.cores ∧ t.mem = s.mem ∧ t.hub = s.hub ∧ t.part = s.part)
    ∧ (∀ b k w, s.aon.stage ≠ 0 → idles (.vddAonValid b k w) s)
    ∧ (∀ n, 1 ≤ n → n ≤ 9 → s.aon.stage ≠ 0 → goes (.sysrst n) s fun t => wideDone s t n
        ∧ (n = 1 → (1 : Nat) ∈ t.aon.sources) ∧ (n ≠ 1 → t.aon.sources = s.aon.sources))
    ∧ (∀ n, n = 0 ∨ 9 < n → idles (.sysrst n) s)
    ∧ ((1 : Nat) ∈ s.aon.sources → goes .sysrstNRelease s fun t => t = { s with aon := { s.aon with
        sources := s.aon.sources.filter (· ≠ 1), releaseAt := s.now + 376 } })
    ∧ ((1 : Nat) ∉ s.aon.sources → idles .sysrstNRelease s)

/-- The release sequence of Table 15.5 and what runs in it. -/
def releaseSequence : Prop :=
  ∀ (s : State),
    let free : Prop := s.aon.sources = [] ∧ s.aon.pwrok = true ∧ s.aon.railsBad = false ∧ s.aon.releaseAt ≤ s.now
    let to_ (n : Nat) (P : State → Prop) : Prop := goes .releaseStage s fun t => t.aon.stage = n ∧ P t
    (¬free → idles .releaseStage s)
    ∧ (free → s.aon.stage = 1 → to_ 2 fun t => t = { s with aon := { s.aon with stage := 2, stageAt := s.now } })
    ∧ (free → s.aon.stage = 2 → (∃ h n, (PllId.hub h, n) ∈ s.pwr.failed) → idles .releaseStage s)
    ∧ (free → s.aon.stage = 2 → s.pwr.failed = [] → s.pwr.dead = [] → s.part.lc ≠ 4 → s.aon.bootsrc = 3 →
        to_ 3 fun t => t.aon.imageWait = some s.now ∧ t.hub = s.hub)
    ∧ (free → s.aon.stage = 2 → s.pwr.failed = [] → s.pwr.dead = [] → s.part.lc ≠ 4 → s.aon.bootsrc = 0 →
        s.flash.copyA = [] → s.flash.copyB = [] → to_ 3 fun t => t.aon.recovery = true ∧ stewGet t.hub 0 = .working
          ∧ t.hub.serves = [0, 0, 0, 0])
    ∧ (free → s.aon.stage = 3 → s.aon.recovery = true → idles .releaseStage s)
    ∧ (free → s.aon.stage = 3 → s.aon.recovery = false → s.part.lc ≠ 4 → s.part.lc ≠ 0 → s.aon.image ≠ [] →
        to_ 4 fun t => (∀ k, k < 4 → stewGet t.hub k = .working) ∧ t.part.lcpos = s.part.lcpos)
    ∧ (free → s.aon.stage = 4 → to_ 5 fun t => t.aon.zeroing = true ∧ t.hub = s.hub
        ∧ (∀ c : DimmChan, s.part.dimms = List.replicate 16 c →
            (c.ok = true → c.trains = true → t.mem.ddrGib = 16 * c.gib ∧ t.mem.ddrHalf = 0)
            ∧ (c.trains = false → t.mem.ddrGib = 0))
        ∧ (∀ c d : DimmChan, s.part.dimms = List.replicate 8 c ++ List.replicate 8 d →
            (c.ok = true → c.trains = true → d.trains = false → t.mem.ddrGib = 8 * c.gib ∧ t.mem.ddrHalf = 1)
            ∧ (c.trains = false → d.ok = true → d.trains = true → t.mem.ddrGib = 8 * d.gib ∧ t.mem.ddrHalf = 2)
            ∧ (c ≠ d → c.trains = true → d.trains = true → c.ok = true → d.ok = true → t.mem.ddrGib = 0)))
    ∧ (free → s.aon.stage = 5 → s.flash.binding = [] → to_ 6 fun t => t.hub.lock = true
        ∧ (∀ n, n < 8 → t.bind n = BitVec.ofNat 16 (n + 32 * (8 + n / 2) + 1024))
        ∧ ∀ k, k < 8 → (t.session k).hkey = 0 ∧ ((t.session k).admin = true ↔ k = 0))
    ∧ (free → s.aon.stage = 6 → to_ 7 fun t => t = { s with aon := { s.aon with stage := 7, stageAt := s.now } })
    ∧ (free → s.aon.stage = 7 → to_ 8 fun t => t.pwr = s.pwr ∧ t.sent.length = s.sent.length + 8)
    ∧ (s.aon.stage = 8 → idles .releaseStage s)
    ∧ (∀ n, s.aon.imageWait = some n →
        (s.now - n < 940000000 → idles .bootImageTimeout s)
        ∧ (940000000 ≤ s.now - n → s.twin.imageTop = 0 → goes .bootImageTimeout s fun t =>
            t.aon.recovery = true ∧ t.aon.imageWait = none ∧ stewGet t.hub 0 = .working))
    ∧ (s.aon.imageWait = none → idles .bootImageTimeout s)
    ∧ (s.aon.zeroing = true → goes .memoryZeroing s fun t => t.aon = { s.aon with zeroing := false }
        ∧ (∀ a, t.byteAt .hbm a = 0 ∧ t.byteAt .ddr a = 0 ∧ t.bad .hbm a = false ∧ t.bad .ddr a = false)
        ∧ (∀ e ∈ t.mem.latent, e.store ≠ .hbm ∧ e.store ≠ .ddr) ∧ t.cores = s.cores ∧ t.hub = s.hub)
    ∧ (s.aon.zeroing = false → idles .memoryZeroing s)

/-- Resets of one core, port or interface. -/
def blockResets : Prop :=
  ∀ (s : State),
    (∀ p, 272 ≤ p → idles (.corerst p) s)
    ∧ (∀ p c v, p < 272 → s.ownerOf p = some (c, v) → exec (.corerst p) s = .next (s.ctxReset c))
    ∧ (∀ p, p < 272 → s.ownerOf p = none → goes (.corerst p) s fun t => (t.core p).cells = [] ∧ (t.core p).captures = []
        ∧ (∀ n e, (((t.core p).strand n).stream e).state = .idle)
        ∧ (∀ a, a < 6291456 → Memory.read (t.core p).sp a = 0) ∧ (∀ q, q ≠ p → t.core q = s.core q) ∧ t.ctxs = s.ctxs
        ∧ t.hub = s.hub ∧ t.mem.hbm = s.mem.hbm)
    ∧ (∀ p, (p ∈ s.mem.inReset ∨ p ∈ s.mem.isolated) → idles (.portrst p) s)
    ∧ (∀ p, p ∉ s.mem.inReset → p ∉ s.mem.isolated →
      let held (t : State) : Prop := t.mem = { s.mem with inReset := s.mem.inReset ++ [p] }
      (∀ k, p = .fabric k → goes (.portrst p) s fun t => held t ∧ (t.fport k).up = false ∧ t.cores = s.cores
        ∧ t.ctxs = s.ctxs)
      ∧ (∀ k, p = .host k → goes (.portrst p) s fun t => held t ∧ t.hub = s.hub)
      ∧ (p = .twin → s.twin.unacked = [] → s.twin.waiting = [] →
          goes (.portrst p) s fun t => held t ∧ t.twin.up = false ∧ t.ctxs = s.ctxs)
      ∧ (∀ n, (p = .hbm n ∨ p = .ddr n) → (∀ c, c < 16 → s.exists_ c = false) → (∀ c, c < 16 → (s.ctx c).grid = []) →
          goes (.portrst p) s fun t => held t ∧ t.cores = s.cores))
    ∧ (∀ p b, p ∉ s.mem.inReset → idles (.portRetrainDone p b) s)
    ∧ (∀ p, p ∈ s.mem.inReset → s.pwr.failed = [] → s.pwr.dead = [] →
      (∀ k, p = .fabric k → 7 ≤ s.aon.stage → goes (.portRetrainDone p true) s fun t => p ∉ t.mem.inReset
        ∧ (t.fport k).up = true)
      ∧ (∀ k, p = .host k → goes (.portRetrainDone p true) s fun t => p ∉ t.mem.inReset ∧ t.hub = s.hub)
      ∧ (p = .twin → s.aon.imageWait = none → goes (.portRetrainDone p true) s fun t => p ∉ t.mem.inReset)
      ∧ (∀ n, (p = .hbm n ∨ p = .ddr n) → s.mem.pendPoison = [] →
          (goes (.portRetrainDone p true) s fun t => p ∉ t.mem.inReset ∧ t.mem.isolated = s.mem.isolated)
          ∧ (goes (.portRetrainDone p false) s fun t => p ∉ t.mem.inReset ∧ p ∈ t.mem.isolated
              ∧ ((∀ c, c < 16 → s.exists_ c = false ∧ (s.ctx c).disps = []) → (∀ k, k < 8 → (s.session k).ahead = []) →
                  eventAdded s t 6)))
      ∧ (∀ k, (p = .fabric k ∨ p = .host k ∨ p = .twin) → idles (.portRetrainDone p false) s))

end Sys2Proof.Statements

/-- R408, R413 to R415, Table 15.4: power-on reset leaves everything but fuses, flash and what the memories hold (their
zeroing is a step of its own) as at reset; a cause of Table 15.3 brings a reset of SYSRST_N reach, held 400 ns after
its source; the straps are sampled once. -/
def Obligations.ResetReach : Prop := resetSources

/-- R339, R352, R355, R386, R390, R418, R420: each release stage begins once no source holds it: the boot ROM, stewards,
memory training and zeroing, the binding table and its lock, ports, rails. -/
def Obligations.ReleaseSequence : Prop := releaseSequence

/-- R421 to R425: CORERST clears one core or resets its context; a port or interface is held in reset until it has
retrained, and a memory interface that does not is isolated with a memory event. -/
def Obligations.BlockResets : Prop := blockResets

/-! ### Rails, tamper, temperature, clocks -/

namespace Sys2Proof.Statements

/-- What PWROK, rails and sensors do, on a device that is not paired. -/
def railsAndSensors : Prop :=
  ∀ (s : State), s.twin.paired = false →
    let aon (t : State) (a : Aon) : Prop := t = { s with aon := a }
    (s.aon.pwrok = true → goes .pwrokFall s fun t => aon t { s.aon with pwrok := false, pwrokFellAt := some s.now })
    ∧ (s.aon.pwrok = false → idles .pwrokFall s)
    ∧ (∀ n, s.aon.pwrokFellAt = some n →
        ((s.now - n < 7520 ∨ s.aon.stage < 2) → idles .pwrokResetTimer s)
        ∧ (7520 ≤ s.now - n → 2 ≤ s.aon.stage → goes .pwrokResetTimer s fun t => wideDone s t 2
            ∧ (s.aon.pwrok = false → (2 : Nat) ∈ t.aon.sources)))
    ∧ (s.aon.pwrok = false → goes .pwrokRise s fun t => t.aon.pwrok = true ∧ (2 : Nat) ∉ t.aon.sources
        ∧ t = { s with aon := t.aon } ∧ t.aon.releaseAt = s.now + 376)
    ∧ (∀ r v, s.aon.stage ≠ 0 → s.aon.pwrok = true → s.aon.railFaultAt = none → goes (.railFault r v) s fun t =>
        aon t { s.aon with railLog := s.aon.railLog ++ [(r, v)], railsBad := true, railFaultAt := some s.now })
    ∧ (∀ r v, s.aon.pwrok = false → 2 ≤ s.aon.stage → goes (.railFault r v) s fun t => wideDone s t 2)
    ∧ (∀ n, s.aon.railFaultAt = some n →
        (s.now - n < 4700 → idles .railFaultResetTimer s)
        ∧ (4700 ≤ s.now - n → s.aon.tamperAt = none → s.aon.stage ≠ 0 → goes .railFaultResetTimer s fun t =>
            wideDone s t 4 ∧ (4 : Nat) ∈ t.aon.sources ∧ t.aon.railFaultAt = none))
    ∧ (s.aon.railsBad = true → goes .railsGood s fun t => t.aon.railsBad = false ∧ (4 : Nat) ∉ t.aon.sources
        ∧ t = { s with aon := t.aon })
    ∧ (s.aon.railsBad = false → idles .railsGood s)
    ∧ (∀ k, s.aon.stage ≠ 0 → s.aon.tamperHeld = false → goes (.tamperTrip k) s fun t => t.vault.valid = false
        ∧ t.vault.key = 0 ∧ t.vault.alias_ = 0 ∧ t.vault.ckpt = 0 ∧ t.aon.tamperLog = s.aon.tamperLog ++ [k]
        ∧ t.aon.tamperSincePor = true ∧ k ∈ t.aon.tripped ∧ t.aon.tamperAt.isSome = true
        ∧ t = { s with aon := t.aon, vault := t.vault })
    ∧ (∀ n, s.aon.tamperAt = some n →
        (s.now - n < 9400 → idles .tamperReset s)
        ∧ (9400 ≤ s.now - n → s.aon.stage ≠ 0 → s.part.tampcnt = 0 → goes .tamperReset s fun t => wideDone s t 3
            ∧ t.part.tampcnt = 1 ∧ t.aon.tamperAt = none ∧ (s.aon.tripped ≠ [] → (3 : Nat) ∈ t.aon.sources)))
    ∧ (s.aon.tamperAt = none → idles .tamperReset s)
    ∧ (goes .tamperSensorClear s fun t => t.aon.tripped = [] ∧ (3 : Nat) ∉ t.aon.sources ∧ t = { s with aon := t.aon })
    ∧ (goes .vaultError s fun t => t.vault.valid = false ∧ t.vault.key = 0 ∧ t.vault.alias_ = 0 ∧ t.aon.keysLost = true
        ∧ eventAdded s t 6 ∧ t.part = s.part ∧ t.mem = s.mem)
    ∧ idles .thermalImminent s
    ∧ (∀ v, v < 120 → idles (.thermalTrip v) s)
    ∧ (∀ v, 120 ≤ v → v ≤ 140 → s.aon.stage ≠ 0 → goes (.thermalTrip v) s fun t => wideDone s t 5
        ∧ t.aon.thermtrip = true ∧ (5 : Nat) ∈ t.aon.sources ∧ .pin 0 0 ∈ t.sent ∧ t.part.tampcnt = s.part.tampcnt)
    ∧ (∀ v, 140 < v → s.aon.stage ≠ 0 → goes (.thermalTrip v) s fun t => wideDone s t 5 ∧ t.aon.thermtrip = true
        ∧ t.aon.tamperLog = s.aon.tamperLog ++ [2])
    ∧ (∀ n, s.aon.pwrokFellAt = some n →
        (s.aon.thermtrip = true → s.aon.pwrok = false → 9400000 ≤ s.now - n → goes .thermtripRelease s fun t =>
          t.aon.thermtrip = false ∧ (5 : Nat) ∉ t.aon.sources ∧ t = { s with aon := t.aon, sent := s.sent ++ [.pin 0 1] })
        ∧ ((s.aon.thermtrip = false ∨ s.aon.pwrok = true ∨ s.now - n < 9400000) → idles .thermtripRelease s))

/-- A device whose twin is heard warns it of the approaching thermal limit. -/
def thermalWarning : Prop :=
  ∀ (s : State), s.twin.up = true → s.twin.paired = true → s.twin.waiting = [] → s.twin.unacked.length < 1024 →
    goes .thermalImminent s fun t => t.mem = s.mem
    ∧ t.cores = s.cores ∧ t.ctxs = s.ctxs
    ∧ ∃ u, t.twin = { s.twin with
          txSeq := s.twin.txSeq + 1, unacked := s.twin.unacked ++ [u], lastTx := s.now, progressAt := t.twin.progressAt }
        ∧ u.chan = 8 ∧ u.payload = []

/-- Clock failures and their end. -/
def clocks : Prop :=
  ∀ (s : State) (p : PllId),
    (s.aon.stage ≠ 0 → (∀ e ∈ s.pwr.failed, e.1 ≠ p) → p ∉ s.pwr.dead →
      ((∃ h, p = .hub h ∨ p = .steward h) → s.twin.paired = false → goes (.clockFailure p) s fun t =>
        t.pwr.failed = [(p, s.now)] ∧ wideDone s t 8)
      ∧ (p = .timebase → goes (.clockFailure p) s fun t =>
          t = { s with pwr := { s.pwr with failed := s.pwr.failed ++ [(p, s.now)] }, sent := t.sent })
      ∧ (∀ k, p = .serdes (.host k) → .host k ∉ s.mem.inReset → .host k ∉ s.mem.isolated → goes (.clockFailure p) s fun t =>
          t.pwr.failed = s.pwr.failed ++ [(p, s.now)] ∧ .host k ∈ t.mem.inReset)
      ∧ (∀ k, p = .compute k → (∀ c, c < 16 → s.exists_ c = false) → goes (.clockFailure p) s fun t =>
          t.pwr.failed = s.pwr.failed ++ [(p, s.now)] ∧ (∀ q, q < 272 → coreRail q = k → (t.core q).power = .off
            ∧ (t.core q).cells = []) ∧ (∀ q, coreRail q ≠ k → t.core q = s.core q)))
    ∧ ((∃ e ∈ s.pwr.failed, e.1 = p) → idles (.clockFailure p) s)
    ∧ ((∃ e ∈ s.pwr.failed, e.1 = p) → goes (.pllLock p) s fun t => (∀ e ∈ t.pwr.failed, e.1 ≠ p)
        ∧ (∀ e ∈ s.pwr.failed, e.1 ≠ p → e ∈ t.pwr.failed)
        ∧ ((∃ h, p = .hub h ∨ p = .steward h) → s.now + 64 ≤ t.aon.releaseAt)
        ∧ ((∀ h, p ≠ .hub h ∧ p ≠ .steward h) → t.aon = s.aon))
    ∧ ((∀ e ∈ s.pwr.failed, e.1 ≠ p) → idles (.pllLock p) s ∧ idles (.pllLockTimeout p) s)
    ∧ (∀ n, s.pwr.failed = [(p, n)] →
        (s.now - n < 940000 → idles (.pllLockTimeout p) s)
        ∧ (940000 ≤ s.now - n → goes (.pllLockTimeout p) s fun t =>
            t = { s with pwr := { s.pwr with failed := [], dead := s.pwr.dead ++ [p] } }))

end Sys2Proof.Statements

/-- R399, R400, R402, R416, R439, R449, R450: the fall of PWROK, rail faults, tamper trips, vault errors and thermal trips
wipe keys where they must and bring their resets after their times, each held while its source stands. -/
def Obligations.RailsAndSensors : Prop := railsAndSensors ∧ thermalWarning

/-- R411, R412: a failed clock resets its block or the device, is released 64 cycles after lock, or stays in reset
without lock for 1 ms. -/
def Obligations.ClocksFail : Prop := clocks

/-! ### Test access port -/

namespace Sys2Proof.Statements

/-- The instructions of the port and what DBGACCESS reaches. -/
def tapInstructions : Prop :=
  ∀ (s : State), (6 : Nat) ∉ s.aon.sources →
    let ir (n : Nat) : State := { s with tap := { s.tap with ir := n } }
    let closed : Prop := s.debugOpen = false
    exec .bypass s = .next (ir 0)
    ∧ (s.part.lc = 4 → exec .idcode s = .next (ir 0) ∧ exec .samplePreload s = .next (ir 0)
        ∧ exec .extest s = .next (ir 0))
    ∧ (s.part.lc ≠ 4 → goes .idcode s fun t => t.tap.ir = 1
        ∧ t.tap.data = BitVec.ofNat 64 (0xDC7 + 2 ^ 12 * s.part.part.toNat + 2 ^ 28 * (if s.part.stepping = 0xB0 then 2 else 1))
        ∧ t = { s with tap := t.tap, sent := t.sent })
    ∧ (s.part.lc ≠ 4 → goes .samplePreload s fun t => t.tap.ir = 2
        ∧ t = { s with tap := t.tap, sent := t.sent, freeCtr := s.freeCtr + 1 })
    ∧ (s.part.lc ≠ 4 → s.aon.stage ≠ 0 → s.twin.paired = false → goes .extest s fun t => wideDone s t 6
        ∧ t.tap.ir = 3 ∧ (6 : Nat) ∈ t.aon.sources)
    ∧ (closed → ∀ op, exec (.dbgaccess op) s = .next (ir 0))
    ∧ (∀ op, goes (.dbgaccess op) s fun t => t.vault = s.vault ∧ t.part.uds = s.part.uds ∧ t.flash = s.flash
        ∧ t.aon.debugToken = s.aon.debugToken)
    ∧ (s.debugOpen = true → s.scope 1 = true → clean s →
        (∀ a, a < 1152 * 2 ^ 30 → goes (.dbgaccess (.memRead .hbm a)) s fun t => t.tap.ir = 4
          ∧ t.tap.data.toNat = (s.byteAt .hbm a).toNat ∧ t = { s with tap := t.tap, sent := t.sent })
        ∧ (∀ a b, a < 1152 * 2 ^ 30 → goes (.dbgaccess (.memWrite .hbm a b)) s fun t => t.byteAt .hbm a = b
          ∧ (∀ o, o ≠ a → t.byteAt .hbm o = s.byteAt .hbm o) ∧ (∀ o, t.byteAt .ddr o = s.byteAt .ddr o)))
    ∧ (s.debugOpen = true → s.scope 2 = true → (∀ n, n < 48 → exec (.dbgaccess (.fuseRead n)) s = .next (ir 4))
        ∧ (∀ n, 48 ≤ n → n < 256 → goes (.dbgaccess (.fuseRead n)) s fun t =>
            t.tap.data.toNat = (s.part.fuseBlock.getD n 0).toNat))
    ∧ (s.debugOpen = true → s.scope 0 = true → ∀ k, k < 4 → goes (.dbgaccess (.stewardHalt k)) s fun t => k ∈ t.hub.halted
        ∧ t.mem = s.mem)

end Sys2Proof.Statements

/-- R404 to R406, R446: the instructions of the test access port; EXTEST resets and wipes; DBGACCESS acts as BYPASS while
debug is closed, and reaches neither UDS nor the vault ever. -/
def Obligations.TestAccess : Prop := tapInstructions

/-! ### Power -/

namespace Sys2Proof.Statements

/-- Core and device power states. -/
def powerStates : Prop :=
  ∀ (s : State),
    (∀ p, p < 272 →
      let k := s.core p
      (k.power = .ready → k.active = false → 9400 ≤ s.now - k.powerAt → goes (.coreSleepTimer p) s fun t =>
        t.core p = { k with power := .asleep, powerAt := s.now } ∧ (∀ q, q ≠ p → t.core q = s.core q)
          ∧ ((∀ q, q < 272 → q ≠ p → (s.core q).power ≠ .ready) → t.pwr.dev = .idle ∧ t.pwr.idleSince = s.now)
          ∧ ((∃ q, q < 272 ∧ q ≠ p ∧ (s.core q).power = .ready) → t.pwr = s.pwr) ∧ t.mem = s.mem ∧ t.ctxs = s.ctxs)
      ∧ ((k.power ≠ .ready ∨ k.active = true ∨ s.now - k.powerAt < 9400) → idles (.coreSleepTimer p) s)
      ∧ (k.power = .asleep → s.ownerOf p = none → 940000 ≤ s.now - k.powerAt → goes (.coreOffTimer p) s fun t =>
          (t.core p).power = .off ∧ (t.core p).cells = [] ∧ (∀ a, a < 6291456 → Memory.read (t.core p).sp a = 0)
            ∧ ∀ q, q ≠ p → t.core q = s.core q)
      ∧ ((s.ownerOf p).isSome = true → idles (.coreOffTimer p) s)
      ∧ (8 ≤ s.aon.stage → k.power = .asleep → k.active = true → s.pwr.failed = [] → s.pwr.dead = [] →
          (∀ q, q < 272 → (s.core q).power ≠ .waking) → goes (.coreWake p) s fun t =>
            t.core p = { k with power := .waking, powerAt := s.now, ctrs := { k.ctrs with wakes := k.ctrs.wakes + 1 } }
              ∧ coreOnly s t p)
      ∧ (8 ≤ ((railCores (coreRail p)).filter fun q =>
            (s.core q).power = .waking && decide (s.now - (s.core q).powerAt < 94)).length → idles (.coreWake p) s)
      ∧ (k.power = .waking → goes (.coreWakeDone p) s fun t => (t.core p).power = .ready ∧ (t.core p).powerAt = s.now
          ∧ t.pwr = { s.pwr with dev := .run }
          ∧ (s.ownerOf p = none → t.core p = { k with power := .ready, powerAt := s.now }
            ∧ t = { s with cores := t.cores, pwr := { s.pwr with dev := .run } } ∧ ∀ q, q ≠ p → t.core q = s.core q))
      ∧ (k.power ≠ .waking → idles (.coreWakeDone p) s))
    ∧ (s.pwr.dev = .idle → 8 ≤ s.aon.stage → (∀ c, c < 16 → s.exists_ c = false ∧ (s.ctx c).colls = []
        ∧ (s.ctx c).disps = []) → s.twin.mode = 0 → s.hub.dagger = none → 940000000 ≤ s.now - s.pwr.idleSince →
        s.twin.up = false → goes .standbyTimer s fun t => t.pwr = { s.pwr with dev := .standby }
          ∧ (∀ k, k < 4 → stewGet t.hub k = if stewGet s.hub k = .working then .asleep else stewGet s.hub k)
          ∧ (∀ k, (t.fport k).up = false) ∧ t.cores = s.cores ∧ t.mem = s.mem)
    ∧ ((s.twin.mode ≠ 0 ∨ s.pwr.dev ≠ .idle ∨ s.hub.dagger.isSome = true) → idles .standbyTimer s)
    ∧ (∀ f : HostFrame, s.pwr.dev = .standby → s.hostUp f.port = true → f.ip.dport = s.hub.udp → f.crcOk = true →
        f.ver = 1 → hostType f.typ = true → goes (.standbyExit f) s fun t => t.pwr = { s.pwr with dev := .idle, idleSince := s.now }
          ∧ (∀ k, k < 4 → stewGet t.hub k = if stewGet s.hub k = .asleep then .waking else stewGet s.hub k)
          ∧ t.cores = s.cores ∧ t.mem = s.mem)
    ∧ (∀ f : HostFrame, (s.pwr.dev ≠ .standby ∨ f.ip.dport ≠ s.hub.udp ∨ f.crcOk = false) → idles (.standbyExit f) s)

/-- The power controller, throttling and lanes. -/
def powerControl : Prop :=
  ∀ (s : State),
    let due : Prop := 8 ≤ s.aon.stage ∧ 9400 ≤ s.now - s.pwr.stepAt
    let calm : Prop := s.aon.throttleLow = false ∧ s.pwr.holdUntil < s.now
    let lowered (t : State) : Prop := t.pwr.level = s.pwr.level + 1 ∧ t.pwr.raising = none ∧ t.sent.length = s.sent.length + 8
    (¬due → ∀ w v, idles (.powerControlStep w v) s)
    ∧ (∀ w v, due → calm → s.pwr.limits.2.1 < w → s.pwr.level < 7 → goes (.powerControlStep w v) s fun t => lowered t
        ∧ t.pwr.limstep = s.pwr.limstep + 1 ∧ t.cores = s.cores ∧ t.mem = s.mem)
    ∧ (∀ w v, due → calm → 95 < v → s.pwr.level < 7 → goes (.powerControlStep w v) s fun t => lowered t ∧ t.pwr.hot = true)
    ∧ (∀ w v, due → calm → s.pwr.limits.2.1 < w → s.pwr.level = 7 → s.pwr.gate < 4 → goes (.powerControlStep w v) s fun t =>
        t.pwr.gate = s.pwr.gate + 1 ∧ t.pwr.level = 7 ∧ t.sent = s.sent)
    ∧ (∀ w v n, due → calm → 100 * w ≤ 95 * s.pwr.limits.1 → v ≤ 90 → s.pwr.underSince = some n → 94000 ≤ s.now - n →
        (0 < s.pwr.gate → goes (.powerControlStep w v) s fun t => t.pwr.gate = s.pwr.gate - 1 ∧ t.pwr.level = s.pwr.level)
        ∧ (s.pwr.gate = 0 → 0 < s.pwr.level → s.pwr.raising = none → goes (.powerControlStep w v) s fun t =>
            t.pwr.raising = some (s.pwr.level - 1) ∧ t.pwr.level = s.pwr.level ∧ t.sent.length = s.sent.length + 8))
    ∧ (∀ w v, due → (s.aon.throttleLow = true ∨ s.now ≤ s.pwr.holdUntil) → goes (.powerControlStep w v) s fun t =>
        t.pwr.level = s.pwr.level
        ∧ t.pwr.gate = s.pwr.gate ∧ t.pwr.stepAt = s.now ∧ t.sent = s.sent)
    ∧ (s.pwr.mode = 2 → s.pwr.cap = 0 → s.pwr.limits = (1500, 1700, 100))
    ∧ (∀ r n, s.pwr.raising = some n →
        ((∀ j ∈ s.pwr.avsWait, j = r) → goes (.avsComplete r) s fun t =>
          t = { s with pwr := { s.pwr with level := n, raising := none, avsWait := [] } })
        ∧ ((∃ j ∈ s.pwr.avsWait, j ≠ r) → goes (.avsComplete r) s fun t =>
          t = { s with pwr := { s.pwr with avsWait := s.pwr.avsWait.filter (· ≠ r) } }))
    ∧ (s.pwr.raising = none → ∀ r, idles (.avsComplete r) s)
    ∧ (s.aon.stage ≠ 0 → s.aon.throttleLow = false → goes .throttleFall s fun t => t.aon.throttleLow = true
        ∧ t.pwr.raising = none ∧ t.pwr.level = s.pwr.level ∧ t.pwr.throttleStepAt = s.now)
    ∧ (s.aon.throttleLow = true → goes .throttleRise s fun t => t.aon.throttleLow = false
        ∧ t.pwr = { s.pwr with holdUntil := s.now + 94000 })
    ∧ (s.aon.throttleLow = false → idles .throttleRise s ∧ idles .throttleLevelStep s)
    ∧ (s.aon.throttleLow = true → s.pwr.level < 5 → 1880 ≤ s.now - s.pwr.throttleStepAt → goes .throttleLevelStep s fun t =>
        lowered t ∧ t.pwr.throttleStepAt = s.now)
    ∧ (5 ≤ s.pwr.level → idles .throttleLevelStep s)
    ∧ (∀ l : LaneId, (goes (.linkLaneEvent l true) s fun t => l ∉ t.twin.suspectLanes ∧ eventAdded s t 0x0C
          ∧ t.cores = s.cores ∧ t.mem = s.mem)
        ∧ (l.port < 16 → goes (.linkLaneEvent l false) s fun t => l ∈ t.twin.suspectLanes
            ∧ ∀ c e, c < 16 → s.exists_ c = true → (((t.ctx c).endpoint e).getLsbD (192 + l.port)) = false)
        ∧ (16 ≤ l.port →
          let w := ({ s.twin with suspectLanes := (s.twin.suspectLanes.filter (· ≠ l)) ++ [l] } : Twin).widest
          (w ≠ 0 → goes (.linkLaneEvent l false) s fun t => t.twin.lanes = min s.twin.lanes w ∧ t.twin.up = s.twin.up
            ∧ t.ctxs = s.ctxs)
          ∧ (w = 0 → goes (.linkLaneEvent l false) s fun t => t.twin.up = false)
          ∧ ((∀ x ∈ s.twin.suspectLanes, 16 ≤ x.port → x.lane = l.lane) → w = 4)))

end Sys2Proof.Statements

/-- R341, R427 to R433, R437: core and device power states, the power controller, throttling and lanes. -/
def Obligations.Power : Prop := powerStates ∧ powerControl

/-! ### Rules stated whole -/

/-- R211. -/
def Obligations.IncrementsCommute : Prop :=
  ∀ (s : State) (p : Nat) (l m : List (Nat × Nat × Nat)), l.Perm m → ∀ n,
    let made (l : List (Nat × Nat × Nat)) : State := s.each l fun s e => s.increment p e.1 e.2.1 e.2.2
    owed ((made l).core p) n = owed ((made m).core p) n
      ∧ owed ((made l).core p) n = owed (s.core p) n + (l.map fun e => if e.1 = n then BitVec.ofNat 32 e.2.1 else 0).sum

/-- R8: the W1C bits are those of the doorbell registers (Table 13.4). -/
def Obligations.DoorbellBitEndsSet : Prop :=
  ∀ (s : State) (n k : Nat) (v w : U32), n < 64 → k < 32 → bindValid (s.bind n) = true →
    s.recvState (bindDst (s.bind n)) < 2 → goes (.dbClear n v w) s fun t =>
      (w.getLsbD k = true → (t.chan n).db.getLsbD k = true)
        ∧ (w.getLsbD k = false → v.getLsbD k = true → (t.chan n).db.getLsbD k = false)
        ∧ (w.getLsbD k = false → v.getLsbD k = false → (t.chan n).db.getLsbD k = (s.chan n).db.getLsbD k)

/-- R105. -/
def Obligations.NonFiniteChunks : Prop :=
  ∀ l : List Machine.Num,
    (.nan ∈ l → chunkValue l = .nan)
    ∧ (.inf false ∈ l → .inf true ∈ l → chunkValue l = .nan)
    ∧ (∀ b, .nan ∉ l → .inf b ∈ l → .inf (!b) ∉ l → chunkValue l = .inf b)

/-- R194. -/
def Obligations.DdrChannels : Prop :=
  ∀ (s : State) (p : Nat),
    (s.mem.ddrHalf = 0 → s.iface .ddr p = some (.ddr (p / 256 % 16)))
    ∧ (s.mem.ddrHalf = 1 → s.iface .ddr p = some (.ddr (p / 256 % 8)))
    ∧ (s.mem.ddrHalf = 2 → s.iface .ddr p = some (.ddr (8 + p / 256 % 8)))
end

