-- ==== Sys2Proof/Laws/Records.lean ====
section
/-! SUPPORT. Lengths of what telemetry answers: bytes of numbers, counter records, the records of a device (R380). -/

namespace Sys2Proof.Machine

@[simp] theorem leBytes_length (n v : Nat) : (leBytes n v).length = n := by
  induction n generalizing v with
  | zero => rfl
  | succ n ih => simp [leBytes, ih]

@[simp] theorem telRec_length (chap tab row idx st sm : Nat) (v : U64) :
    (telRec chap tab row idx st sm v).length = 16 := by simp [telRec]

@[simp] theorem idxRecs_length (chap tab row : Nat) (l : List U64) :
    (idxRecs chap tab row l).length = 16 * l.length := by
  simp [idxRecs, List.length_flatMap, Nat.mul_comm]

theorem telRecs_length (l : List Nat) (chap tab row : Nat) (f g h : Nat → Nat) (v : Nat → U64) :
    (l.flatMap fun k => telRec chap tab row (f k) (g k) (h k) (v k)).length = 16 * l.length := by
  simp [List.length_flatMap, Nat.mul_comm]

/-- The device keeps 1,623 counters, each in a record of 16 bytes. -/
theorem devRecords_length (s : State) : s.devRecords.length = 16 * 1623 := by
  unfold State.devRecords
  simp only [List.length_append, idxRecs_length]
  rw [telRecs_length (List.range 64) 15 12 0 (· / 8) (· % 8) (fun _ => 0xFF) (fun k => SMap.get 0 s.pwr.lvltime k)]
  simp only [List.length_map, List.length_range, List.length_cons, List.length_nil]

end Sys2Proof.Machine
end

