-- ==== Sys2Proof/WellFormed.lean ====
section
/-! DEFINITION. Well-formed commands: every number a command names lies in the range the spec gives
it. A command outside these ranges finds no such part of the device and changes nothing (log 1). -/

namespace Sys2Proof

/-- A strand's name: contexts 0 to 15, virtual cores 0 to 255, strands 0 to 7 (R12, R27). -/
def StrandId.wf (t : StrandId) : Bool := t.ctx < 16 && t.vc < 256 && t.st < 8

/-- A stream's name. -/
def StreamId.wf (i : StreamId) : Bool := i.ctx < 16 && i.vc < 256 && i.st < 8

/-- A physical core number (R12). -/
def coreWf (p : Nat) : Bool := p < 272
/-- A context number. -/
def ctxWf (c : Nat) : Bool := c < 16
/-- A mailbox channel number (R354). -/
def chanWf (n : Nat) : Bool := n < 64
/-- A session number (R363). -/
def sessWf (n : Nat) : Bool := n < 8
/-- A steward number (R349). -/
def stewWf (n : Nat) : Bool := n < 4

/-- A store names a core that exists. -/
def Store.wf : Store → Bool
  | .scratch p => coreWf p
  | .slots p => coreWf p
  | .routine p => coreWf p
  | _ => true

/-- A memory error names a store that exists. -/
def MemErr.wf (e : MemErr) : Bool := e.store.wf

/-- Bank arbitration names words of a scratchpad and a core's banks and masters (R175, R179). -/
def BankEnv.wf (b : BankEnv) : Bool :=
  (b.lost.all fun w => w.word < 1572864) && b.waits.all fun w => coreWf w.pc && w.master < 4 && w.bank < 6

/-- A wrong product lies in an output block of 128 × 128, or in its checksum column (R66, R88). -/
def Upset.wf (u : Upset) : Bool := u.row < 128 && u.col.all fun k => k < 128

/-- A fabric frame carries at most 8,192 bytes (R266) on one of 16 ports. -/
def FabFrame.wf (f : FabFrame) : Bool := f.payload.length ≤ 8192 && f.port < 16

/-- A twin-link frame carries at most 4,096 bytes (R289). -/
def TwinFrame.wf (f : TwinFrame) : Bool := f.payload.length ≤ 4096

/-- A host frame carries at most 8,240 bytes on one of 2 ports (R363). -/
def HostFrame.wf (f : HostFrame) : Bool := f.payload.length ≤ 8240 && f.port < 2

/-- A message holds at most 240 payload bytes (R374). -/
def Msg.wf (m : Msg) : Bool := m.payload.length ≤ 240

/-- A block that a PORTRST names (Table 15.6). -/
def PortId.wf : PortId → Bool
  | .fabric k => k < 16
  | .host k => k < 2
  | .twin => true
  | .hbm k => k < 12
  | .ddr k => k < 16

/-- A clock source (R410). -/
def PllId.wf : PllId → Bool
  | .compute k => k < 8
  | .hub k => k < 2
  | .steward k => k < 2
  | .serdes p => p.wf
  | .timebase => true

/-- A memory row: 12 stacks or 16 channels (R14). -/
def RowId.wf (r : RowId) : Bool := if r.hbm then r.unit < 12 else r.unit < 16

/-- A link lane: fabric ports 0 to 15 with 4 lanes, or the twin link's 8 (R14). -/
def LaneId.wf (l : LaneId) : Bool := (l.port < 16 && l.lane < 4) || (l.port = 0x40 && l.lane < 8)

/-- The place of a parity error. -/
def ParityAt.wf : ParityAt → Bool
  | .data c g p => ctxWf c && g.all MemErr.wf && p.all coreWf
  | .stream i => i.wf
  | .barrier c b => ctxWf c && b < 64
  | .core p => coreWf p
  | .coll h => h < 2
  | .disp h => h < 2
  | .dir c => ctxWf c

/-- A register without a row of its own. -/
def RegId.wf : RegId → Bool
  | .bind n => chanWf n
  | .chstat n => chanWf n
  | .mask n => chanWf n
  | .db n => chanWf n
  | .dbset n => chanWf n
  | .block => true
  | .feature i => i < 1024

/-- A well-formed command. -/
def Instr.wf : Instr → Bool
  | .nop i => i.wf
  | .end_ i => i.wf
  | .sete i => i.wf
  | .setlc i => i.wf
  | .ldlc i => i.wf
  | .loop i => i.wf
  | .dadv i => i.wf
  | .ldsc i => i.wf
  | .ldd i => i.wf
  | .call i bank => i.wf && bank.wf
  | .bar i => i.wf
  | .mm t => t.wf
  | .mmt t => t.wf
  | .mop t => t.wf
  | .vadd t bank => t.wf && bank.wf
  | .vsub t bank => t.wf && bank.wf
  | .vmul t bank => t.wf && bank.wf
  | .vfma t bank => t.wf && bank.wf
  | .vdiv t bank => t.wf && bank.wf
  | .vrcp t bank => t.wf && bank.wf
  | .vsqrt t bank => t.wf && bank.wf
  | .vrsqrt t bank => t.wf && bank.wf
  | .vmax t bank => t.wf && bank.wf
  | .vmin t bank => t.wf && bank.wf
  | .vabs t bank => t.wf && bank.wf
  | .vneg t bank => t.wf && bank.wf
  | .vsel t bank => t.wf && bank.wf
  | .vcvt t bank => t.wf && bank.wf
  | .vcurve t bank => t.wf && bank.wf
  | .vrsum t bank => t.wf && bank.wf
  | .vrmax t bank => t.wf && bank.wf
  | .vrmin t bank => t.wf && bank.wf
  | .vamax t bank => t.wf && bank.wf
  | .vperm t bank => t.wf && bank.wf
  | .vapply t bank => t.wf && bank.wf
  | .xcopy t => t.wf
  | .gatherRecord t => t.wf
  | .gatherCheck t => t.wf
  | .xacc t => t.wf
  | .xcoll x => x.t.wf && x.bank.wf
  | .xdispDispatch x => x.t.wf && x.bank.wf
  | .xdispCombine x => x.t.wf && x.bank.wf
  | .xrsig t => t.wf
  | .waitRelease i => i.wf
  | .waitTimeout i => i.wf
  | .localSignal i => i.wf
  | .semaphoreDeferredIncrement pc => coreWf pc
  | .instructionFetch i => i.wf
  | .contextQuiescent c => ctxWf c
  | .quiesceCutoff c => ctxWf c
  | .mGrant pc => coreWf pc
  | .arrayConfigSwitch pc => coreWf pc
  | .blockLoad x => x.t.wf && x.bank.wf
  | .groupClose t errs bank => t.wf && errs.all MemErr.wf && bank.wf
  | .samplerReexecute pc => coreWf pc
  | .samplerCompare pc _ => coreWf pc
  | .fragmentComplete t _ frag env => t.wf && frag < 64 && env.errs.all MemErr.wf && env.bank.wf
  | .xaccApply t _ frag errs => t.wf && frag < 64 && errs.all MemErr.wf
  | .xaccWaitRoom t _ frag => t.wf && frag < 64
  | .patrolScrub errs => errs.all MemErr.wf
  | .libraryReload pc => coreWf pc
  | .datapathParityError p => p.wf
  | .contextSwitch c slice => ctxWf c && slice < 16
  | .contextSwitchClearDone slice => slice < 16
  | .barrierRelease c b => ctxWf c && b < 64
  | .barrierArrive f => f.wf
  | .barrierReleaseMsg f => f.wf
  | .barrierTreeRelease c b => ctxWf c && b < 64
  | .finalSealClose c _ => ctxWf c
  | .ptpMessage _ _ => true
  | .checkpointPageCopy c => ctxWf c
  | .copyBeforeWrite c _ => ctxWf c
  | .heldWriteResume c _ => ctxWf c
  | .checkpointCommit c => ctxWf c
  | .stepClosureWrite c => ctxWf c
  | .resizeHold c => ctxWf c
  | .autoRestore c => ctxWf c
  | .substitutionHold pc => coreWf pc
  | .substitutionCopyDone pc => coreWf pc
  | .arbitrationVerdict _ _ => true
  | .proofingEnd pc l => coreWf pc && l.all fun p => p.setting < 7
  | .rowRepair row _ => row.wf
  | .collContribution x => x.f.wf && x.bank.wf
  | .collResult x => x.f.wf && x.bank.wf
  | .collInstanceTimeout c _ _ _ => ctxWf c
  | .abandon f => f.wf
  | .dtok x => x.f.wf && x.bank.wf
  | .dcntCounts x => x.f.wf && x.bank.wf
  | .dcntAccepted x => x.f.wf && x.bank.wf
  | .dcmb x => x.f.wf && x.bank.wf
  | .rsig f => f.wf
  | .fabricAck f => f.wf
  | .fabricRetransmitTimer c ep _ => ctxWf c && ep < 8192
  | .fabricAckTimer c ep => ctxWf c && ep < 8192
  | .fabricRateRaise c ep => ctxWf c && ep < 8192
  | .fabricOtherFrame port _ => port < 16
  | .fabricLinkChange port _ => port < 16
  | .twinFailingFrame f => f.wf
  | .twinCtrlFrame f => f.wf
  | .twinTimeFrame f => f.wf
  | .twinSealFrame f => f.wf
  | .twinFabFrame x => x.f.wf && x.bank.wf
  | .twinBreqFrame f => f.wf
  | .twinBdataFrame f => f.wf
  | .twinBuddyFrame f => f.wf
  | .twinIdleFrame f => f.wf
  | .twinRetransmitTimer => true
  | .twinKeepaliveTimer => true
  | .twinSilent => true
  | .twinLinkRetrain _ => true
  | .twinResetPattern => true
  | .open_ f => f.wf
  | .prove f => f.wf
  | .close f => f.wf
  | .keep f => f.wf
  | .hostAck f => f.wf
  | .msg f => f.wf
  | .db f => f.wf
  | .mask f => f.wf
  | .bulkw f bank => f.wf && bank.wf
  | .bulkr f => f.wf
  | .hostOtherFrame port _ => port < 2
  | .hostRetransmitTimer sess _ => sessWf sess
  | .hostAckTimer sess => sessWf sess
  | .sessionTimeout sess => sessWf sess
  | .mailboxPost ch m => chanWf ch && m.wf
  | .mailboxTake ch => chanWf ch
  | .dbsetWrite ch _ => chanWf ch
  | .dbClear ch _ _ => chanWf ch
  | .lockWrite _ => true
  | .registerWrite r _ => r.wf
  | .stewardWake k => stewWf k
  | .watchdogExpiry k _ => stewWf k
  | .stewardReload k _ => stewWf k
  | .queryDevice ch => chanWf ch
  | .queryCores ch => chanWf ch
  | .queryBind ch => chanWf ch
  | .ctxCreate ch => chanWf ch
  | .ctxDestroy ch => chanWf ch
  | .ctxQuery ch => chanWf ch
  | .ctxTables ch => chanWf ch
  | .ctxTtab ch => chanWf ch
  | .ctxPlans ch => chanWf ch
  | .ctxSwap ch => chanWf ch
  | .ctxSetsem ch => chanWf ch
  | .ctxSignal ch => chanWf ch
  | .ctxResize ch => chanWf ch
  | .ctxLend ch => chanWf ch
  | .ctxSampler ch => chanWf ch
  | .ctxReset ch => chanWf ch
  | .memBport ch => chanWf ch
  | .memZero ch => chanWf ch
  | .progLoad ch => chanWf ch
  | .progUnload ch => chanWf ch
  | .strandStart ch => chanWf ch
  | .strandStop ch => chanWf ch
  | .strandStatus ch => chanWf ch
  | .strandStep ch => chanWf ch
  | .pairPair ch => chanWf ch
  | .pairMode ch => chanWf ch
  | .pairTakeover ch => chanWf ch
  | .pairTime ch => chanWf ch
  | .ckptArm ch => chanWf ch
  | .ckptDrained ch => chanWf ch
  | .ckptOpen ch => chanWf ch
  | .ckptRestore ch => chanWf ch
  | .ckptVerify ch => chanWf ch
  | .teleCounters ch => chanWf ch
  | .teleDevice ch => chanWf ch
  | .teleGlaze ch => chanWf ch
  | .teleSync ch => chanWf ch
  | .fwStage ch => chanWf ch
  | .fwCommit ch => chanWf ch
  | .fwActivate ch => chanWf ch
  | .attReport ch => chanWf ch
  | .attCerts ch => chanWf ch
  | .faultRecords ch => chanWf ch
  | .faultXlog ch => chanWf ch
  | .faultCper ch => chanWf ch
  | .faultCase ch => chanWf ch
  | .cfgFabric ch => chanWf ch
  | .cfgHostnet ch => chanWf ch
  | .cfgPower ch => chanWf ch
  | .por => true
  | .sysrst _ => true
  | .corerst pc => coreWf pc
  | .portrst p => p.wf
  | .portRetrainDone p _ => p.wf
  | .releaseStage => true
  | .bootImageTimeout => true
  | .memoryZeroing => true
  | .pwrokFall => true
  | .pwrokResetTimer => true
  | .pwrokRise => true
  | .clockFailure p => p.wf
  | .pllLock p => p.wf
  | .pllLockTimeout p => p.wf
  | .railFault rail _ => rail < 16
  | .railFaultResetTimer => true
  | .tamperTrip sensor => sensor < 64
  | .tamperReset => true
  | .vaultError => true
  | .bypass => true
  | .idcode => true
  | .samplePreload => true
  | .extest => true
  | .dbgaccess _ => true
  | .coreSleepTimer pc => coreWf pc
  | .coreOffTimer pc => coreWf pc
  | .coreWake pc => coreWf pc
  | .coreWakeDone pc => coreWf pc
  | .standbyTimer => true
  | .standbyExit f => f.wf
  | .powerControlStep _ _ => true
  | .avsComplete rail => rail < 16
  | .throttleFall => true
  | .throttleRise => true
  | .thermalImminent => true
  | .thermalTrip _ => true
  | .thermtripRelease => true
  | .linkLaneEvent l _ => l.wf
  | .tileProductComplete t upsets => t.wf && upsets.all Upset.wf
  | .commandComplete c => c ≤ 16
  | .vddAonValid _ _ _ => true
  | .sysrstNRelease => true
  | .tamperSensorClear => true
  | .railsGood => true
  | .throttleLevelStep => true
  | .hostLinkChange port _ => port < 2

end Sys2Proof
end

