-- ==== Sys2Proof/Tests/Slice0.lean ====
section
/-! SUPPORT. Tests: ill-formed commands are refused, single commands on small states give what the spec's tables and
hand calculation give (test_…), and for each statement with hypotheses a state that meets them, clause by clause
(wit_…). -/

open Sys2Proof Sys2Proof.Machine Sys2Proof.Statements

namespace Sys2Proof.Tests

set_option Elab.async false

/-! ### Small states -/

/-- Streams of strand 0 on virtual core 0 of context 0. -/
def iM : StreamId := ⟨0, 0, 0, .m⟩
def iV : StreamId := ⟨0, 0, 0, .v⟩
def iX : StreamId := ⟨0, 0, 0, .x⟩
def t0 : StrandId := ⟨0, 0, 0⟩

/-- An instruction word without wait and signal (Table 6.1). -/
def word (opc mod d a b c imm : Nat) : Word :=
  BitVec.ofNat 128 (opc * 2 ^ 120 + mod * 2 ^ 112 + 0xFFFF * 2 ^ 96 + 0xFFFF * 2 ^ 64 + d * 2 ^ 55 + a * 2 ^ 50
    + b * 2 ^ 45 + c * 2 ^ 40 + imm)

/-- A descriptor of `n` rows of `z` elements with stride 1 and row stride `z`, of one row where `n` is 0 (Table 6.8). -/
def desc (space base fmt z n : Nat) : Desc :=
  BitVec.ofNat 256 (base + z * 2 ^ 64 + n * 2 ^ 80 + 2 ^ 128 + z * 2 ^ 148 + fmt * 2 ^ 208
    + (if n = 0 then 0 else 2 ^ 232) + space * 2 ^ 235 + 2 ^ 236)

/-- Physical core 0 with strand 0 as given, Ready, in context 0. -/
def withStrand (y : Strand) (k : Core := {}) (x : Ctx := {}) : State :=
  { cores := [(0, { k with strands := [(0, y)], power := .ready })]
    ctxs := [(0, { x with state := .ready, slices := [0], grid := [0] })] }

/-- A stream that has reached word `w` and may issue it. -/
def ready (w : Word) : Stream := { state := .running, phase := .released, queue := [(0, w)], codeLen := 8 }

/-- Strand 0 with word `w` ready on one engine, and descriptors. -/
def strandOn (e : Eng) (w : Word) (ds : SMap Desc := []) : Strand :=
  ({ descs := ds } : Strand).updStream e fun _ => ready w

def on (e : Eng) (w : Word) (ds : SMap Desc := []) (k : Core := {}) (x : Ctx := {}) : State :=
  withStrand (strandOn e w ds) k x

/-- No port is in reset or failed and no core of a context moves, in a form that is decided. -/
def portsOpen (s : State) : Bool :=
  s.mem.inReset.isEmpty && s.mem.isolated.isEmpty && s.ctxs.all fun (e : Nat × Ctx) => e.2.subst.isEmpty

theorem portsOpen_sound {s : State} (h : portsOpen s = true) : openPorts s := by
  simp only [portsOpen, Bool.and_eq_true, List.isEmpty_iff] at h
  refine ⟨h.1.1, h.1.2, fun c => ?_⟩
  have key : ∀ l : SMap Ctx, (l.all fun (e : Nat × Ctx) => e.2.subst.isEmpty) = true → (SMap.get {} l c).subst = [] := by
    intro l
    induction l with
    | nil => intro _; rfl
    | cons e r ih =>
      intro hl
      simp only [List.all_cons, Bool.and_eq_true, List.isEmpty_iff] at hl
      simp only [SMap.get]
      split
      · exact hl.1
      · exact ih hl.2
  exact key s.ctxs h.2

/-- Elements outside the buddy window, with every port open, in a form that is decided. -/
def localWith (s : State) (els : List XEl) : Bool :=
  portsOpen s && els.all fun e => e.src.place != .buddy && e.dst.place != .buddy

theorem localWith_sound {s : State} {els : List XEl} (h : localWith s els = true) : localOnly s els := by
  simp only [localWith, Bool.and_eq_true, List.all_eq_true, bne_iff_ne] at h
  exact ⟨fun e he => h.2 e he, portsOpen_sound h.1⟩

/-- The state after a command. -/
def after (c : Instr) (s : State) : State :=
  match exec c s with
  | .next t => t
  | _ => {}

/-! ### Ill-formed commands -/

theorem test_wf_stream : (Instr.nop ⟨16, 0, 0, .m⟩).wf = false ∧ (Instr.nop ⟨0, 256, 0, .m⟩).wf = false
    ∧ (Instr.nop ⟨0, 0, 8, .m⟩).wf = false ∧ (Instr.nop ⟨15, 255, 7, .x⟩).wf = true := by decide

/-- Words lost outside the scratchpad, waits of no core, master or bank, a product outside its block, no such setting. -/
theorem test_wf_environments : (Instr.call iM { lost := [⟨1572864, 1⟩] }).wf = false
    ∧ (Instr.vadd t0 { waits := [⟨272, 0, 0, 1⟩] }).wf = false ∧ (Instr.vadd t0 { waits := [⟨0, 4, 0, 1⟩] }).wf = false
    ∧ (Instr.vadd t0 { waits := [⟨0, 0, 6, 1⟩] }).wf = false ∧ (Instr.vadd t0 { waits := [⟨271, 3, 5, 1⟩] }).wf = true
    ∧ (Instr.tileProductComplete t0 [⟨128, none, 0, false, 1, 0⟩]).wf = false
    ∧ (Instr.tileProductComplete t0 [⟨0, some 128, 0, false, 1, 0⟩]).wf = false
    ∧ (Instr.proofingEnd 0 [⟨7, true, []⟩]).wf = false ∧ (Instr.datapathParityError (.dir 16)).wf = false := by decide

theorem test_wf_numbers : (Instr.mGrant 272).wf = false ∧ (Instr.contextQuiescent 16).wf = false
    ∧ (Instr.mailboxTake 64).wf = false ∧ (Instr.sessionTimeout 8).wf = false ∧ (Instr.stewardWake 4).wf = false
    ∧ (Instr.patrolScrub [{ store := .scratch 272, addr := 0, correctable := true }]).wf = false
    ∧ (Instr.portrst (.hbm 12)).wf = false ∧ (Instr.clockFailure (.compute 8)).wf = false := by decide

theorem test_wf_parts : (Instr.barrierRelease 0 64).wf = false ∧ (Instr.contextSwitch 0 16).wf = false
    ∧ (Instr.contextSwitchClearDone 16).wf = false ∧ (Instr.xaccApply t0 0 64 []).wf = false
    ∧ (Instr.fragmentComplete t0 0 64 quiet).wf = false ∧ (Instr.xaccWaitRoom t0 0 64).wf = false
    ∧ (Instr.rowRepair ⟨true, 12, 0, 0⟩ true).wf = false ∧ (Instr.rowRepair ⟨false, 16, 0, 0⟩ true).wf = false
    ∧ (Instr.linkLaneEvent ⟨0, 4⟩ true).wf = false ∧ (Instr.linkLaneEvent ⟨0x40, 8⟩ true).wf = false
    ∧ (Instr.datapathParityError (.barrier 0 64)).wf = false ∧ (Instr.datapathParityError (.coll 2)).wf = false
    ∧ (Instr.datapathParityError (.core 272)).wf = false ∧ (Instr.datapathParityError (.data 16 [] none)).wf = false
    ∧ (Instr.registerWrite (.bind 64) 0).wf = false ∧ (Instr.registerWrite (.feature 1024) 0).wf = false
    ∧ (Instr.fabricLinkChange 16 true).wf = false ∧ (Instr.hostLinkChange 2 0).wf = false
    ∧ (Instr.portrst (.fabric 16)).wf = false ∧ (Instr.portrst (.host 2)).wf = false
    ∧ (Instr.portrst (.ddr 16)).wf = false ∧ (Instr.pllLock (.hub 2)).wf = false
    ∧ (Instr.pllLock (.steward 2)).wf = false ∧ (Instr.pllLock (.serdes (.host 2))).wf = false := by decide

theorem test_wf_lengths : (Instr.mailboxPost 0 ⟨0, 0, 0, 0, 0, 0, zeros 241⟩).wf = false
    ∧ (Instr.mailboxPost 0 ⟨0, 0, 0, 0, 0, 0, zeros 240⟩).wf = true
    ∧ (Instr.twinIdleFrame ⟨1, 0, 0, 0, 0, zeros 4097, 0, 0⟩).wf = false := by decide +kernel

/-! ### Common instructions (Tables 6.2, 6.3) -/

/-- Bytes 1, 2, 3, 4 at the start of a scratchpad. -/
def bytes4 : Core := { sp := [⟨0, 1⟩, ⟨1, 2⟩, ⟨2, 3⟩, ⟨3, 4⟩] }

/-- A descriptor of 4 e4m3 elements at byte 0. -/
def d0 : Desc := desc 0 0 2 4 0

theorem wit_CommonInstructions :
    (on .v (word 1 0 0 0 0 0 0)).canIssue iV 1 = true ∧ ((on .v (word 1 0 0 0 0 0 0)).stream iV).xfers = []
    ∧ (on .v (word 3 0 0 0 0 0 (15 * 2 ^ 32 + 7))).canIssue iV 3 = true
    ∧ (on .v (word 4 0 0 0 0 0 (3 * 2 ^ 32 + 7))).canIssue iV 4 = true
    ∧ (let s := on .v (word 2 0 0 0 0 0 0)
       s.canIssue iV 2 = true ∧ (s.stream iV).xfers = []
        ∧ (completed s iV fun x => { x with state := .done }).allDone = false)
    ∧ (let s := withStrand { strandOn .v (word 2 0 0 0 0 0 0) with m := { state := .done }, x := { state := .done } }
       s.canIssue iV 2 = true ∧ (completed s iV fun x => { x with state := .done }).allDone = true)
    ∧ (on .m (word 6 0 0 0 0 0 5)).canIssue iM 6 = true
    ∧ (let s := withStrand { m := { ready (word 6 0 0 0 0 0 5) with lc := [(0, 2)] } }
       s.canIssue iM 6 = true ∧ SMap.get 0 (s.stream iM).lc 0 ≠ 0)
    ∧ (let s := on .v (word 7 0 1 0 0 0 3) [(1, d0)]
       s.canIssue iV 7 = true ∧ (Desc.valid ((s.latch iV).desc 1) && fmtOk (Desc.fmt ((s.latch iV).desc 1))) = true)
    ∧ (let s := on .v (word 7 0 1 0 0 0 3)
       s.canIssue iV 7 = true ∧ (Desc.valid ((s.latch iV).desc 1) && fmtOk (Desc.fmt ((s.latch iV).desc 1))) = false)
    ∧ (∀ w ∈ ({} : Strand).dwr, w.cycle = 0 → w.k ≠ 1 % 32) ∧ Eng.m.num < Eng.v.num ∧ Eng.v.num < Eng.x.num := by
  decide +kernel

theorem test_sete : ((after (.sete iV) (on .v (word 3 0 0 0 0 0 (15 * 2 ^ 32 + 7)))).stream iV).e = [(15, 7)] := by
  decide +kernel

theorem test_loop_opens : ((after (.loop iM) (withStrand { m := { ready (word 6 0 0 0 0 0 5) with lc := [(0, 2)] } })).stream
    iM).loops = [⟨1, 5, 2, 0⟩] := by decide +kernel

/-- Two streams write descriptor 1 in one cycle: M before V, whichever command comes first (R167). -/
theorem test_same_cycle_writes : let y : Strand := { descs := [(1, d0)] }
    SMap.get 0 ((y.writeDesc .v 7 1 (.load 5)).writeDesc .m 7 1 (.add 3)).descs 1 = 5
      ∧ SMap.get 0 ((y.writeDesc .m 7 1 (.add 3)).writeDesc .v 7 1 (.load 5)).descs 1 = 5 := by decide +kernel

theorem test_dadv_moves_base : SMap.get 0 ((after (.dadv iV) (on .v (word 7 0 1 0 0 0 3) [(1, d0)])).strand t0).descs 1
    = desc 0 3 2 4 0 := by decide +kernel

theorem wit_DescriptorLoads :
    (let s := on .v (word 5 0 0 2 0 0 0) [(2, d0)] bytes4
     s.pcore 0 0 = some 0 ∧ (s.stream iV).xfers = [] ∧ clean s ∧ s.canIssue iV 5 = true
      ∧ ldFlts ((s.latch iV).desc 2) 4 = [] ∧ s.bad (.scratch 0) 0 = false)
    ∧ (let s := on .v (word 8 0 1 2 0 0 0) [(1, d0), (2, d0)] bytes4
       s.canIssue iV 8 = true ∧ ldFlts ((s.latch iV).desc 2) 1 = [] ∧ Desc.valid ((s.latch iV).desc 1) = true)
    ∧ (let s := on .v (word 9 0 1 2 0 0 0) [(2, d0)] bytes4
       s.canIssue iV 9 = true ∧ ldFlts ((s.latch iV).desc 2) 32 = [])
    ∧ (let s := on .v (word 9 0 1 2 0 0 0)
       s.canIssue iV 9 = true ∧ (bestFault (orderFlts ([] ++ ldFlts ((s.latch iV).desc 2) 32))).isSome = true)
    ∧ (let s := on .v (word 8 0 1 2 0 0 0) [(2, d0)] bytes4
       s.canIssue iV 8 = true ∧ Desc.valid ((s.latch iV).desc 1) = false
        ∧ (bestFault (orderFlts ([⟨3, opD, allOnes⟩] ++ ldFlts ((s.latch iV).desc 2) 1))).isSome = true)
    ∧ (let s := on .v (word 5 0 0 2 0 0 0) [(2, d0)] { poison := [(0, true)] }
       s.canIssue iV 5 = true ∧ ldFlts ((s.latch iV).desc 2) 4 = [] ∧ s.bad (.scratch 0) 0 = true) := by decide +kernel

theorem test_ldlc_little_endian :
    ((after (.ldlc iV) (on .v (word 5 0 0 2 0 0 0) [(2, d0)] bytes4)).stream iV).lc = [(0, 0x04030201)] := by decide +kernel

/-- A library with routine 2 of no workspace. -/
def twoRoutines : State := { on .v (word 0x0A 0 1 2 3 4 2) [(1, d0)] with lib := { table := [0x70001, 2] } }

theorem wit_CallCompletes :
    (let s := on .v (word 0x0A 0 1 0 0 0 1) [(1, d0)]
     s.canIssue iV 0x0A = true ∧ (s.stream iV).xfers = [] ∧ s.pcore 0 0 = some 0 ∧ clean s
      ∧ (s.core 0).routineErr = false ∧ bits (Word.imm (s.stream iV).word) 0 16 = 1
      ∧ featFlts ((s.latch iV).desc 1) = []
      ∧ lostWords (some .v) (plainWs (ldAddr ((s.latch iV).desc 1) 4).toNat (s.featBytes 0)) [] = [])
    ∧ (let s := twoRoutines
       s.canIssue iV 0x0A = true ∧ (s.core 0).routineErr = false ∧ bits (Word.imm (s.stream iV).word) 0 16 = 2
        ∧ workFlts (s.lib.entry 2) (s.latch iV) = [] ∧ s.cover iV (s.lib.entry 2) (s.latch iV) ≠ []
        ∧ ∀ x ∈ s.cover iV (s.lib.entry 2) (s.latch iV), s.bad x.1 x.2.1.addr = false)
    ∧ (let s := on .v (word 0x0A 0 1 0 0 0 1) [(1, d0)] { routineErr := true }
       s.canIssue iV 0x0A = true ∧ (s.core 0).routineErr = true) := by decide +kernel

/-! ### The vector engine -/

/-- e4m3 operands of one element: D at byte 64, A at 0, B at 16, C at 32. -/
def vDescs : SMap Desc := [(1, desc 0 64 2 1 0), (2, desc 0 0 2 1 0), (3, desc 0 16 2 1 0), (4, desc 0 32 2 1 0)]

/-- 1.0 in A, 1.5 in B and 2.0 in C (Table 4.1). -/
def vBytes : Core := { sp := [⟨0, 0x38⟩, ⟨16, 0x3C⟩, ⟨32, 0x40⟩] }

/-- A vector instruction on these operands. -/
def vOn (o : Nat) (ds : SMap Desc := vDescs) (k : Core := vBytes) : State := on .v (word o 0 1 2 3 4 0) ds k

/-- What an element-wise instruction writes on a state. -/
def vOut (op : VOp) (s : State) : VOut :=
  vElemOut ((s.ctx 0).roundEnv (s.latch iV)) op.ks (op.f (s.ctx 0) (s.latch iV)) (s.latch iV) (s.core 0).sp

/-- A, at byte 65, shares a byte with the fp16 D at byte 64, and is not D itself. -/
def vShared : SMap Desc := [(1, desc 0 64 0 1 0), (2, desc 0 65 2 1 0), (3, desc 0 16 2 1 0), (4, desc 0 32 2 1 0)]

theorem wit_ElementwiseCompletes : ∀ op ∈ vOps,
    (let s := vOn op.code
     let l := s.latch iV
     s.canIssue iV op.code = true ∧ s.pcore 0 0 = some 0 ∧ clean s ∧ crumbFlt (vOpd l 0).d = []
      ∧ (∀ k ∈ 0 :: op.ks, (vOpd l k).check (dCs l) = []) ∧ (∀ k ∈ op.ks, readable s 0 t0 (vOpd l k) (dCs l))
      ∧ (∀ k ∈ op.ks, misuse (vOpd l 0) (vOpd l k) (dCs l) (dCs l) (Desc.size (vOpd l 0).d) = false)
      ∧ noneLost (vOut op s).ws {})
    ∧ (let s := vOn op.code vShared
       let l := s.latch iV
       s.canIssue iV op.code = true ∧ clean s ∧ crumbFlt (vOpd l 0).d = []
        ∧ (∀ k ∈ 0 :: op.ks, (vOpd l k).check (dCs l) = []) ∧ (∀ k ∈ op.ks, readable s 0 t0 (vOpd l k) (dCs l))
        ∧ (∃ k ∈ op.ks, misuse (vOpd l 0) (vOpd l k) (dCs l) (dCs l) (Desc.size (vOpd l 0).d) = true)
        ∧ noneLost (vOut op s).ws {}) := by decide +kernel

/-- Byte 64 after an instruction on 1.0, 1.5 and 2.0, and the expected e4m3 code. -/
theorem test_vector_values : ∀ e ∈ [((.vadd t0 {}, 0x40, 0x42) : Instr × Nat × Byte), (.vsub t0 {}, 0x41, 0xB0),
    (.vmul t0 {}, 0x42, 0x3C), (.vfma t0 {}, 0x43, 0x46), (.vdiv t0 {}, 0x44, 0x33), (.vrcp t0 {}, 0x45, 0x38),
    (.vsqrt t0 {}, 0x46, 0x38), (.vrsqrt t0 {}, 0x47, 0x38), (.vmax t0 {}, 0x48, 0x3C), (.vmin t0 {}, 0x49, 0x38),
    (.vabs t0 {}, 0x4A, 0x38), (.vneg t0 {}, 0x4B, 0xB8), (.vsel t0 {}, 0x4C, 0x38), (.vcvt t0 {}, 0x4D, 0x38)],
    Memory.read ((after e.1 (vOn e.2.1)).core 0).sp 64 = e.2.2 := by decide +kernel

/-- One row of 4 e4m3 elements at byte 0, and its one reduction at byte 64. -/
def redDescs : SMap Desc := [(1, desc 0 64 2 1 0), (2, desc 0 0 2 4 0)]
def redBytes : Core := { sp := [⟨0, 0x38⟩, ⟨1, 0x40⟩, ⟨2, 0xB8⟩, ⟨3, 0x38⟩] }

theorem wit_ReductionsComplete :
    ∀ op ∈ [((0x4F, rowSum) : Nat × (List Machine.Num → Machine.Num × List NumEv)), (0x50, fun v => (rowFold vMax v, [])),
      (0x51, fun v => (rowFold vMin v, []))],
    let s := vOn op.1 redDescs redBytes
    let l := s.latch iV
    s.canIssue iV op.1 = true ∧ clean s ∧ crumbFlt (vOpd l 0).d = [] ∧ (vOpd l 0).check (redCoords (vOpd l 1).d) = []
      ∧ (vOpd l 1).check (Desc.coords (vOpd l 1).d) = [] ∧ readable s 0 t0 (vOpd l 1) (Desc.coords (vOpd l 1).d)
      ∧ misuse (vOpd l 0) (vOpd l 1) (redCoords (vOpd l 1).d) (Desc.coords (vOpd l 1).d) (Desc.size (vOpd l 0).d) = false
      ∧ noneLost (vRedOut ((s.ctx 0).roundEnv l) op.2 l (s.core 0).sp).ws {} := by decide +kernel

/-- 1 + 2 − 1 + 1 = 3, the largest is 2 and the smallest −1. -/
theorem test_reduction_values : ∀ e ∈ [((.vrsum t0 {}, 0x4F, 0x44) : Instr × Nat × Byte), (.vrmax t0 {}, 0x50, 0x40),
    (.vrmin t0 {}, 0x51, 0xB8)], Memory.read ((after e.1 (vOn e.2.1 redDescs redBytes)).core 0).sp 64 = e.2.2 := by
  decide +kernel

/-- VPERM picks from 4 elements of A by the index in B, at byte 16. -/
def permDescs : SMap Desc := [(1, desc 0 64 2 1 0), (2, desc 0 0 2 4 0), (3, desc 0 16 2 1 0)]

/-- VAPPLY on an fp16 weight in D. -/
def applyDescs : SMap Desc := [(1, desc 0 64 0 1 0), (2, desc 0 0 2 1 0)]

theorem wit_OtherVectorCompletes :
    (let s := vOn 0x52 [(1, desc 0 64 3 1 0), (2, desc 0 0 2 4 0)] redBytes
     let l := s.latch iV
     s.canIssue iV 0x52 = true ∧ vamaxFlts l = [] ∧ vamaxBad l = false
      ∧ readable s 0 t0 (vOpd l 1) (Desc.coords (vOpd l 1).d)
      ∧ noneLost (vamaxOut ((s.ctx 0).roundEnv l) l (s.core 0).sp).ws {})
    ∧ (let s := vOn 0x53 permDescs redBytes
       let l := s.latch iV
       let env := (s.ctx 0).roundEnv l
       s.canIssue iV 0x53 = true ∧ vpermFlts l = [] ∧ vpermBad l = false
        ∧ (vOpd l 1).check (vpermPicked env.tab l (s.core 0).sp) = []
        ∧ (∀ x ∈ vpermSrcs env.tab l (s.core 0).sp, readable s 0 t0 x.1 x.2)
        ∧ noneLost (vpermOut env l (s.core 0).sp).ws {})
    ∧ (let s := vOn 0x54 applyDescs
       let l := s.latch iV
       s.canIssue iV 0x54 = true ∧ vapplyFlts l = [] ∧ vapplyBad l = false
        ∧ (∀ k ∈ vapplyKs l, readable s 0 t0 (vOpd l k) (dCs l))
        ∧ noneLost (vapplyOut ((s.ctx 0).roundEnv l) l (s.core 0).sp).ws {}) := by decide +kernel

/-- Index 1.0 picks A's element 1, 2.0; fp16 weight 1.0 (0x3C00) plus e4m3 1.0 is 2.0 (0x4000). -/
theorem test_perm_and_apply :
    Memory.read ((after (.vperm t0 {}) (vOn 0x53 permDescs { sp := redBytes.sp ++ [⟨16, 0x38⟩] })).core 0).sp 64 = 0x40
    ∧ Memory.readN ((after (.vapply t0 {}) (vOn 0x54 applyDescs { sp := [⟨0, 0x38⟩, ⟨65, 0x3C⟩] })).core 0).sp 64 2
        = [0x00, 0x40] := by decide +kernel

theorem wit_VectorFaults :
    (∀ op ∈ vOps,
      (let s := vOn op.code []
       let l := s.latch iV
       s.canIssue iV op.code = true ∧ clean s ∧ (bestFault (orderFlts (crumbFlt (vOpd l 0).d
        ++ (0 :: op.ks).flatMap fun k => (vOpd l k).check (dCs l)))).isSome = true)
      ∧ (let s := vOn op.code vDescs { poison := [(0, true)] }
         let l := s.latch iV
         s.canIssue iV op.code = true
          ∧ (crumbFlt (vOpd l 0).d ++ (0 :: op.ks).flatMap fun k => (vOpd l k).check (dCs l)) = []
          ∧ (bestFault (orderFlts (op.ks.flatMap fun k =>
              (vOpd l k).poison (s.core 0).poison 0 (dCs l)))).isSome = true))
    ∧ ∀ b ∈ [true, false],
        let s := on .v (word 0x40 0 1 2 3 4 0) vDescs {} { cfg := { set := { arrival := b } } }
        s.pcore 0 0 = some 0 ∧ lostWords (some .v) [{ addr := 0, val := 1 }] [⟨0, 255⟩] ≠ [] ∧ (s.ctx 0).cfg.set.arrival = b := by
  decide +kernel

/-! ### Barriers, waits, semaphores, fetch -/

/-- BAR 3 ready on stream M, with the unit and the barrier entry given. -/
def barOn (u : BarUnit) (entry : Nat) (now : Nat := 0) : State :=
  { on .m (word 0x0B 0 0 0 0 0 3) [] {} { units := [(3, u)], cfg := { bars := [(3, BitVec.ofNat 128 entry)] } } with now := now }

theorem wit_Barriers :
    (let s := barOn {} 2
     s.canIssue iM 0x0B = true ∧ (s.stream iM).xfers = [] ∧ ((s.ctx 0).unit 3).closedAt = none
      ∧ barCount ((s.ctx 0).bar 3) = 2)
    ∧ (let s := barOn {} 1
       s.canIssue iM 0x0B = true ∧ ((s.ctx 0).unit 3).arr.length + 1 = barCount ((s.ctx 0).bar 3)
        ∧ barTree ((s.ctx 0).bar 3) = false)
    ∧ (let s := barOn { closedAt := some 0 } 1
       s.canIssue iM 0x0B = true ∧ ((s.ctx 0).unit 3).closedAt.isSome = true
        ∧ ∀ j ∈ ((s.ctx 0).unit 3).arr, (s.stream j).waitSince = s.now → s.entryKey j ≤ s.entryKey iM)
    ∧ (let s := barOn { closedAt := some 0, arr := [iX] } 1
       s.canIssue iM 0x0B = true ∧ iX ∈ ((s.ctx 0).unit 3).arr ∧ ((s.ctx 0).unit 3).closedAt = some s.now
        ∧ (s.stream iX).waitSince = s.now ∧ s.entryKey iM < s.entryKey iX ∧ (s.pcore 0 0).isSome = true
        ∧ ∀ k ∈ ((s.ctx 0).unit 3).arr, k ≠ iX → (s.stream k).waitSince = s.now → s.entryKey k < s.entryKey iX)
    ∧ (∀ n ∈ [63, 64], let s := barOn { closedAt := some 0 } 1 n
       (s.ctx 0).state = .ready ∧ barTree ((s.ctx 0).bar 3) = false ∧ ((s.ctx 0).unit 3).closedAt = some 0
        ∧ (s.ctx 0).cfg.set.sealbar ≠ some 3 ∧ (s.ctx 0).cfg.set.snapbar ≠ some 3)
    ∧ (let s := barOn { closedAt := some 0 } (1 + 2 ^ 16 + 2 ^ 24)
       (s.ctx 0).state = .ready ∧ barTree ((s.ctx 0).bar 3) = true
        ∧ ((s.ctx 0).unit 3).child.length < barNchild ((s.ctx 0).bar 3))
    ∧ (∀ root ∈ [false, true],
       let s := barOn { closedAt := some 0, child := [⟨1, 0, 5⟩] } (1 + 2 ^ 16 + (if root then 2 ^ 17 else 0) + 2 ^ 24)
       barTree ((s.ctx 0).bar 3) = true ∧ ((s.ctx 0).unit 3).closedAt.isSome = true ∧ ((s.ctx 0).unit 3).sent = false
        ∧ barNchild ((s.ctx 0).bar 3) ≤ ((s.ctx 0).unit 3).child.length ∧ barRoot ((s.ctx 0).bar 3) = root)
    ∧ (∀ n ∈ [0, 1], let r := BitVec.ofNat 64 n
       let s := barOn { trel := some r } (1 + 2 ^ 16)
       barTree ((s.ctx 0).bar 3) = true ∧ ((s.ctx 0).unit 3).trel = some r ∧ s.aon.tbase = 0) := by decide +kernel

/-- The entry that brings the count to COUNT closes it; the release makes the BAR complete 64 cycles later. -/
theorem test_bar_closes : (((after (.bar iM) (barOn { arr := [iX] } 2 9)).ctx 0).unit 3).closedAt = some 9 := by
  decide +kernel

theorem test_barrier_release :
    let s := { after (.bar iM) (barOn {} 1) with now := 64 }
    ((after (.barrierRelease 0 3) s).stream iM).phase = .complete
      ∧ ((after (.barrierRelease 0 3) { s with now := 63 }).stream iM).phase = .waitBar 3 0 := by decide +kernel

/-- The entry of stream M, in the same cycle, counts before that of X, which is the next generation's (R219). -/
theorem test_same_cycle_entries :
    let u := ((after (.bar iM) (barOn { closedAt := some 0, arr := [iX] } 1)).ctx 0).unit 3
    u.arr = [iM] ∧ u.next = [iX] := by decide +kernel

/-- A stream stopped in a barrier stays entered: the release completes its BAR, and it stays Stopped. -/
theorem test_barrier_release_stopped :
    let s := (after (.bar iM) (barOn {} 1)).stopStrand iM.strandId
    let x := (after (.barrierRelease 0 3) { s with now := 64 }).stream iM
    ((s.stream iM).state, (s.stream iM).phase) = (.stopped, .waitBar 3 0) ∧ (x.state, x.phase) = (.stopped, .complete) := by
  decide +kernel

/-- A stream that waits for semaphore 5 to reach `g`, with the semaphore at 4. -/
def waitOn (g : U32) (lim : U16 := 900) (now : Nat := 0) : State :=
  { withStrand { m := { state := .waiting, phase := .waitSem 5 g } } { cells := [(5, 4)] }
      { cfg := { set := { wlim := lim } } } with now := now }

/-- A stream whose instruction, without or with a signal of semaphore 7, is complete. -/
def complete (st : StreamState) (w : Word) (stop : Bool := false) : State :=
  withStrand { m := { state := st, phase := .complete, latch := { word := w }, stopReq := stop } }

theorem wit_WaitsAndSignals :
    (∀ n ∈ [3, 4, 5], let g := BitVec.ofNat 32 n
     let s := waitOn g
     s.pcore 0 0 = some 0 ∧ (s.ctx 0).state = .ready ∧ (s.stream iM).state = .waiting
      ∧ (s.stream iM).phase = .waitSem 5 g ∧ (decide ((s.sem 0 5 - g).toNat < 2 ^ 31) = decide (g ≠ 5)))
    ∧ (let s := waitOn 5 1 (2 ^ 20)
       ¬(s.sem 0 5 - 5).toNat < 2 ^ 31 ∧ (s.ctx 0).cfg.set.wlim.toNat ≠ 0
        ∧ (s.ctx 0).cfg.set.wlim.toNat * 2 ^ 20 ≤ s.now - (s.stream iM).waitSince)
    ∧ (let s := waitOn 5 1 (2 ^ 20 - 1)
       s.now - (s.stream iM).waitSince < (s.ctx 0).cfg.set.wlim.toNat * 2 ^ 20)
    ∧ (let s := waitOn 5 0 (2 ^ 20)
       (s.ctx 0).cfg.set.wlim.toNat = 0)
    ∧ (∀ st ∈ [StreamState.running, .waiting, .idle, .stopped], let s := complete st (word 1 0 0 0 0 0 0)
       (s.stream iM).phase = .complete ∧ iM ∉ (s.ctx 0).held ∧ (s.stream iM).state = st ∧ (s.stream iM).stopReq = false)
    ∧ (let s := complete .running (word 1 0 0 0 0 0 0) true
       (s.stream iM).state = .running ∧ (s.stream iM).stopReq = true)
    ∧ (∀ st ∈ [StreamState.done, .faulted], ((complete st (word 1 0 0 0 0 0 0)).stream iM).state = st) := by decide +kernel

/-- SINC 0 adds 16 (R36). -/
theorem test_signal_sixteen :
    (after (.localSignal iM) (complete .running (BitVec.ofNat 128 (2 ^ 120 + 0xFFFF * 2 ^ 96 + 7 * 2 ^ 64)))).sem 0 7 = 16 := by
  decide +kernel

theorem test_wait_release : ((after (.waitRelease iM) (waitOn 4)).stream iM).phase = .released
    ∧ ((after (.waitRelease iM) (waitOn 5)).stream iM).phase = .waitSem 5 5 := by decide +kernel

/-- Four increments applied in cycle 0, the last of them with key 9. -/
def fourIncs : List Inc := [⟨1, 1, 2, 0⟩, ⟨2, 1, 3, 0⟩, ⟨3, 1, 4, 0⟩, ⟨4, 1, 9, 0⟩]

theorem wit_Semaphores :
    (let s := withStrand {} { cells := [(5, 4)] }
     s.pcore 0 (5 / 256) = some 0 ∧ (s.core 0).deferred = [] ∧ ((s.core 0).incCycle ≠ s.now ∨ (s.core 0).incs.length < 4))
    ∧ (let s := withStrand {} { incs := fourIncs, deferred := [⟨5, 1, 0, 0⟩, ⟨6, 2, 0, 0⟩] }
       (s.core 0).incCycle = s.now ∧ (s.core 0).incs.length ≤ 4)
    ∧ (let s := { withStrand {} { incs := fourIncs, deferred := [⟨5, 1, 0, 0⟩, ⟨6, 2, 0, 0⟩] } with now := 7 }
       (s.core 0).incCycle ≠ s.now ∧ (s.core 0).deferred.length ≤ 4 ∧ ∀ d ∈ (s.core 0).deferred, d.cycle < s.now)
    ∧ (let s := withStrand {} { incs := fourIncs }
       (s.core 0).deferred = [] ∧ (s.core 0).incCycle = s.now ∧ (s.core 0).incs.length = 4
        ∧ (s.core 0).incs.getLast? = some ⟨4, 1, 9, 0⟩) := by decide +kernel

/-- The fifth increment of a cycle is deferred, and SEMDEFER counts it (R218). -/
theorem test_fifth_increment_deferred :
    let s := ({ cores := [(0, { incs := fourIncs })] } : State).increment 0 5 3 10
    (s.core 0).cells = [] ∧ (s.core 0).deferred = [⟨5, 3, 10, 0⟩] ∧ (s.core 0).ctrs.semdefer = 1
      ∧ ((after (.semaphoreDeferredIncrement 0) { s with now := 1 }).core 0).cells = [(5, 3)] := by decide +kernel

/-- One of a local stream takes the place of the endpoint's, which waits a cycle (R218). -/
theorem test_order_of_increments :
    let s := ({ cores := [(0, { incs := fourIncs, cells := [(4, 1)] })] } : State).increment 0 5 3 8
    (s.core 0).cells = [(5, 3)] ∧ (s.core 0).deferred = [⟨4, 1, 9, 0⟩] := by decide +kernel

/-- A stream at PC 0 with one fetched word; its code is 16 bytes at the start of the HBM partition. -/
def fetched (w : Word) : State :=
  withStrand { m := { state := .running, queue := [(0, w)], codeLen := 1 } } {} { hbmUnits := [0] }

/-- A NOP that waits for semaphore 5 with WREG 1 and WINC 1, so for the value 1. -/
def waitNop : Word := BitVec.ofNat 128 (2 ^ 120 + 5 * 2 ^ 96 + 1 * 2 ^ 88 + 1 * 2 ^ 80 + 0xFFFF * 2 ^ 64)

/-- One NOP at the start of the HBM partition. -/
def codeAt : State :=
  { withStrand { m := { state := .running, codeLen := 1 } } {} { hbmUnits := [0] } with mem := { hbm := [⟨15, 1⟩] } }

theorem wit_FetchAndReach :
    (∀ n ∈ [(word 1 0 0 0 0 0 0).toNat, (word 0xFF 0 0 0 0 0 0).toNat, waitNop.toNat], let w := BitVec.ofNat 128 n
     let s := fetched w
     s.pcore 0 0 = some 0 ∧ (s.ctx 0).state = .ready ∧ (s.stream iM).state = .running ∧ (s.stream iM).phase = .boundary
      ∧ (s.stream iM).held = false ∧ s.coreRuns 0 0 = true ∧ s.noInstr iM = false ∧ (s.stream iM).cur = some w)
    ∧ ((fetched (word 0xFF 0 0 0 0 0 0)).stage1 iM (word 0xFF 0 0 0 0 0 0)).isSome = true
    ∧ (fetched (word 1 0 0 0 0 0 0)).stage1 iM (word 1 0 0 0 0 0 0) = none
    ∧ (let s := codeAt
       s.pcore 0 0 = some 0 ∧ (s.ctx 0).state = .ready ∧ clean s ∧ s.mem.inReset = [] ∧ s.mem.isolated = []
        ∧ (s.fetchFrom iM 32 0).1 ≠ [])
    ∧ (let x : Stream := { pc := 3, loops := [⟨2, 3, 5, 0⟩], queue := [(2, 0), (3, 0)] }
       x.loops = [⟨2, 3, 5, 0⟩] ∧ 1 < (5 : U32).toNat ∧ (3 : U32).toNat < (2 : U32).toNat + 32 ∧ (2, 0) ∈ x.queue) := by decide +kernel

/-! ### The matrix engine and the sampler -/

/-- One-element e4m3 operands: 1.5 in A at byte 0, 2.0 in B at byte 16, D at byte 64; no tile product is sampled. -/
def mBytes : Core := { sp := [⟨0, 0x3C⟩, ⟨16, 0x40⟩] }

/-- A matrix instruction with K and N of 1, and the states after each command of its run. -/
def mOn (o : Nat) : State := on .m (word o 0 1 2 3 0 0) vDescs mBytes { cfg := { set := { smpl := 0 } } }
def mRun (o : Nat) : State := after (if o = 0x20 then .mm t0 else if o = 0x21 then .mmt t0 else .mop t0) (mOn o)
def mGo (o : Nat) : State := after (.mGrant 0) (mRun o)
def mHeld (o : Nat) : State := if o = 0x22 then mGo o else after (.blockLoad ⟨t0, {}⟩) (mGo o)
def mSummed (o : Nat) : State := after (.tileProductComplete t0 []) (mHeld o)

/-- The run of strand 0's M instruction. -/
def runOf (s : State) : MRun := (s.strand t0).mrun.getD { latch := {} }

/-- An MM over two blocks, with the first in its hold. -/
def mTwo : State :=
  let ds : SMap Desc := [(1, desc 0 1024 2 129 0), (2, desc 0 0 2 1 0), (3, desc 0 16 2 129 0)]
  after (.blockLoad ⟨t0, {}⟩) (after (.mGrant 0) (after (.mm t0) (on .m (word 0x20 0 1 2 3 0 (128 * 1024)) ds mBytes)))

/-- A split-mode MM that waits while another strand's runs, or while nothing does. -/
def mSplit (busy : Bool) : State :=
  let s := after (.mm t0) (on .m (word 0x20 4 1 2 3 0 0) vDescs mBytes)
  if busy then s.updStrand ⟨0, 0, 1⟩ fun y => { y with mrun := some { latch := {}, granted := true } } else s

theorem wit_MatrixIssuesAndGrants :
    (∀ o ∈ [0x20, 0x21, 0x22], (mOn o).canIssue iM o = true ∧ (mOn o).mFlts ((mOn o).latch iM) = [])
    ∧ (let s := on .m (word 0x20 0 1 2 3 0 0) [] mBytes
       s.canIssue iM 0x20 = true ∧ (bestFault (orderFlts (s.mFlts (s.latch iM)))).isSome = true)
    ∧ (let k := (mRun 0x20).core 0
       k.draining = false ∧ k.cands.head? = some 0 ∧ (∀ u ∈ k.cands, k.needs u = k.split) ∧ k.room = true
        ∧ (k.strand 0).mrun.isSome = true
        ∧ (let r := runOf (mRun 0x20)
           (foldOf r.latch).ns * (foldOf r.latch).nj * (foldOf r.latch).ni ≠ 0))
    ∧ (let k := (mSplit true).core 0
       k.draining = false ∧ k.running ≠ [] ∧ ∃ u ∈ k.cands, k.needs u ≠ k.split)
    ∧ (let k := (after (.mGrant 0) (mSplit true)).core 0
       k.draining = true)
    ∧ (let s := (mSplit false).updCore 0 fun k => { k with draining := true }
       (s.core 0).draining = true ∧ (s.core 0).running = []
        ∧ (let u := s.updCore 0 fun k => { k with split := !k.split, draining := false, holds := [] }
           ((u.core 0).cands.find? fun t => (u.core 0).needs t = (u.core 0).split) = some 0))
    ∧ (let s := withStrand {} { draining := true }
       let u := s.updCore 0 fun k => { k with split := !k.split, draining := false, holds := [] }
       (s.core 0).draining = true ∧ (s.core 0).running = []
        ∧ ((u.core 0).cands.find? fun t => (u.core 0).needs t = (u.core 0).split) = none) := by decide +kernel

/-- An instruction with group control LAST continues an open group of its shape; one with ONLY does not. -/
theorem wit_MatrixIssuesAndGrants_groups :
    let l (n : Nat) := (on .m (word 0x20 (8 * n) 1 2 3 0 0) vDescs mBytes).latch iM
    let g := (foldOf (l 1)).newGroup { latch := l 1 } 0
    (foldOf (l 3)).continues (l 3).gctl g = true ∧ (foldOf (l 0)).continues (l 0).gctl g = false := by decide +kernel

theorem wit_MatrixRuns :
    (∀ o ∈ [0x20, 0x21],
      let s := mGo o
      let r := runOf s
      s.pcore 0 0 = some 0 ∧ (s.strand t0).mrun = some r ∧ clean s ∧ r.granted = true ∧ r.ended = false
        ∧ (foldOf r.latch).opc ≠ 0x22 ∧ r.hold = none ∧ (s.core 0).findHold (foldOf r.latch) r r.j r.i = none
        ∧ (s.core 0).loadNext (foldOf r.latch) r = some (0, true, 0, 0)
        ∧ readable s 0 t0 (mOpd r.latch 2) ((foldOf r.latch).blockCoords r.latch r.j r.i))
    ∧ (∀ o ∈ [0x20, 0x21, 0x22],
      let s := mHeld o
      let r := runOf s
      (s.strand t0).mrun = some r ∧ ((s.core 0).groupFor 0 r).isSome = true ∧ clean s ∧ r.granted = true
        ∧ r.ended = false
        ∧ (foldOf r.latch).ni ≠ 0
        ∧ ((foldOf r.latch).opc = 0x22 ∨ (s.visitHold t0 0 (foldOf r.latch) r).isSome = true)
        ∧ readable s 0 t0 (mOpd r.latch 1) ((foldOf r.latch).aTile r).flatten
        ∧ ((foldOf r.latch).opc = 0x22 → readable s 0 t0 (mOpd r.latch 2) ((foldOf r.latch).bTile r).flatten)
        ∧ ((foldOf r.latch).opc ≠ 0x22 → r.hold = none →
            readable s 0 t0 (mOpd r.latch 2) ((foldOf r.latch).blockCoords r.latch r.j r.i)))
    ∧ (let s := mSummed 0x20
       ∃ g ∈ (s.strand t0).closing, (s.strand t0).closing = [g] ∧ clean s ∧ g.sampled = 0 ∧ g.poisoned = false
        ∧ s.hub.arbs = [] ∧ lostWords (some .m) ((s.ctx 0).closeWrites g).1 [] = []) := by decide +kernel

theorem wit_MatrixRuns_blocks :
    (let s := mTwo
       let r := runOf s
       r.hold = some 0 ∧ r.ahead = none ∧ (foldOf r.latch).after r.s r.j r.i = some (0, 1, 0)
        ∧ (s.core 0).findHold (foldOf r.latch) r 1 0 = none
        ∧ (s.core 0).loadNext (foldOf r.latch) r = some (1, false, 1, 0))
    ∧ (let s := after (.blockLoad ⟨t0, {}⟩) mTwo
       let r := runOf s
       r.hold.isSome = true ∧ r.ahead.isSome = true ∧ (s.core 0).loadNext (foldOf r.latch) r = none)
    ∧ (let s := (mGo 0x20).updCore 0 fun k => { k with poison := [(0, true)] }
       let r := runOf s
       (s.core 0).loadNext (foldOf r.latch) r = some (0, true, 0, 0)
        ∧ (bestFault (orderFlts ((mOpd r.latch 2).poison (s.core 0).poison 0
            ((foldOf r.latch).blockCoords r.latch 0 0)))).isSome = true) := by decide +kernel

/-- 1.5 · 2.0 = 3.0, code 0x44 in e4m3 (Table 4.1), and the M stream's instruction completes. -/
theorem test_matrix_value : ∀ o ∈ [0x20, 0x21, 0x22],
    let s := after (.groupClose t0 [] {}) (mSummed o)
    Memory.read (s.core 0).sp 64 = 0x44 ∧ (s.stream iM).phase = .complete := by decide +kernel

/-- Capture 0 of strand 0 on a core with a neighbour in the same row of the grid. -/
def sampled (isDone : Bool) : State :=
  let c : Capture := { n := 0, t := t0, gid := 0, latch := {}, bi := 0, bj := 0, strip := 0, ops := [], check := []
                       done := isDone, case := none }
  { cores := [(0, { captures := [c] }), (1, {})], ctxs := [(0, { state := .ready, slices := [0], grid := List.range 16 })] }

theorem wit_SamplerRuns :
    (let s := sampled false
     ∃ c ∈ (s.core 0).captures, (s.core 0).captures = [c] ∧ c.done = false ∧ s.neighbour 0 ≠ 0)
    ∧ (let s := sampled true
       ∃ c ∈ (s.core 0).captures, (s.core 0).captures = [c] ∧ c.done = true ∧ s.pcore c.t.ctx c.t.vc = some 0)
    ∧ ((sampled true).core 1).captures = [] := by decide +kernel

/-! ### Transfers -/

/-- 2 bytes at 0 to be copied to 64 of the own scratchpad, or one fp16 element to be added to HBM. -/
def xDescs (n : Nat) : SMap Desc := [(1, desc 0 64 2 n 0), (2, desc 0 0 2 n 0)]
def accDescs : SMap Desc := [(1, desc 1 0 0 1 0), (2, desc 0 0 0 1 0)]
def xOn (o mod : Nat) (ds : SMap Desc := xDescs 2) : State :=
  on .x (word o mod 1 2 0 0 0) ds { sp := [⟨0, 7⟩, ⟨1, 8⟩] } { hbmUnits := [0] }

/-- The same with `n` entries of the transfer queue taken. -/
def xFull (s : State) (n : Nat) : State :=
  s.updStream iX fun x => { x with xfers := [{ id := 9, latch := {}, frags := List.replicate n { lo := 0, hi := 1 } }] }

theorem wit_TransfersIssue :
    (∀ e ∈ [(0x60, 0), (0x60, 4), (0x60, 8)],
      let s := xOn e.1 e.2
      s.canIssue iX e.1 = true ∧ 4 * gathOf (s.stream iX).word = e.2 ∧ s.copyFlts t0 (s.latch iX) = []
        ∧ s.copyFrags t0 (s.latch iX) ≠ [] ∧ (s.copyFrags t0 (s.latch iX)).length ≤ 64
        ∧ roomFor s t0 (s.copyFrags t0 (s.latch iX)) ∧ localWith s (s.xElems t0 (s.latch iX)) = true)
    ∧ (let s := xOn 0x61 0 accDescs
       s.canIssue iX 0x61 = true ∧ gathOf (s.stream iX).word = 0 ∧ s.accFlts t0 (s.latch iX) = []
        ∧ s.copyFrags t0 (s.latch iX) ≠ [] ∧ (s.copyFrags t0 (s.latch iX)).length ≤ 64
        ∧ roomFor s t0 (s.copyFrags t0 (s.latch iX)) ∧ localWith s (s.xElems t0 (s.latch iX)) = true)
    ∧ (∀ e ∈ [(0x60, xDescs 2), (0x61, accDescs)],
       let s := xFull (xOn e.1 0 e.2) 64
       s.canIssue iX e.1 = true ∧ ¬roomFor s t0 (s.copyFrags t0 (s.latch iX)))
    ∧ (∀ o ∈ [0x60, 0x61],
       let s := xOn o 0 []
       s.canIssue iX o = true ∧ (if o = 0x60 then s.copyFlts t0 (s.latch iX) else s.accFlts t0 (s.latch iX)) ≠ [])
    ∧ (let s := xOn 0x60 0 [(1, desc 0 64 2 0 0), (2, desc 0 0 2 0 0)]
       s.pcore 0 0 = some 0 ∧ s.canIssue iX 0x60 = true ∧ s.copyFlts t0 (s.latch iX) = []
        ∧ s.xElems t0 (s.latch iX) = [] ∧ roomFor s t0 []) := by decide +kernel

/-- An XCOPY and an XACC in flight. -/
def copying : State := after (.xcopy t0) (xOn 0x60 0)
def adding : State := after (.xacc t0) (xOn 0x61 0 accDescs)
def arrivedAt : State := after (.xaccWaitRoom t0 0 0) adding

/-- Another instruction's fragment is pending on the granule. -/
def meeting : State := { adding with mem := { adding.mem with xaccPend := [(0, 0, ⟨1, 0, 0⟩, 5)] } }

/-- The X instruction in flight and its first fragment. -/
def xferOf (s : State) : Xfer := (s.xfer t0 0).getD { id := 0, latch := {}, frags := [] }
def fragZero (s : State) : Frag := (xferOf s).frags.headD { lo := 0, hi := 0 }

theorem wit_TransferFragments :
    (let s := copying
     let x := xferOf s
     let f := fragZero s
     s.xfer t0 0 = some x ∧ x.frags[0]? = some f ∧ f.status = none
      ∧ f.arrived = false ∧ Word.opc x.latch.word = 0x60 ∧ gathOf x.latch.word = 0 ∧ x.latch.dEnt.glz = false ∧ clean s
      ∧ localWith s x.els = true ∧ (∀ e ∈ x.part f, s.bad e.src.place e.src.off = false)
      ∧ x.faulted = false ∧ xMisuse (xWidth x.latch) x.els = false)
    ∧ (let s := adding
       let x := xferOf s
     let f := fragZero s
     s.xfer t0 0 = some x ∧ x.frags[0]? = some f ∧ f.status = none
        ∧ Word.opc x.latch.word = 0x61 ∧ f.applied = false ∧ f.arrived = false
        ∧ s.mem.xaccPend = [] ∧ (accGranules (x.part f)).length = 1)
    ∧ (let s := arrivedAt
       let x := xferOf s
     let f := fragZero s
     s.xfer t0 0 = some x ∧ x.frags[0]? = some f ∧ f.status = none
        ∧ Word.opc x.latch.word = 0x61 ∧ clean s ∧ localWith s x.els = true ∧ f.applied = false
        ∧ f.arrived = true ∧ f.met = [] ∧ x.orig = []
        ∧ (∀ e ∈ x.els, e.dst.place = .hbm ∧ e.dst.off % 2 = 0)
        ∧ (x.els.map fun e => e.dst.off).Nodup)
    ∧ (let s := after (.xaccApply t0 0 0 []) arrivedAt
       let x := xferOf s
     let f := fragZero s
     s.xfer t0 0 = some x ∧ x.frags[0]? = some f ∧ f.status = none
        ∧ f.applied = true)
    ∧ (let s := meeting
       let x := xferOf s
     let f := fragZero s
     s.xfer t0 0 = some x ∧ x.frags[0]? = some f ∧ f.status = none
        ∧ f.applied = false ∧ f.arrived = false ∧ (s.ctx 0).cfg.set.arrival = false
        ∧ ((accGranules (x.part f)).filter fun g =>
            s.mem.xaccPend.any fun e => e.2.1 = g && !(e.2.2.1 = t0 && e.2.2.2 = 0)) = [0]) := by decide +kernel

/-- 4,096 granules of stack 0 are pending: one more finds no room. -/
theorem wit_TransferFragments_full :
    let l (n : Nat) := List.replicate n ((0, 0, ⟨1, 0, 0⟩, 5) : Nat × Nat × StrandId × Nat)
    hbmStack adding.mem.bandLocal 0 = 0 ∧ (∀ n, ((l n).filter (·.1 = 0)).length = n) ∧ (4096 : Nat) ≠ 0 ∧ 4096 < 4096 + 1 := by
  refine ⟨by decide +kernel, fun n => ?_, by decide⟩
  simp

theorem test_xcopy_copies :
    let s := after (.fragmentComplete t0 0 0 quiet) copying
    Memory.read (s.core 0).sp 64 = 7 ∧ Memory.read (s.core 0).sp 65 = 8 ∧ (s.stream iX).xfers = [] := by decide +kernel

/-- An endpoint that is granted: its GRANT bit, device 5. -/
def granted : Ctx := { cfg := { endpoints := [(3, BitVec.ofNat 256 (5 * 2 ^ 128 + 2 ^ 181 + 2 ^ 192))] } }

theorem wit_RemoteSignals :
    (let s := on .x (word 0x64 0 0 0 0 0 (3 * 2 ^ 16)) [] {} granted
     s.canIssue iX 0x64 = true ∧ (s.ctx 0).granted 3 = true ∧ roomFor s t0 [{ lo := 0, hi := 1 }])
    ∧ (let s := on .x (word 0x64 0 0 0 0 0 (3 * 2 ^ 16))
       s.canIssue iX 0x64 = true ∧ (s.ctx 0).granted 3 = false) := by decide +kernel

/-- XCOLL and XDISP under the null plan, and under an all-reduce or a dispatch of 1 rank and no elements. -/
def plans : Ctx := { cfg := { collPlans := [(1, BitVec.ofNat 512 (1 + 2 ^ 64))], dispPlans := [(1, BitVec.ofNat 512 (1 + 2 ^ 64))] } }

theorem wit_CollectivesIssue : ∀ plan ∈ [0, 1],
    (let s := on .x (word 0x62 0 1 2 0 0 plan) (xDescs 2 ++ [(3, desc 0 16 2 2 0)]) {} plans
     s.canIssue iX 0x62 = true ∧ s.collFlts t0 (s.latch iX) = [] ∧ (s.collFrags t0 (s.latch iX)).length ≤ 64
      ∧ roomFor s t0 (s.collFrags t0 (s.latch iX)) ∧ Plan.op ((s.ctx 0).collPlan (planOf (s.latch iX).word)) = plan)
    ∧ (let s := on .x (word 0x63 0 1 2 3 0 plan) (xDescs 2 ++ [(3, desc 0 16 2 2 0)]) {} plans
       s.canIssue iX 0x63 = true ∧ dirOf (s.latch iX).word = 0 ∧ dispFlts s t0 (s.latch iX) = []
        ∧ (dispFrags s t0 (s.latch iX)).length ≤ 64 ∧ roomFor s t0 (dispFrags s t0 (s.latch iX))
        ∧ Plan.kind ((s.ctx 0).dispPlan (planOf (s.latch iX).word)) = plan)
    ∧ (let s := on .x (word 0x63 0x10 1 2 3 0 plan) (xDescs 2 ++ [(3, desc 0 16 2 2 0)]) {} plans
       s.canIssue iX 0x63 = true ∧ dirOf (s.latch iX).word = 1 ∧ combFlts s t0 (s.latch iX) = []
        ∧ (combFrags s t0 (s.latch iX)).length ≤ 64 ∧ roomFor s t0 (combFrags s t0 (s.latch iX))
        ∧ Plan.kind ((s.ctx 0).dispPlan (planOf (s.latch iX).word)) = plan) := by decide +kernel

/-- An ALLREDUCE (1) or ALLGATHER (3) of one element over one rank: A at byte 0, D at byte 64. -/
def loneColl (op : Nat) : State :=
  let p : Plan := BitVec.ofNat 512 (op + 2 ^ 64 + 2 ^ 192 + 0x280000000000 * 2 ^ 256 + 0x280000000040 * 2 ^ 320 + 2 ^ 416)
  on .x (word 0x62 0 1 2 0 0 1) (xDescs 1) { sp := [⟨0, 0x38⟩] } { cfg := { collPlans := [(1, p)] }, hbmUnits := [0] }

/-- A dispatch of one token of 2 e4m3 elements over one rank, to slots at byte 128 with counts at byte 192; its record, at
byte 16, has gate 1.0 in bf16 (Table 4.1). -/
def loneDisp : State :=
  let p : Plan := BitVec.ofNat 512 (1 + 2 ^ 8 + 2 ^ 16 + 2 ^ 64 + 2 ^ 128 + 0x280000000080 * 2 ^ 192
    + 0x2800000000C0 * 2 ^ 256 + 2 * 2 ^ 352 + 2 * 2 ^ 368 + 2 * 2 ^ 372 + 2 ^ 376)
  let ds : SMap Desc := [(1, desc 0 64 2 2 1), (2, desc 0 0 2 2 1), (3, desc 0 16 2 8 1)]
  { on .x (word 0x63 0 1 2 3 0 1) ds { sp := [⟨0, 0x38⟩, ⟨1, 0x40⟩, ⟨20, 0x80⟩, ⟨21, 0x3F⟩] }
      { cfg := { dispPlans := [(1, p)] }, dirSize := 1, hbmUnits := [0] } with mem := { dir0 := [(0, 2 ^ 63)] } }

/-- The combine that follows it, of an output 1.0 and 0 at byte 32 into byte 64. -/
def loneComb : State :=
  let u := after (.xdispDispatch ⟨t0, {}⟩) loneDisp
  let u := u.updCore 0 fun k => { k with sp := Memory.write k.sp 32 0x38 }
  let ds : SMap Desc := [(1, desc 0 64 2 2 1), (2, desc 0 32 2 2 1), (3, desc 0 16 2 8 1)]
  u.updStrand t0 fun y => { y with descs := ds, x := { ready (word 0x63 0x10 1 2 3 0 1) with nextId := 1 } }

theorem wit_CollectivesIssue_lone : ∀ op ∈ [1, 3],
    let s := loneColl op
    let l := s.latch iX
    let x := s.ctx 0
    let p := x.collPlan 1
    let c : Coord := ⟨0, 0, 0, 0⟩
    s.canIssue iX 0x62 = true ∧ s.collFlts t0 l = [] ∧ (s.stream iX).xfers = [] ∧ planOf l.word = 1 ∧ Plan.op p = op
    ∧ Plan.nrank p = 1 ∧ Plan.myrank p = 0 ∧ Plan.len p = 1 ∧ 0 < Plan.blks p ∧ x.rankEp (Plan.rmbase p) 0 = none
    ∧ x.collOf (Plan.id p) 0 = some 1 ∧ x.collsOf (Plan.id p) = [1] ∧ x.colls = [] ∧ Desc.coords (xA l) = [c]
    ∧ Desc.coords (xD l) = [c] ∧ Desc.fmt (xA l) = 2 ∧ Desc.fmt (xD l) = 2 ∧ vecIndex t0 (xA l) (Plan.src p) 1 c = some 0
    ∧ vecIndex t0 (xD l) (Plan.dst p) 1 c = some 0 ∧ clean s ∧ portsOpen s = true ∧ soundPts s 8 [s.pt t0 (xA l) 8 c]
    ∧ (s.pt t0 (xD l) 8 c).place ≠ .buddy := by decide +kernel

theorem wit_CollectivesIssue_dispatch :
    let s := loneDisp
    let l := s.latch iX
    let x := s.ctx 0
    let p := x.dispPlan 1
    let r := recordOf s t0 (l.desc (Word.b l.word)) 0 0
    let v := leNat (r.map fun q => s.byteAt q.place q.off)
    let toks := s.tokenData t0 l p 0
    let place (a : Nat) : Option (Place × Nat) := (s.spot 0 a).map fun q => (q.place, q.off)
    let outs := (List.range (Plan.tokBytes p)).map (fun o => place (Plan.rxbase p + o))
      ++ (List.range (4 * Plan.nlocal p)).map fun o => place (Plan.cntbase p + o)
    s.canIssue iX 0x63 = true ∧ planOf l.word = 1 ∧ dirOf l.word = 0 ∧ dispFlts s t0 l = [] ∧ (s.stream iX).xfers = []
    ∧ Plan.kind p ≠ 0 ∧ Plan.nrank p = 1 ∧ Plan.myrank p = 0 ∧ Plan.k p = 1 ∧ 0 < Plan.h p ∧ 0 < Plan.nlocal p
    ∧ 0 < Plan.cap p ∧ 0 < Plan.tmax p ∧ (s.tokenBytes 8 toks).2.length = Plan.tokBytes p ∧ Desc.size (xA l) 1 = 1
    ∧ x.rankEp (Plan.drmbase p) 0 = none ∧ x.dispOf (Plan.id p) 0 = some 1 ∧ x.dispsOf (Plan.id p) = [1] ∧ x.disps = []
    ∧ x.dispNow 1 ≤ SMap.get 0 x.dispCount 1 ∧ bits v 31 1 = 0 ∧ s.dirEntry 0 l.phase1 (bits v 0 20) = some (2 ^ 63)
    ∧ clean s ∧ portsOpen s = true ∧ soundPts s 8 r ∧ soundPts s 8 toks ∧ outs.Nodup
    ∧ (∀ z ∈ outs, z.isSome = true ∧ z.map Prod.fst ≠ some .buddy) := by decide +kernel

theorem wit_CollectivesIssue_combine :
    let s := loneComb
    let l := s.latch iX
    let x := s.ctx 0
    let p := x.dispPlan 1
    let dst := (s.tokenPts t0 l p 0).map Prod.snd
    (s.canIssue iX 0x63 = true ∧ planOf l.word = 1 ∧ dirOf l.word = 1 ∧ combFlts s t0 l = [] ∧ (s.stream iX).xfers = []
      ∧ Plan.kind p ≠ 0 ∧ Plan.nrank p = 1 ∧ Plan.myrank p = 0 ∧ Desc.fmt (xD l) ≠ 12
      ∧ x.rankEp (Plan.drmbase p) 0 = none ∧ x.dispOf (Plan.id p) 0 = some 1 ∧ x.dispsOf (Plan.id p) = [1])
    ∧ x.disps.length = 1
    ∧ (∀ y ∈ x.disps, y.plan = 1 ∧ y.num = x.dispNow 1 ∧ y.comb = none ∧ y.ended = false ∧ y.begun = true
      ∧ y.placed = true ∧ y.dispDone = true ∧ y.waiting = [] ∧ y.asked = false ∧ y.returned = false ∧ y.written = false
      ∧ y.outs = [] ∧ y.acked = y.sent ∧ y.tokens = 1 ∧ y.badTokens = [] ∧ y.recs = [⟨0, 0, 0, 0, 0x3F80⟩]
      ∧ y.counts = [(0, 0, 1)] ∧ y.acc = [(0, 0, 1)] ∧ soundPts s 8 (s.slotPts t0 l p y 0 0))
    ∧ dst.length = Plan.h p ∧ clean s ∧ portsOpen s = true ∧ (∀ q ∈ dst, q.place ≠ .buddy)
    ∧ (spotsOf 8 dst).Nodup := by decide +kernel

/-- One rank's all-reduce copies 1.0; the token goes to the slot and counts 1; its output comes back with gate 1. -/
theorem test_lone_results :
    (∀ op ∈ [1, 3], Memory.read ((after (.xcoll ⟨t0, {}⟩) (loneColl op)).core 0).sp 64 = 0x38)
    ∧ (let m := ((after (.xdispDispatch ⟨t0, {}⟩) loneDisp).core 0).sp
       Memory.readN m 128 2 = [0x38, 0x40] ∧ Memory.readN m 192 4 = [1, 0, 0, 0])
    ∧ Memory.readN ((after (.xdispCombine ⟨t0, {}⟩) loneComb).core 0).sp 64 2 = [0x38, 0] := by decide +kernel

/-- A plan of 10 elements over 3 ranks: LEN at bit 192. -/
def plan10 : Plan := BitVec.ofNat 512 (1 + 3 * 2 ^ 64 + 10 * 2 ^ 192)

theorem wit_ShardsPartition : 0 < Plan.len plan10 ∧ 0 < Plan.nrank plan10 := by decide +kernel

/-! ### Faults, errors, stores -/

/-- Context 0 in a state of its stop. -/
def stopped (st : CtxState) (x : Ctx := {}) : State := { ctxs := [(0, { x with state := st })] }

theorem wit_FaultStopsContext : ((stopped .ready).ctx 0).state = .ready ∧ ((stopped (.stopping 5)).ctx 0).state = .stopping 5
    ∧ ((stopped .faulted).ctx 0).state = .faulted ∧ inRoutine (word 0x0A 0 0 0 0 0 1) false ⟨1, 0, 0⟩ = true
    ∧ inRoutine (word 1 0 0 0 0 0 0) true ⟨1, 0xFF, 0⟩ = false := by decide +kernel

/-- A record of a NOP at PC 0. -/
def rec0 : FaultRec := firstRecord {} iM (word 1 0 0 0 0 0 0) 0 0 true ⟨1, 0xFF, 0⟩ 0

theorem wit_ContextStops :
    (let s := { mOn 0x20 with ctxs := [(0, { (mOn 0x20).ctx 0 with state := .stopping 0 })] }
     s.ctxBusy 0 = false ∧ (s.ctx 0).state = .stopping 0 ∧ s.twin.mode ≠ 2)
    ∧ (let s := mRun 0x20
       ({ s with ctxs := [(0, { s.ctx 0 with state := .stopping 0 })] } : State).ctxBusy 0 = true)
    ∧ (∀ b ∈ [false, true], let s := stopped (.stopping 0) { stopCtl := b, records := [rec0] }
       s.ctxBusy 0 = false ∧ (s.ctx 0).stopCtl = b ∧ (s.ctx 0).records = [rec0])
    ∧ (∀ n ∈ [939999, 940000],
       let s := { mGo 0x20 with now := n, ctxs := [(0, { (mGo 0x20).ctx 0 with state := .stopping 0 })] }
       (s.ctx 0).state = .stopping 0 ∧ (s.ctx 0).colls = [] ∧ (s.ctx 0).disps = []
        ∧ (∀ t ∈ s.strandsOf 0, (s.strand t).x.xfers = []) ∧ t0 ∈ s.strandsOf 0 ∧ s.pcore 0 0 = some 0
        ∧ (s.strand t0).mrun.isSome = true
        ∧ (foldOf (runOf s).latch).granules (runOf s).latch ≠ []) := by decide +kernel

/-- A fault puts every stream of the context in Faulted (R62). -/
theorem test_fault_stops_streams :
    let s := (on .v (word 0xFF 0 0 0 0 0 0)).faultAt iV (word 0xFF 0 0 0 0 0 0) true ⟨1, 0xFF, 0xFF⟩
    (s.stream iM).state = .faulted ∧ (s.stream iX).state = .faulted ∧ (s.ctx 0).records.map FaultRec.code = [1] := by
  decide +kernel

/-- The 64 bytes of granule 1, and part of it. -/
def bytesOf (n : Nat) (bad : Bool) : List W := (List.range n).map fun k => { addr := 64 + k, val := 7, bad := bad }

theorem wit_WritesMovePoison :
    (∃ w ∈ (bytesOf 1 true).filter fun w => w.addr / 64 = 1, w.bad = true)
    ∧ (let l := (bytesOf 64 false).filter fun w => w.addr / 64 = 1
       (∀ w ∈ l, w.bad = false) ∧ coversAll l 64 64 = true ∧ 64 ≤ l.length)
    ∧ (let l := (bytesOf 63 false).filter fun w => w.addr / 64 = 1
       (∀ w ∈ l, w.bad = false) ∧ coversAll l 64 64 = false) := by decide +kernel

theorem test_poison_moves : poisonAfter [(1, true)] (bytesOf 64 false) = [] ∧ poisonAfter [(1, true)] (bytesOf 63 false) = [(1, true)]
    ∧ poisonAfter [] (bytesOf 1 true) = [(1, true)] := by decide +kernel

theorem wit_StoresAreLocal : clean {} ∧ Memory.wf (({} : State).memAt .hbm) = true ∧ (Place.ddr ≠ Place.hbm) := by decide

theorem wit_ErrorsAreFound :
    clean {} ∧ (⟨.hbm, 64, false⟩ : MemErr).store = .hbm ∧ (⟨.hbm, 64, false⟩ : MemErr).correctable = false
    ∧ (⟨.ddr, 64, true⟩ : MemErr).store = .ddr ∧ (⟨.scratch 0, 64, true⟩ : MemErr).store = .scratch 0
    ∧ (let s := on .m (word 1 0 0 0 0 0 0)
       s.pcore 0 0 = some 0 ∧ (s.core 0).svc = .serving ∧ (s.ctx 0).state = .ready)
    ∧ ({} : State).fab.engine false 1 = .serving ∧ (∀ c, c < 16 → (({} : State).ctx c).colls = [])
    ∧ (({ cores := [(0, { routineErr := true })] } : State).core 0).routineErr = true := by decide +kernel

/-! ### Queue, fuses, switches, seals -/

theorem wit_StepRunsFront : ({} : State).pending = [] ∧ ({} : State).aon.stage = 0
    ∧ ({ aon := { stage := 1 } } : State).aon.stage ≠ 0 := by decide

/-- 51,200/47 units a cycle: 1089 and 17/47. -/
theorem test_time_base : (match step { aon := { stage := 1 } } with
    | .next t => (t.aon.tbase.toNat, t.aon.tfrac, t.now)
    | _ => (0, 0, 0)) = (1089, 17, 1) := by decide +kernel

/-- The life-cycle burn of a command is a step that answers a next state. -/
theorem wit_FusesOnlyBurn : fusesKept State.reset.part State.reset.part
    ∧ (match step { State.reset with pending := [.por] } with
      | .next _ => true
      | _ => false) = true := by decide +kernel

theorem wit_FusesAtReset : let q : Part := { tampcnt := 7, lcpos := 1 }
    q.part = State.reset.part.part ∧ q.stepping = State.reset.part.stepping ∧ q.dieA = State.reset.part.dieA
      ∧ q.trim = State.reset.part.trim ∧ q.mac = State.reset.part.mac ∧ q.mfgKey = State.reset.part.mfgKey :=
  ⟨rfl, rfl, rfl, rfl, rfl, rfl⟩

/-- Slice 0 of context 0 being cleared since cycle 0. -/
def clearing (n : Nat) : State := { withStrand {} with now := n, hub := { clearing := [(0, 0, 0)] } }

theorem wit_SwitchClearsTheSlice :
    (let s := withStrand {}
     s.exists_ 0 = true ∧ 0 ∈ (s.ctx 0).slices ∧ s.quiet 0 = true ∧ (∀ e ∈ s.hub.clearing, e.1 ≠ 0) ∧ 0 ∈ s.part.sliceCores 0
      ∧ 0 ∈ (s.ctx 0).grid)
    ∧ ((on .m (word 1 0 0 0 0 0 0)).quiet 0 = false)
    ∧ (∀ n ∈ [1023, 1024], let s := clearing n
       (s.hub.clearing.find? fun e => e.1 = 0) = some (0, 0, 0) ∧ s.now = n ∧ (s.ctx 0).holdFor = none ∧ s.exists_ 0 = true
        ∧ 0 ∈ (s.ctx 0).slices) := by decide +kernel

theorem test_slice_leaves : ((after (.contextSwitchClearDone 0) (clearing 1024)).ctx 0).slices = []
    ∧ ((after (.contextSwitchClearDone 0) (clearing 1023)).ctx 0).slices = [0] := by decide +kernel

/-- Step 4 open while the context is in step 5. -/
def sealing : State := { ctxs := [(0, { state := .ready, step := 5, openSteps := [4] })] }

theorem wit_SealsAndTime :
    (sealing.compares 0 = false ∧ (sealing.ctx 0).state = .ready ∧ (4 : U64) ∈ (sealing.ctx 0).openSteps
      ∧ sealing.stepBusy 0 4 = false ∧ (4 : U64).toNat < (sealing.ctx 0).step.toNat)
    ∧ (3 : U64) ∉ (sealing.ctx 0).openSteps
    ∧ (({ aon := { tsource := 1 } } : State).aon.tsource = 1 ∧ ({ aon := { tsource := 1 } } : State).pwr.dev ≠ .standby) := by
  decide +kernel

/-- A PTP device that has selected grandmaster 5, with or without a two-step sync of it. -/
def ptpOn (two : Bool) : State := { aon := { tsource := 1, ptpMaster := some (5, 9), ptpTwoStep := two } }

theorem wit_SealsAndTime_ptp :
    (∀ b ∈ [false, true], (ptpOn b).aon.tsource = 1 ∧ (ptpOn b).pwr.dev ≠ .standby ∧ (ptpOn b).aon.ptpMaster = some (5, 9)
      ∧ (ptpOn b).aon.ptpTwoStep = b)
    ∧ ({ aon := { tsource := 1 } } : State).aon.ptpMaster = none ∧ ({} : State).aon.tsource ≠ 1
    ∧ (⟨.announce, 6, 8, true⟩ : PtpMsg).clock ≠ 5 := by decide +kernel

/-- The better of two announced grandmasters is selected (R226). -/
theorem test_ptp_master : (after (.ptpMessage ⟨.announce, 6, 8, true⟩ 0) (ptpOn false)).aon.ptpMaster = some (6, 8)
    ∧ (after (.ptpMessage ⟨.announce, 6, 10, true⟩ 0) (ptpOn false)).aon.ptpMaster = some (5, 9) := by decide +kernel

theorem test_final_seal : ((after (.finalSealClose 0 4) sealing).ctx 0).openSteps = [] := by decide +kernel

/-! ### Checkpoints -/

/-- A capture of no HBM and no DDR5, with 1 byte of configuration: 2 pages. -/
def capt0 : Capt := { step := 5, fence := 0, cfg := {}, state := {}, cfgBytes := [1] }
def copy0 : Copying := { capt := capt0, slotB := false, mode := 0, buddy := false }

/-- Context 0 with a checkpoint in copy, its area in DDR5 unit 0. -/
def copyOn (k : Copying) (used : Nat := 0) : State :=
  { ctxs := [(0, { state := .ready, localUnits := [0], ckpt := { copying := some k } })]
    mem := { fenceUsed := used, ddrGib := 64 }, vault := { valid := true, ckpt := 1 } }

/-- A manifest as far as its step, 5, and a closed step 5. -/
def man5 : List Byte := zeros 16 ++ leBytes 8 5
def closed : State :=
  { ctxs := [(0, { state := .ready, ckpt :=
      { slotA := { commit := 0x8000000000000005, manifest := man5 }, steps := [{ step := 5, ended := true }] } })]
    vault := { valid := true } }

theorem wit_CheckpointCopies :
    (clean (copyOn copy0) ∧ (copyOn copy0).mem.inReset = [] ∧ (copyOn copy0).mem.isolated = [])
    ∧ copy0.fenced = [] ∧ copy0.nextPending = some 0 ∧ copy0.buddy = false
    ∧ (shardPage copy0.shards 0 = some (⟨2, 0, 1, 0x100000⟩, 0)
        ∧ (((copyOn copy0).ctx 0).localUnits[(0x100000 + 0 * 65536 + 0) >>> 36]?) = some 0)
    ∧ (0 < shardPages copy0.shards ∧ 0 ∉ copy0.early)
    ∧ ((copyOn copy0 16383).mem.fenceUsed < 16384 ∧ 16384 ≤ (copyOn copy0 16384).mem.fenceUsed)
    ∧ (let k : Copying := { copy0 with heldPages := [1], early := [1] }
       1 ∈ k.heldPages ∧ (copyOn k).modeStands k = true ∧ k.nextPending.isSome = true)
    ∧ (copyOn { copy0 with mode := 1 }).modeStands { copy0 with mode := 1 } = false
    ∧ (∀ bad ∈ [[], [0x40]],
       let k : Copying := { copy0 with next := 2, bad := bad }
       let s := copyOn k
       s.modeStands k = true ∧ k.nextPending = none ∧ k.fenced = [] ∧ k.buddy = false ∧ s.copyFits 0 k = true
        ∧ s.canSign = true ∧ s.twin.mode ≠ 2 ∧ k.back = 0 ∧ k.bad = bad)
    ∧ (let k : Copying := { copy0 with next := 2 }
       let s := copyOn k
       ({ s with vault := {} } : State).canSign = false ∧ ({ s with vault := {} } : State).copyFits 0 k = true)
    ∧ (let k : Copying := { copy0 with next := 2, buddy := true }
       k.buddy = true ∧ (copyOn k).buddyPending 0 = false ∧ (copyOn k).copyFits 0 k = false)
    ∧ (let k : Copying := { copy0 with next := 2, buddy := true }
       let s : State := { copyOn k with ctxs := [(0, { (copyOn k).ctx 0 with areaLen := 1 })], twin := { peerUnits := 1 } }
       s.buddyPending 0 = false ∧ s.copyFits 0 k = true)
    ∧ (closed.canSign = true ∧ (closed.ctx 0).openSteps = []
        ∧ (closed.ctx 0).ckpt.closable = some (false, { step := 5, ended := true })) := by decide +kernel

theorem wit_CheckpointCopies_page : 0 < (copy0.capt.page ⟨2, 0, 1, 0x100000⟩ 0).1.length := by
  simp [Capt.page, slice]

/-- A context that stands still and asks for `u` units of HBM instead of one. -/
def resizing (u : Nat) : State :=
  { ctxs := [(0, { state := .ready, slices := [0], hbmUnits := [3], resize := some ⟨0, 0, u, 0, none, false, true, none⟩
                   cfg := { set := { snapbar := some 0 } } })] }

theorem wit_HoldsAndRestores :
    (∀ d h, ({} : State).fab.engine d h = .serving)
    ∧ (∀ u ∈ [0, 2, 73], let s := resizing u
       (s.ctx 0).resize = some ⟨0, 0, u, 0, none, false, true, none⟩ ∧ (s.ctx 0).cfg.set.snapbar.isSome = true
        ∧ s.standing 0 = true)
    ∧ (resizing 0).resizeRoom 0 ⟨0, 0, 0, 0, none, false, true, none⟩ = .inr ([], [], [])
    ∧ (resizing 2).resizeRoom 0 ⟨0, 0, 2, 0, none, false, true, none⟩ = .inr ([0], [], [])
    ∧ (resizing 73).resizeRoom 0 ⟨0, 0, 73, 0, none, false, true, none⟩ = .inl 1
    ∧ (let s : State := { ctxs := [(0, { state := .faulted, cfg := { set := { autorestore := true } }, ckpt :=
         { slotA := { commit := 0x8000000000000005, manifest := man5, capt := some capt0 } } })] }
       (s.ctx 0).state = .faulted ∧ (s.ctx 0).cfg.set.autorestore = true ∧ (s.ctx 0).arbRestore = false
        ∧ s.disputed 0 = false ∧ (s.ctx 0).cfg.set.target ≠ 2 ∧ clean s)
    ∧ (let s : State := { ctxs := [(0, { state := .faulted, cfg := { set := { autorestore := true, target := 2 } } })] }
       (s.ctx 0).cfg.set.target = 2 ∧ (s.ctx 0).ckpt.awaiting = [] ∧ (s.ctx 0).arbRestore = false ∧ s.disputed 0 = false)
    ∧ (∀ u ∈ [0, 2], (resizing u).resizeRefused 0 ⟨0, 0, u, 0, none, false, true, none⟩ = none)
    ∧ (resizing 73).resizeRefused 0 ⟨0, 0, 73, 0, none, false, true, none⟩ = some (6, 1)
    ∧ (let s := { on .m (word 1 0 0 0 0 0 0) with ctxs := [(0, { (on .m 0).ctx 0 with
         cfg := { set := { snapbar := some 0 } }, resize := some ⟨0, 0, 0, 0, none, false, false, none⟩ })] }
       s.standing 0 = false ∧ (s.ctx 0).resize.isSome = true) := by
  refine ⟨fun d h => ?_, by decide +kernel⟩
  cases d <;> simp [Fab.engine]

theorem test_resize_takes_units : ((after (.resizeHold 0) (resizing 2)).ctx 0).hbmUnits = [3, 0] := by decide +kernel

/-! ### Silent errors -/

/-- Core 0 is suspect since cycle 0; its context and the cycle. -/
def suspect (x : Ctx) (n : Nat) (k : Core := {}) : State :=
  { withStrand {} { k with svc := .suspect } x with now := n }

/-- The same with the die's spares retired, and slices `l`. -/
def noSpare (l : List Nat) : State :=
  let s := suspect { holdFor := some 0 } 9400000
  { s with
    ctxs := [(0, { s.ctx 0 with slices := l })]
    cores := s.cores ++ [0, 1, 2, 3].map fun q => (s.part.spareCore 0 q, { svc := .retired }) }

theorem wit_SuspectCoresMove :
    (∀ n ∈ [9399999, 9400000],
      let s := suspect {} n
      s.ownerOf 0 = some (0, 0) ∧ (s.core 0).svc = .suspect ∧ s.now - (s.core 0).suspectAt = n
        ∧ (s.ctx 0).state = .ready ∧ (s.ctx 0).subst = [] ∧ (s.ctx 0).holdFor = none ∧ (s.spareQuad 0).isSome = true)
    ∧ ((withStrand {}).ownerOf 0 = some (0, 0) ∧ ((withStrand {}).core 0).svc ≠ .suspect)
    ∧ (let s := suspect { holdFor := some 0 } 9400000
       (s.ctx 0).holdFor = some 0 ∧ s.atRest 0 = true ∧ s.spareQuad 0 = some 0)
    ∧ (∀ l ∈ [[0], [0, 1]], let s := noSpare l
       s.ownerOf 0 = some (0, 0) ∧ s.spareQuad 0 = none ∧ (s.ctx 0).slices = l ∧ (s.ctx 0).holdFor = some 0
        ∧ s.atRest 0 = true ∧ s.part.sliceOf 0 = some 0)
    ∧ (∀ n ∈ [12287, 12288],
       let s := suspect { subst := [(0, 0)] } n
       s.ownerOf 0 = some (0, 0) ∧ ((s.ctx 0).subst.find? fun e => e.1 = 0) = some (0, 0) ∧ s.spareQuad 0 = some 0
        ∧ (s.ctx 0).holdFor = none ∧ (s.ctx 0).heldIncs = []) := by decide +kernel

/-- The spare of quadrant 0 of die 0 takes the core's place with its semaphores. -/
theorem test_substitution :
    let s := after (.substitutionCopyDone 0) (suspect { subst := [(0, 0)] } 12288 { cells := [(5, 4)] })
    (s.ctx 0).grid = [16] ∧ (s.core 16).cells = [(5, 4)] ∧ (s.core 0).svc = .proofing := by decide +kernel

/-- A case of the sampler, or of Check mode, on core 0 and its neighbour 1. -/
def caseOn (checker : Nat) (p q : Nat) (v : Option Nat) : State :=
  { withStrand {} with hub := { arbs := [{ case := 3, checker := checker, ctx := 0, producer := p, checkerCore := q, third := none
                                           t := t0, granules := [2], sealNo := 0, step := 0, verdict := v, captured := []
                                           emulator := none }] } }

/-- A case on a seal, whose context can have a third slice, has none, or may have one by a shrink of context 1. -/
def sealCase (n : Nat) : State :=
  let s := caseOn 1 0xFFFF 0xFFFF none
  let x : Ctx := { s.ctx 0 with state := .faulted, cfg := {} }
  let other : Ctx := { state := .ready, slices := (List.range 15).map (· + 1) }
  { s with ctxs := if n = 0 then [(0, x)] else if n = 1 then [(0, { x with slices := List.range 16 })] else [(0, x), (1, other)] }

theorem wit_ArbitrationDecides :
    (∀ s ∈ [caseOn 0 0 1 (some 0), caseOn 1 0xFFFF 0xFFFF none, caseOn 0 0 1 none],
      (s.hub.arbs.find? fun a => a.case = 3).isSome = true ∧ s.pcore 0 0 = some 0 ∧ (s.thirdCore 0).isSome = true
        ∧ (∀ z ∈ s.hub.arbs, z.case = 3) ∧ (s.strand t0).closing = [] ∧ (s.strand t0).openGroup = none ∧ (s.strand t0).mrun = none
        ∧ (s.core 1).svc = .serving)
    ∧ ((caseOn 1 0xFFFF 0xFFFF none).ctx 0).state.isStopping = false
    ∧ (let s : State := { caseOn 1 0xFFFF 0xFFFF none with ctxs := [(0, { state := .stopping 0 })] }
       (s.ctx 0).state.isStopping = true)
    ∧ ((sealCase 0).thirdSlices 0).isSome = true
    ∧ ((sealCase 1).thirdSlices 0 = none ∧ (sealCase 1).freeThird 0 = none)
    ∧ ((sealCase 2).thirdSlices 0 = none ∧ ((sealCase 2).freeThird 0).isSome = true) := by decide +kernel

theorem test_verdict_frees_poison :
    let s := (caseOn 0 0 1 none).updCore 0 fun k => { k with poison := [(2, true)] }
    let t := after (.arbitrationVerdict 3 .agreesProducer) s
    (t.core 0).poison = [] ∧ (t.core 1).svc = .suspect := by decide +kernel

/-- Core 0 in proofing, suspect at a cycle and released before at cycle 0 or not. -/
def proofing (at_ : Nat) (old : Option Nat) : State :=
  { cores := [(0, { svc := .proofing, suspectAt := at_ })], flash := { released := [(0, old)] } }

/-- Three passes of a setting, good or bad. -/
def passes (n : Nat) (b : Bool) : List ProofPass := List.replicate 3 ⟨n, b, []⟩

/-- Settings 0 to n − 1 failed, and then setting n passed. -/
def provesAt (n : Nat) : List ProofPass := (List.range n).map (fun k => ⟨k, false, []⟩) ++ passes n true

/-- Row 7 of HBM stack 0 is suspect. -/
def badRow : State := { mem := { suspectRows := [(true, ({} : State).rowAt true 0)] } }

theorem wit_ProofingAndRows :
    ((proofing 0 none).core 0).svc = .proofing ∧ (proofing 0 none).hub.arbs = [] ∧ (proofing 0 none).offsetsOn 0 < 4
    ∧ ((proofing 0 none).part.sliceOf 0).isSome = true ∧ (({} : State).core 0).svc ≠ .proofing
    ∧ ((proofing 7309439999999999 (some 0)).core 0).suspectAt - 0 < 7309440000000000
    ∧ ¬((proofing 7309440000000000 (some 0)).core 0).suspectAt - 0 < 7309440000000000
    ∧ (∀ n ∈ [0, 3, 6], ({ proofs := provesAt n } : Core).proofAt 7 0 = (n, true))
    ∧ ({ proofs := [⟨0, true, []⟩] } : Core).proofAt 7 0 = (0, false)
    ∧ (({ proofs := (List.range 7).map fun k => ⟨k, false, []⟩ } : Core).proofAt 7 0).1 = 7
    ∧ (∃ q ∈ provesAt 3, q.setting ≠ 0)
    ∧ (let s := { proofing 0 none with cores := ((List.range 5).map fun k =>
          (k, ({ svc := if k = 0 then .proofing else .released, voff := if k = 0 then 0 else 1 } : Core))) }
       4 ≤ s.offsetsOn 0)
    ∧ clean badRow := by decide +kernel

theorem wit_ProofingAndRows_rows : (true, badRow.rowAt true 0) ∈ badRow.mem.suspectRows
    ∧ (true, ({} : State).rowAt true 0) ∉ ({} : State).mem.suspectRows := ⟨List.mem_singleton_self _, by simp⟩

theorem test_proofing_release :
    (let k := (after (.proofingEnd 0 (provesAt 3)) (proofing 0 none)).core 0
     (k.svc, k.voff, k.foff) = (.released, 3, 0))
    ∧ (let k := (after (.proofingEnd 0 (provesAt 4)) (proofing 0 none)).core 0
       (k.svc, k.voff, k.foff) = (.released, 3, 1))
    ∧ (let k := (after (.proofingEnd 0 ((List.range 7).map fun k => ⟨k, false, []⟩)) (proofing 0 none)).core 0
       k.svc = .retired) := by decide +kernel

/-! ### Fabric -/

/-- A frame from endpoint 0 of context 0 of device 5 to endpoint 3 of context 0 of this device. -/
def fr (typ psn w0 w1 w2 w3 : Nat) : FabFrame :=
  { ver := 1, typ := BitVec.ofNat 8 typ, flags := 0, status := 0, srcdev := 5, dstdev := 0, srcep := 0, dstep := 3, srcctx := 0
    dstctx := 0, epoch := 0, psn := BitVec.ofNat 32 psn, apsn := 0, sack := 0, w0 := BitVec.ofNat 64 w0, w1 := BitVec.ofNat 64 w1
    w2 := BitVec.ofNat 32 w2, w3 := BitVec.ofNat 32 w3, payload := [], mask := 0, crc := 0, ce := false, port := 0 }

/-- The frame as it arrives, with its CRC. -/
def sealed (f : FabFrame) : FabFrame := { f with crc := f.sealed.crc }

/-- Context 0 with that endpoint, on port 0. -/
def net (x : Ctx := {}) (cn : Conn := {}) (k : Core := {}) : State :=
  { withStrand {} k { x with cfg := { x.cfg with endpoints := (granted.cfg.endpoints) }, conns := [(3, cn)] } with
    fab := { ports := [(0, { up := true })] } }

/-- One frame of each command, in the order of the list of frames. -/
def frames : List FabFrame :=
  [fr 1 0 0 0 0 0, fr 1 0 0 (2 ^ 48) 0 0, fr 8 0 0 0 0 0, fr 2 0 0 0 0 0, fr 3 0 0 0 0 0, fr 3 0 0 1 0 0, fr 4 0 0 0 0 0,
   fr 5 0 7 0 0 0, fr 6 0 0 0 0 0, fr 6 0 0x100 0 0 0].map sealed

theorem wit_FabricFrames : ∀ e ∈ fabOps.zip frames,
    e.1.sel e.2 = true ∧ forUs (net) e.2 ∧ (net).epOk e.2 = true ∧ ((net).fport 0).up = true
      ∧ ((net).fport 1).up = false ∧ ({ dport := 4791 } : IpHdr).dport ≠ (net).fab.udp ∧ ({ e.2 with dstdev := 1 } : FabFrame).dstdev ≠ (net).fab.fabdev
      ∧ ((net).ctx 0).conn 3 = {} ∧ (e.2.psn - (({} : Conn).apsn)).toNat < 4096 := by decide +kernel

theorem wit_FabricFrames_bad : ∀ e ∈ fabOps.zip frames,
    ({ e.2 with crc := e.2.crc + 1 } : FabFrame).crcOk = false ∧ (sealed { e.2 with ver := 2 }).crcOk = true := by decide +kernel

theorem wit_FabricFrames_isolated : ∀ e ∈ fabOps.zip frames, let g := sealed { e.2 with dstep := 4 }
    forUs net g ∧ (net).epOk g = false ∧ e.1.sel g = true := by decide +kernel

theorem wit_FabricFrames_beyond : ∀ e ∈ fabOps.zip frames, let f := sealed { e.2 with psn := 4096 }
    forUs net f ∧ (net).epOk f = true ∧ 4096 ≤ (f.psn - ({} : Conn).apsn).toNat
      ∧ (f.psn - ({} : Conn).apsn).toNat < 2 ^ 31 := by decide +kernel

theorem wit_FabricFrames_old : ∀ e ∈ fabOps.zip frames, let f := sealed { e.2 with psn := 0xFFFFFFFF }
    forUs net f ∧ (net).epOk f = true ∧ 2 ^ 31 ≤ (f.psn - ({} : Conn).apsn).toNat := by decide +kernel

/-- Signals and barrier messages are taken; those of collectives and dispatches find no plan; a signal to a core that the
context does not have is answered ISOLATED. -/
theorem wit_FabricFrames_checks :
    (net).fabCheck 0 (fr 5 0 7 0 0 0) = .ok ∧ (net).fabCheck 0 (fr 6 0 0 0 0 0) = .ok ∧ (net).fabCheck 0 (fr 8 0 0 0 0 0) = .ok
    ∧ (net).fabCheck 0 (fr 5 0 0x100 0 0 0) = .isolated ∧ (net).fabCheck 0 (fr 1 0 0 0 0 0) = .planmiss
    ∧ (net).fabCheck 0 (fr 2 0 0 0 0 0) = .planmiss := by decide +kernel

/-- With the plans loaded the messages of collectives and dispatches are taken too; token bytes wait for placement. -/
theorem wit_FabricFrames_plans :
    let s := net plans
    s.fabCheck 0 (fr 1 0 0 0 0 (Plan.check ((s.ctx 0).collPlan 1))) = .ok
      ∧ s.fabCheck 0 (fr 1 0 0 (2 ^ 48) 0 (Plan.check ((s.ctx 0).collPlan 1))) = .ok ∧ s.fabCheck 0 (fr 3 0 0 0 0 0) = .ok
      ∧ s.fabCheck 0 (fr 3 0 0 1 0 0) = .ok ∧ s.fabCheck 0 (fr 4 0 0 0 0 0) = .ok ∧ s.fabCheck 0 (fr 2 0 0 0 0 0) = .busy := by
  decide +kernel

/-- Frames of a PSN below the next expected: a signal is acknowledged again, one to a core that the context does not have
with ISOLATED, and a contribution without its plan with PLANMISS. -/
theorem wit_FabricFrames_again :
    let before (f : FabFrame) : FabFrame := sealed { f with psn := 0xFFFFFFFF }
    (∀ f ∈ [fr 5 0 7 0 0 0, fr 5 0 0x100 0 0 0, fr 1 0 0 0 0 0].map before,
        forUs net f ∧ (net).epOk f = true ∧ ((net).ctx 0).conn 3 = {} ∧ 2 ^ 31 ≤ (f.psn - ({} : Conn).apsn).toNat)
      ∧ (marked net (before (fr 5 0 7 0 0 0))).fabCheck 0 (before (fr 5 0 7 0 0 0)) = .ok
      ∧ (marked net (before (fr 5 0 0x100 0 0 0))).fabCheck 0 (before (fr 5 0 0x100 0 0 0)) = .isolated
      ∧ (marked net (before (fr 1 0 0 0 0 0))).fabCheck 0 (before (fr 1 0 0 0 0 0)) = .planmiss := by decide +kernel

/-- A remote signal adds its increment; the same frame again does not. -/
theorem test_rsig_once :
    let s := after (.rsig (sealed (fr 5 0 (7 + 3 * 2 ^ 16) 0 0 0))) net
    s.sem 0 7 = 3 ∧ (after (.rsig (sealed (fr 5 0 (7 + 3 * 2 ^ 16) 0 0 0))) s).sem 0 7 = 3 := by decide +kernel

/-- A tree barrier of one child, parent at endpoint 3. -/
def treeNet (u : BarUnit) : State :=
  net { units := [(0, u)], cfg := { bars := [(0, BitVec.ofNat 128 (1 + 2 ^ 16 + 2 ^ 24 + 3 * 2 ^ 64))] } }

theorem wit_MessagesAndAcknowledgements :
    (((net).ctx 0).dropsSignal 7 = false ∧ (net).pcore 0 0 = some 0 ∧ ((net).ctx 0).subst = []
      ∧ ((net).ctx 0).dropsSignal 0x100 = true ∧ (net).coreMoves 0 = false ∧ (net { subst := [(0, 1)] }).coreMoves 0 = true
      ∧ ((net { subst := [(0, 1)] }).ctx 0).dropsSignal 7 = false ∧ (net { subst := [(0, 1)] }).pcore 0 0 = some 0)
    ∧ (let s := treeNet {}
       barTree ((s.ctx 0).bar 0) = true ∧ ((s.ctx 0).unit 0).gen = 0 ∧ ((s.ctx 0).unit 0).child.length < barNchild ((s.ctx 0).bar 0))
    ∧ (∀ n ∈ [2, 0xFFFFFFFF], BitVec.ofNat 32 n ≠ (((treeNet {}).ctx 0).unit 0).gen
       ∧ BitVec.ofNat 32 n ≠ (((treeNet {}).ctx 0).unit 0).gen + 1)
    ∧ (let s := treeNet { sent := true }
       barRoot ((s.ctx 0).bar 0) = false ∧ ((s.ctx 0).unit 0).sent = true ∧ barParent ((s.ctx 0).bar 0) = 3
        ∧ ((s.ctx 0).unit 0).trel = none ∧ (s.ctx 0).state = .ready ∧ (0 : U64).toNat ≤ s.aon.tbase.toNat)
    ∧ ((net).ctx 0).colls = [] ∧ ((net).ctx 0).planFor (fr 1 0 0 0 0 0) = none := by decide +kernel

/-- Plan 1 of 2 ranks: an all-reduce of 4 elements with 1 block, or a dispatch; this rank is 0. -/
def plans2 : Ctx :=
  { cfg := { collPlans := [(1, BitVec.ofNat 512 (1 + 2 * 2 ^ 64 + 4 * 2 ^ 192 + 2 ^ 416))]
             dispPlans := [(1, BitVec.ofNat 512 (1 + 2 * 2 ^ 64))] } }

/-- A frame of rank 1 for rank 0 of that plan, with payload and the bits of W3. -/
def planFr (typ w1 w3 : Nat) (payload : List Byte) (flags : Byte := 0) (ranks : Nat := 1) : FabFrame :=
  sealed { fr typ 0 0 w1 ranks w3 with payload := payload, flags := flags }

def collFr (w1 : Nat) : FabFrame := planFr 1 w1 (Plan.check ((plans2).collPlan 1) + 256 * 1) [1, 2]

theorem wit_MessagesReachInstances_coll : ∀ w1 ∈ [1, 1 + 2 ^ 48], let s := net plans2
    let f := collFr w1
    let x := s.ctx 0
    arrives s f ∧ f.dstctx.toNat = 0 ∧ f.typ = 1 ∧ x.planFor f = some 1 ∧ x.collsOf f.collid = [1] ∧ Plan.id (x.collPlan 1) = f.collid
      ∧ x.collNum 1 f.inst = some 0 ∧ Plan.check (x.collPlan 1) = bits f.w3.toNat 0 8 ∧ x.colls = [] ∧ f.elems (x.collPlan 1) ≠ []
      ∧ Plan.op (x.collPlan 1) = 1 ∧ (∀ v ∈ f.elems (x.collPlan 1), x.collRoom 1 0 v.elem = true)
      ∧ f.w1.getLsbD 48 = decide (w1 ≠ 1) := by decide +kernel

/-- R274, R275: element 1 of rank 1 waits at its owner; as a result it waits for a landing. -/
theorem test_coll_messages : let s := net plans2
    ((after (.collContribution ⟨collFr 1, {}⟩) s).ctx 0).colls.map (fun y => (y.vals, y.results)) = [([⟨1, 1, 0x201, 1, false⟩], [])]
      ∧ ((after (.collResult ⟨collFr (1 + 2 ^ 48), {}⟩) s).ctx 0).colls.map (fun y => (y.vals, y.results))
        = [([], [⟨1, 1, 0x201, 1, false⟩])] := by decide +kernel

def openColl1 : CollInst := { collid := 0, plan := 1, num := 0 }
def openDisp1 : DispInst := { dispid := 0, plan := 1, num := 0 }

theorem wit_MessagesReachInstances_abandon :
    (let s := net { plans2 with colls := [openColl1] }
     arrives s (planFr 8 0 0 []) ∧ (planFr 8 0 0 []).w1.getLsbD 0 = false ∧ (s.ctx 0).colls = [openColl1]
      ∧ openColl1.collid.toNat = (planFr 8 0 0 []).collid ∧ openColl1.num % 2 ^ 32 = (planFr 8 0 0 []).inst)
    ∧ (let s := net { plans2 with disps := [openDisp1] }
     arrives s (planFr 8 1 0 []) ∧ (planFr 8 1 0 []).w1.getLsbD 0 = true ∧ (s.ctx 0).disps = [openDisp1]
      ∧ openDisp1.dispid.toNat = (planFr 8 1 0 []).collid ∧ openDisp1.num % 2 ^ 32 = (planFr 8 1 0 []).inst) := by decide +kernel

theorem test_abandon_messages :
    ((after (.abandon (planFr 8 0 0 [])) (net { plans2 with colls := [openColl1] })).ctx 0).colls = []
      ∧ ((after (.abandon (planFr 8 1 0 [])) (net { plans2 with disps := [openDisp1] })).ctx 0).disps
        = [{ openDisp1 with ended := true }] := by decide +kernel

theorem wit_MessagesReachInstances_disp : ∀ f ∈ [planFr 3 0 0 [1, 0, 0, 0, 2, 0, 0, 0] 4, planFr 3 1 0 [] 4 (2 ^ 16), planFr 4 0 0 [7] 0 (2 ^ 16)],
    let s := net plans2
    let x := s.ctx 0
    arrives s f ∧ f.dstctx.toNat = 0 ∧ x.planFor f = some 1 ∧ x.dispsOf f.collid = [1] ∧ Plan.id (x.dispPlan 1) = f.collid
      ∧ 2 ≤ Plan.nrank (x.dispPlan 1) ∧ x.disps = [] ∧ x.dispNum 1 f.inst = some 0 := by decide +kernel

/-- R283, R284: the counts of rank 1, accepted counts of home 1 and an output of home 1 are kept. -/
theorem test_disp_messages : let s := net plans2
    let got (i : Instr) : List DispInst := ((after i s).ctx 0).disps
    got (.dcntCounts ⟨planFr 3 0 0 [1, 0, 0, 0, 2, 0, 0, 0] 4, {}⟩) = [{ openDisp1 with counts := [(1, 1, 2)], ends := [(1, some (3, 0))] }]
      ∧ got (.dcntAccepted ⟨planFr 3 1 0 [1, 0, 0, 0, 2, 0, 0, 0] 0 (2 ^ 16), {}⟩) = [{ openDisp1 with acc := [(1, 1, 2)] }]
      ∧ got (.dcmb ⟨planFr 4 0 0 [7] 0 (2 ^ 16), {}⟩) = [{ openDisp1 with outs := [⟨0, 1, 0, 0, [(7, false)]⟩] }] := by decide +kernel

/-- A home that has placed, whose dispatch is in execution and waits for 3 more bytes. -/
def homeOf : State :=
  let d : DispInst := { openDisp1 with disp := some (t0, 5), begun := true, placed := true, counts := [(1, 0, 3)] }
  let x : Ctx := { plans2 with cfg := { plans2.cfg with dispPlans := [(1, BitVec.ofNat 512 (1 + 2 * 2 ^ 64 + 2 ^ 352 + 2 * 2 ^ 368))] }, disps := [d] }
  (net x).updStream iX fun y => { y with xfers := [{ id := 5, latch := {}, frags := [{ lo := 0, hi := 1 }] }] }

theorem wit_MessagesReachInstances_tokens : let s := homeOf
    let f := planFr 2 0 0 [9]
    arrives s f ∧ f.dstctx.toNat = 0 ∧ (s.ctx 0).planFor f = some 1 ∧ (s.ctx 0).dispsOf f.collid = [1]
      ∧ Plan.id ((s.ctx 0).dispPlan 1) = f.collid ∧ 2 ≤ Plan.nrank ((s.ctx 0).dispPlan 1) ∧ (s.xfer t0 5).isSome = true
      ∧ (match (s.ctx 0).disps with
        | [w] => w.plan = 1 && w.num % 2 ^ 32 == f.inst && w.placed && w.disp == some (t0, 5) && w.begun && !w.dispDone
            && w.waiting.isEmpty && w.comb.isNone && w.accept ((s.ctx 0).dispPlan 1) f.srcRank 0 == 0
            && w.tokGot + f.payload.length != w.tokAll ((s.ctx 0).dispPlan 1)
        | _ => false) = true := by decide +kernel

/-- R285: a token past those accepted is counted. -/
theorem test_dtok_dropped : ((after (.dtok ⟨planFr 2 0 0 [9], {}⟩) homeOf).ctx 0).ctrs.dispdrop = 1
    ∧ ((after (.dtok ⟨planFr 2 0 0 [9], {}⟩) homeOf).ctx 0).disps.map (·.tokRuns) = [[(1, 0, 0, 1)]] := by decide +kernel

/-- A frame of the connection that waits for its acknowledgement. -/
def waitingFrame (d : Option Dep) (retx : Nat) (busy : Bool) : Unacked :=
  { psn := 0, frame := fr 5 0 7 0 0 0, retx := retx, sentAt := 0, lastPort := 0, busy := busy, dep := d, left := true }

/-- An XRSIG in flight. -/
def signalling : State :=
  let s := after (.xrsig t0) { on .x (word 0x64 0 0 0 0 0 (3 * 2 ^ 16)) [] {} granted with fab := { ports := [(0, { up := true })] } }
  s

theorem wit_AcknowledgementsFree :
    (let s := net {} { unacked := [waitingFrame none 0 false] }
     let f := sealed { fr 7 0 0 0 0 0 with apsn := 1 }
     forUs s f ∧ f.typ = 7 ∧ s.epOk f = true ∧ f.status = 0 ∧ ((s.ctx 0).conn 3).unacked = [waitingFrame none 0 false])
    ∧ (let s := signalling
       let f := sealed { fr 7 0 0 0 0 0 with apsn := 1 }
       forUs s f ∧ s.epOk f = true ∧ ((s.ctx 0).conn 3).unacked.length = 1
        ∧ (∀ u ∈ ((s.ctx 0).conn 3).unacked, ackedBy f.apsn f.sack u.psn = true ∧ u.dep.isSome = true)
        ∧ (s.xfer t0 0).any (fun y => Word.opc y.latch.word = 0x64) = true ∧ f.flags.getLsbD 1 = false) := by decide +kernel

theorem test_xrsig_acked : ((after (.fabricAck (sealed { fr 7 0 0 0 0 0 with apsn := 1 })) signalling).stream iX).xfers = [] := by
  decide +kernel

theorem wit_FabricTimersAndInstances :
    (∀ e ∈ [(15039, 0, false), (15040, 0, false), (15040, 9, true), (962560, 8, false)],
      let u := waitingFrame none e.2.1 e.2.2
      let s := { net {} { unacked := [u] } with now := e.1 }
      (((s.ctx 0).conn 3).unacked.take 4096).find? (fun u => u.psn = 0) = some u
        ∧ (decide (s.now - u.sentAt < u.interval) = decide (e.1 = 15039))
        ∧ s.mayLeave 0 u = true ∧ nextPort (s.portsOf ((s.ctx 0).endpoint 3)) u.lastPort = some 0 ∧ (s.ctx 0).colls = [] ∧ (s.ctx 0).disps = [])
    ∧ (∀ n ∈ [1879, 1880], let s := { net {} { owed := 1 } with now := n }
       0 < ((s.ctx 0).conn 3).owed ∧ s.now - ((s.ctx 0).conn 3).owedSince = n
        ∧ pickPort (s.portsOf ((s.ctx 0).endpoint 3)) 0 = some 0)
    ∧ (∀ n ∈ [15039, 15040], let s := { net {} { rate := 999999 } with now := n }
       ((s.ctx 0).conn 3).rate < 1000000 ∧ s.now - ((s.ctx 0).conn 3).echoAt = n)
    ∧ ((net).fport 0).up = true ∧ OtherFrame.arp ≠ .bad
    ∧ (let s : State := { aon := { stage := 7 } }
       7 ≤ s.aon.stage ∧ PortId.fabric 0 ∉ s.mem.inReset ∧ s.pwr.dev ≠ .standby)
    ∧ (∀ n ∈ [1048575, 1048576],
       let s : State := { now := n, ctxs := [(0, { cfg := { set := { wlim := 1 } }
                                                   colls := [{ collid := 0, plan := 0, num := 0, since := some 0 }]
                                                   disps := [{ dispid := 0, plan := 0, num := 0, since := some 0 }] })] }
       (s.ctx 0).colls = [{ collid := 0, plan := 0, num := 0, since := some 0 }]
        ∧ (s.ctx 0).disps = [{ dispid := 0, plan := 0, num := 0, since := some 0 }]
        ∧ (s.ctx 0).cfg.set.wlim.toNat * 1048576 = 1048576 ∧ s.now - 0 = n) := by decide +kernel

/-- A frame that has not left yet stays while its context is faulted. -/
theorem wit_FabricTimers_held :
    let u : Unacked := { waitingFrame none 0 false with left := false }
    let s : State := { (net {} { unacked := [u] }).updCtx 0 (fun x => { x with state := .faulted }) with now := 15040 }
    ((s.ctx 0).conn 3).unacked = [u] ∧ u.psn = 0 ∧ u.interval ≤ s.now - u.sentAt ∧ u.retx < 8 ∧ s.mayLeave 0 u = false := by
  decide +kernel

theorem wit_FabricTimers_other : ((net).fport 1).up = false ∧ (∀ f, OtherFrame.arp ≠ .transport f)
    ∧ ({ fr 9 0 0 0 0 0 with ip := { dport := 4791 } } : FabFrame).ip.dport ≠ (net).fab.udp
    ∧ (fr 9 0 0 0 0 0).ip.dport = (net).fab.udp ∧ ({ fr 9 0 0 0 0 0 with dstdev := 1 } : FabFrame).dstdev ≠ (net).fab.fabdev
    ∧ (fr 9 0 0 0 0 0).dstdev = (net).fab.fabdev ∧ (fr 9 0 0 0 0 0).crcOk = false := by
  refine ⟨?_, fun f => nofun, ?_⟩ <;> decide +kernel

/-! ### The twin link -/

/-- A twin-link frame of a channel, the next in order, with its CRC. -/
def tw (ch aux : Nat) (payload : List Byte := []) : TwinFrame :=
  TwinFrame.sealed ⟨1, BitVec.ofNat 8 ch, 0, 0, BitVec.ofNat 64 aux, payload, 0, 0⟩

/-- A paired device; its buddy region is DDR5 unit 0. -/
def pairNet (w : Twin := {}) (x : Ctx := {}) : State :=
  { ctxs := [(0, { x with state := .ready })], twin := { w with up := true, paired := true, region := [0] } }

theorem wit_TwinFrames : ∀ op ∈ twinOps,
    let f := tw op.chan.toNat 0
    twinGood (pairNet) f op.chan ∧ (pairNet).twin.unacked = [] ∧ f.seq = (pairNet).twin.rxSeq
      ∧ twinGood { (pairNet) with twin := { up := true } } f op.chan ∧ ({} : State).twin.up = false
      ∧ ({ f with crc := f.crc + 1 } : TwinFrame).crcOk = false ∧ ({ f with ver := 2 } : TwinFrame).ver ≠ 1
      ∧ 9 ≤ ({ f with chan := 9 } : TwinFrame).chan.toNat
      ∧ (let g := TwinFrame.sealed { f with seq := 1 }
         twinGood (pairNet) g op.chan ∧ g.seq ≠ (pairNet).twin.rxSeq) := by decide +kernel

/-- Seal 0 of step 4 is this device's, of a couple of contexts 0. -/
def couple : State :=
  pairNet { mode := 2 } { cfg := { set := { partner := some 0 } }, sealsMine := [(4, 0, [1, 2])] }

/-- A remote signal over the twin link, to semaphore 7 of context 0 through endpoint 3. -/
def twinSignal : TwinFrame := tw 5 (2 ^ 16)
  ([1, 5] ++ zeros 12 ++ leBytes 2 3 ++ zeros 24 ++ leBytes 8 (7 + 3 * 2 ^ 16) ++ zeros 16)

/-- The same device with that endpoint granted over the twin link. -/
def twinNet : State :=
  { withStrand {} {} { cfg := { endpoints := [(3, BitVec.ofNat 256 (2 ^ 180 + 2 ^ 181))] } } with twin := (pairNet).twin }

/-- A channel from the twin to steward 0, which works. -/
def twinChan (l : List Msg) : State :=
  { (pairNet) with hub := { bind := [(0, BitVec.ofNat 16 (12 + 32 * 8 + 1024))], stew0 := .working, chans := [(0, { slots := l })] } }

def ping : Msg := ⟨0x0101, 0, 0, 9, 0, 0, []⟩

theorem wit_TwinFrames_effects :
    (∀ n ∈ [1, 4096], (clean (pairNet) ∧ fld (tw 2 0 (leBytes 4 n)).payload 0 4 = n
      ∧ ((pairNet).twin.regionOfs (0 + n - 1)).isSome = true ∧ (pairNet).twin.waiting = [])
      ∧ twinGood (pairNet) (tw 2 0 (leBytes 4 n)) 2)
    ∧ (tw 1 0 [1, 2]).payload.length ≤ 4096 ∧ (pairNet).aon.imageWait = none
    ∧ (∀ c, c < 16 → ((pairNet).ctx c).disps = [])
    ∧ ({ (pairNet) with aon := { tsource := 0 } } : State).aon.tsource = 0 ∧ (pairNet).aon.tsource ≠ 0
    ∧ (∀ p ∈ [([1, 2], true), ([1, 3], false)],
       let f := tw 4 (2 ^ 48) p.1
       twinGood couple f 4 ∧ bits f.aux.toNat 32 16 = 0 ∧ f.aux.getLsbD 48 = true ∧ couple.partnerOf 0 = some 0
        ∧ couple.compares 0 = true ∧ (couple.ctx 0).sealsPeer = []
        ∧ ((couple.ctx 0).sealsMine.find? fun e => e.2.1 = bits f.aux.toNat 16 16) = some (4, 0, [1, 2])
        ∧ (decide ([1, 2] = f.payload) = p.2) ∧ (couple.ctx 0).state = .ready) := by decide +kernel

theorem wit_TwinFrames_messages :
    (let f := twinSignal
       let g := fabOf f.payload 0
       twinGood twinNet f 5 ∧ bits f.aux.toNat 0 16 = 0 ∧ f.aux.getLsbD 16 = true ∧ g.ver = 1 ∧ g.typ = 5
        ∧ twinNet.epTwinOk g = true ∧ (twinNet.ctx 0).dropsSignal (bits g.w0.toNat 0 16) = false)
    ∧ (∀ n ∈ [0, 8], let s := twinChan (List.replicate n ping)
       let f := tw 7 0 (Msg.bytes ping)
       twinGood s f 7 ∧ 16 ≤ f.payload.length ∧ s.twinChanIn = some 0 ∧ ((Msg.parse f.payload).cmd.toNat < 0x1001 ∨ 0x100A < (Msg.parse f.payload).cmd.toNat)
        ∧ s.recvState (bindDst (s.bind 0)) = 0 ∧ (s.chan 0).slots.length = n)
    ∧ (twinGood (pairNet) (tw 8 0) 8 ∧ (pairNet).twin.mode = 0 ∧ ∀ c, c < 16 → ((pairNet).ctx c).ckpt.copying = none
        ∧ ∀ e ∈ ((pairNet).ctx c).cfg.endpoints, epTwin e.2 = false) := by
  decide +kernel

theorem test_twin_signal : (after (.twinFabFrame ⟨twinSignal, {}⟩) twinNet).sem 0 7 = 3 := by decide +kernel

/-- A frame that the twin has not acknowledged. -/
def unackedAt (r n : Nat) : State :=
  { now := n, twin := { up := true, rounds := r, unacked := [⟨0, 1, 0, [], 0, none⟩] } }

theorem wit_TwinTimers :
    (∀ e ∈ [(0, 2819), (15, 2820), (16, 2820)], let s := unackedAt e.1 e.2
      s.twin.up = true ∧ s.twin.unacked ≠ [] ∧ s.now - s.twin.progressAt = e.2 ∧ s.twin.rounds = e.1
        ∧ s.twin.waiting = [] ∧ ∀ u ∈ s.twin.unacked, u.dep = none)
    ∧ (∀ n ∈ [939, 940, 9399, 9400], let s := { (pairNet) with now := n }
       s.twin.up = true ∧ s.twin.paired = true ∧ s.twin.silent = false ∧ s.now - s.twin.lastTx = n ∧ s.now - s.twin.lastRx = n
        ∧ s.aon.tsource ≠ 0 ∧ ({ s with aon := { tsource := 0 } } : State).aon.tsource = 0 ∧ s.twin.unacked = [] ∧ s.twin.waiting = [])
    ∧ (let s : State := { aon := { stage := 7 } }
       s.twin.up = false ∧ PortId.twin ∉ s.mem.inReset ∧ s.pwr.dev ≠ .standby ∧ 7 ≤ s.aon.stage ∧ s.aon.imageWait = none
        ∧ s.aon.twinRstEnable = false ∧ s.aon.stage ≠ 0)
    ∧ ({ aon := { stage := 7, twinRstEnable := true } } : State).aon.twinRstEnable = true := by decide +kernel

/-! ### Host ports -/

/-- A host frame of session 0 from address 10.0.0.1, port 7, with its CRC. -/
def hf (ty ch word : Nat) (payload : List Byte := []) : HostFrame :=
  HostFrame.sealed
    { ver := 1, typ := BitVec.ofNat 8 ty, sess := 0, flags := 0, cookie := 0, seq := 0, aseq := 0, sack := 0, chan := BitVec.ofNat 8 ch
      status := 0, word := BitVec.ofNat 32 word, payload := payload, crc := 0, addr := 0xFFFF0A000001, udp := 7, port := 0 }

/-- Session 0 open on host port 0; channel 0 from it to steward 0 and channel 1 back. -/
def hostNet (x : Session := {}) (l : List Msg := []) : State :=
  { hub := { port0 := { rate := 800 }, stew0 := .working, sessions := [(0, { x with opened := true })]
             bind := [(0, BitVec.ofNat 16 (0 + 32 * 8 + 1024)), (1, BitVec.ofNat 16 (8 + 32 * 0 + 1024))]
             chans := [(0, { slots := l })] } }

/-- A bulk port that writes rows of 2 bytes to staging from byte 0 to 67,108,863. -/
def bport2 : BulkPort := { space := 3, rowlen := 2, wlim := 67108864 }

theorem wit_HostFrames : ∀ op ∈ hostOps ++ [(.open_, 1), (.prove, 3)],
    let f := hf op.2.toNat 0 0
    let s := hostNet
    s.hostUp f.port = true ∧ s.pwr.dev ≠ .standby ∧ hostGood s f op.2 ∧ ({} : State).hostUp 0 = false
      ∧ ({ f with crc := f.crc + 1 } : HostFrame).crcOk = false ∧ (HostFrame.sealed { f with ver := 2 }).crcOk = true
      ∧ ({ f with ip := { dport := 4791 } } : HostFrame).ip.dport ≠ s.hub.udp
      ∧ (s.session 0).opened = true ∧ (s.session 1).opened = false
      ∧ (let g := HostFrame.sealed { f with cookie := 1 }
         hostGood s g op.2 ∧ g.cookie ≠ (s.session 0).cookie) := by decide +kernel

theorem wit_HostFrames_effects :
    inTurn hostNet (hf 6 0 0)
    ∧ (∀ n ∈ [0, 8], let s := hostNet {} (List.replicate n ping)
       let f := hf 8 0 0 (Msg.bytes ping)
       hostGood s f 8 ∧ inTurn s f ∧ bindValid (s.bind 0) = true ∧ bindSrc (s.bind 0) = 0 ∧ 16 ≤ f.payload.length
        ∧ f.payload.length = 16 + fld f.payload 10 2 ∧ bindDst (s.bind 0) = 8 ∧ s.recvState 8 = 0 ∧ (s.chan 0).slots.length = n)
    ∧ (bindValid ((hostNet).bind 1) = true ∧ bindDst ((hostNet).bind 1) = 0)
    ∧ (∀ a ∈ [0, 67108862], let s := hostNet { ports := [(0, bport2)] }
       let f := hf 0x0C 0 0 (leBytes 8 a ++ zeros 24 ++ [1, 2])
       let p := s.bport 0 0
       hostGood s f 0x0C ∧ 32 < f.payload.length ∧ p.space = 3 ∧ p.rowlen.toNat = (f.payload.drop 32).length
        ∧ fld f.payload 0 8 = a ∧ p.wbase.toNat ≤ a ∧ a + 2 ≤ p.wbase.toNat + p.wlim.toNat
        ∧ (let g := hf 0x0D 0 0 (leBytes 8 a ++ leBytes 4 2 ++ zeros 4)
           hostGood s g 0x0D ∧ g.payload.length = 16 ∧ fld g.payload 8 4 = 2 ∧ (s.session 0).stgPoison = [])) := by decide +kernel

theorem test_msg_stored : ((after (.msg (hf 8 0 0 (Msg.bytes ping))) hostNet).chan 0).slots = [ping] := by decide +kernel

/-- The generator as a host's key, and its signature over the answer to nonce 5 of session 2. -/
def hostKey : List Byte := ecPoint ecG
def proof5 : HostFrame := hf 3 0 0
  (leBytes 48 15262322533881564085994910157748225661696025360381143865045244157448109147454497684986843651714999249680404966471133
    ++ leBytes 48 15998273195496550683037756193758328982836178958984595116173273734607706161389370292191749704361251486466506485005272
    ++ hostKey)

/-- Session 2 challenged with nonce 5. -/
def challenged : State :=
  { hub := { port0 := { rate := 800 }, sessions := [(2, { nonce := some 5, hkey := BitVec.ofNat 384 (leNat (sha384 hostKey)) })] } }

theorem wit_HostSessions_prove :
    hostGood challenged proof5 3 ∧ hostGood challenged { proof5 with udp := 8 } 3 ∧ proof5.payload.length = 193 ∧ (challenged.session 2).nonce = some 5
      ∧ (∀ j, j < 8 → j ≠ 2 → (challenged.session j).nonce = none) ∧ (challenged.session 2).opened = false
      ∧ ecParse ((proof5.payload.drop 96).take 97) = some ecG
      ∧ leNat (sha384 ((proof5.payload.drop 96).take 97)) = (challenged.session 2).hkey.toNat
      ∧ ecVerify ecG (proofBytes 5 2 proof5) (fld proof5.payload 0 48) (fld proof5.payload 48 48) = true
      ∧ ecVerify ecG (proofBytes 5 2 { proof5 with udp := 8 }) (fld proof5.payload 0 48) (fld proof5.payload 48 48) = false := by
  decide +kernel

/-- A MSG frame of session 0 that the host has not acknowledged. -/
def hostWaiting (retx n : Nat) (ty : Byte := 8) : State :=
  { hostNet { unacked := [⟨0, ty, 0, 0, 0, [], retx, 0⟩] } with now := n }

theorem wit_HostSessions :
    (hostGood hostNet (hf 1 0 1) 1 ∧ ((hostNet).session 1).hkey = 0 ∧ ((hostNet).session 1).opened = false
      ∧ (challenged.session 2).hkey ≠ 0)
    ∧ (let s := hostWaiting 0 0 6
       hostGood s (hf 7 0 0) 7 ∧ (s.session 0).opened = true ∧ (s.session 0).unacked.length ≤ 512
        ∧ ∀ u ∈ (s.session 0).unacked, u.typ ≠ 0x08 ∧ u.typ ≠ 0x0B)
    ∧ (∀ e ∈ [(0, 187999), (0, 188000), (11, 12032000), (12, 12032000)], let s := hostWaiting e.1 e.2
       ((s.session 0).unacked.take 512).find? (fun u => u.seq = 0) = some ⟨0, 8, 0, 0, 0, [], e.1, 0⟩
        ∧ (s.session 0).opened = true ∧ (decide (min 12800 (200 * 2 ^ e.1) * 940 ≤ s.now) = decide (e.2 ≠ 187999)))
    ∧ (∀ n ∈ [9399, 9400], let s := { hostNet { owed := 1 } with now := n }
       0 < (s.session 0).owed ∧ s.now - (s.session 0).owedSince = n)
    ∧ (∀ n ∈ [4699999999, 4700000000], let s := { hostNet with now := n }
       (s.session 0).opened = true ∧ (s.session 0).timeout * 940000000 = 4700000000 ∧ s.now - (s.session 0).lastRx = n)
    ∧ (hostNet).hostUp 0 = true ∧ 6 ≤ ({ aon := { stage := 6 } } : State).aon.stage := by decide +kernel

/-! ### Mailboxes, registers, stewards -/

/-- Channel 0 from Hokunuon's context identity 0 to steward 0, channel 1 back, and channel 2 from session 0 to context 0. -/
def mailNet (l : List Msg := []) (st : StewState := .working) : State :=
  { hub := { stew0 := st, bind := [(0, BitVec.ofNat 16 (16 + 32 * 8 + 1024)), (2, BitVec.ofNat 16 (0 + 32 * 16 + 1024))]
             chans := [(0, { slots := l }), (2, { slots := l })], sessions := [(0, { opened := true })] } }

/-- QUERY.BIND as a request. -/
def askBind : Msg := ⟨0x0103, 0, 0, 9, 0, 0, []⟩

theorem wit_ChannelsAndRegisters :
    (∀ n ∈ [0, 7, 8], let s := mailNet (List.replicate n ping)
      bindValid (s.bind 0) = true ∧ bindSrc (s.bind 0) = 16 ∧ bindDst (s.bind 0) = 8 ∧ s.recvState 8 = 0
        ∧ (s.chan 0).slots.length = n)
    ∧ (2 ≤ (mailNet [] (.inReset 0)).recvState 8)
    ∧ (let s := { mailNet with hub := { (mailNet).hub with chans := [(2, { slots := [askBind, ping] })]
                                                           bind := [(2, BitVec.ofNat 16 (0 + 32 * 8 + 1024))] } }
       (s.chan 2).slots = [askBind, ping] ∧ s.attended 2 = true ∧ (s.chan 2).req = none ∧ s.hub.outbox = []
        ∧ s.refuse 2 askBind = none
        ∧ (let t : State := { s with hub := { s.hub with chans := [(2, { req := some ping })] } }
           (t.chan 2).req.isSome = true ∧ bindDst (t.bind 2) < 12))
    ∧ (∀ st ∈ [StewState.working, .asleep, .standby], let s := mailNet [] st
       bindValid (s.bind 0) = true ∧ s.recvState (bindDst (s.bind 0)) < 2 ∧ 8 ≤ bindSrc (s.bind 0))
    ∧ (mailNet).hub.lock = false ∧ ({ hub := { lock := true } } : State).hub.lock = true := by decide +kernel

theorem test_doorbell : ((after (.dbClear 0 3 2) { mailNet with hub := { (mailNet).hub with chans := [(0, { db := 7 })] } }).chan 0).db
    = 6 := by decide +kernel

theorem test_bind_locked :
    (after (.registerWrite (.bind 5) 0xFFFF) {}).bind 5 = 0x7FF
      ∧ (after (.registerWrite (.bind 5) 0xFFFF) { hub := { lock := true } }).bind 5 = 0 := by decide +kernel

theorem wit_StewardsTakeOver :
    (let s := mailNet
     let t : State := { s with hub := { s.hub with stew1 := .standby } }
     stewGet t.hub 0 = .working ∧ stewGet t.hub 1 = .standby ∧ t.hub.journal = [])
    ∧ (∀ n ∈ [93999, 94000], let s : State := { now := n, aon := { stage := 4 } }
       stewGet s.hub 0 = .inReset 0 ∧ s.now - 0 = n ∧ 4 ≤ s.aon.stage)
    ∧ (∀ st ∈ [StewState.waking, .asleep, .working], stewGet (mailNet [] st).hub 0 = st) := by decide +kernel

theorem test_sibling_serves :
    (after (.watchdogExpiry 0 []) { mailNet with hub := { (mailNet).hub with stew1 := .standby } }).hub.server 0 = 1 := by
  decide +kernel

/-! ### Requests -/

/-- A request of session 0 to context 0, or to steward 0, that its channel has taken; the answer goes by channel 1. -/
def reqMsg (code : Nat) (pl : List Byte) : Msg := ⟨BitVec.ofNat 16 code, 0, 0, 9, 0, 0, pl⟩
def asking (dst code : Nat) (pl : List Byte) (s : State) (x : Session := {}) (req : Bool := true) : State :=
  { s with hub := { s.hub with
      stew0 := .working, bind := [(0, BitVec.ofNat 16 (0 + 32 * dst + 1024)), (1, BitVec.ofNat 16 (dst + 32 * 0 + 1024))]
      chans := if req then [(0, { req := some (reqMsg code pl) })] else [], sessions := [(0, { x with opened := true })] } }

/-- To context 0, whose partition is HBM unit 0 and DDR5 unit 0, or to the device. -/
def own0 : Ctx := { hbmUnits := [0], ddrUnits := [0] }
def reqOn (code : Nat) (pl : List Byte) (x : Ctx := own0) (y : Strand := {}) : State := asking 16 code pl (withStrand y {} x)
def reqDev (code : Nat) (pl : List Byte) (s : State := {}) : State := asking 8 code pl s

theorem wit_RequestsAreChecked : ∀ op ∈ requests,
    let s := if op.2.2.2 then reqOn op.2.1 (zeros op.2.2.1) else reqDev op.2.1 (zeros op.2.2.1)
    asks s 0 (reqMsg op.2.1 (zeros op.2.2.1)) op.2.1 op.2.2.1 ∧ (s.chan 1).req = none
      ∧ (op.2.2.2 = true → asksCtx s 0 (reqMsg op.2.1 (zeros op.2.2.1)) op.2.1 op.2.2.1)
      ∧ ((reqDev 0 []).chan 0).req = some (reqMsg 0 []) ∧ (reqMsg 0 []).cmd.toNat ≠ op.2.1
      ∧ (let t := reqDev op.2.1 (zeros 13)
         (t.chan 0).req = some (reqMsg op.2.1 (zeros 13)) ∧ t.attended 0 = true ∧ (zeros 13).length ≠ op.2.2.1)
      ∧ (let t := asking 16 op.2.1 (zeros op.2.2.1) {}
         asks t 0 (reqMsg op.2.1 (zeros op.2.2.1)) op.2.1 op.2.2.1 ∧ t.exists_ (t.reqCtx 0) = false) := by decide +kernel

/-- A long command of its own under way. -/
def longOne : Dagger := ⟨0, 9, 0x020A, 0, 0, false⟩

theorem wit_RequestsAreChecked_busy :
    (let s := reqOn 0x0207 [] { own0 with dagger := some longOne }
     asks s 0 (reqMsg 0x0207 []) 0x0207 0 ∧ s.exists_ (s.reqCtx 0) = true ∧ (s.ctx (s.reqCtx 0)).dagger.isSome = true
      ∧ changesState (reqMsg 0x0207 []) = true)
    ∧ (let s := reqDev 0x0603 []
       ({ s with hub := { s.hub with dagger := some longOne } } : State).hub.dagger.isSome = true)
    ∧ (let s := reqDev 0x0103 []
       s.findChan (bindDst (s.bind 0)) (bindSrc (s.bind 0)) = some 1 ∧ bindSrc (s.bind 0) < 8
        ∧ (s.session (bindSrc (s.bind 0))).opened = true ∧ s.hub.outbox = [] ∧ (s.chan 1).slots.length < 8) := by decide +kernel

theorem test_query_bind : ((after (.queryBind 0) (reqDev 0x0103 [])).chan 1).slots.map (fun m => (m.kind, m.status, m.tag, m.payload.length))
    = [(1, 0, 9, 129)] := by decide +kernel

/-- A case that was not decided. -/
def openCase : Arb :=
  { case := 3, checker := 1, ctx := 0, producer := 0xFFFF, checkerCore := 0xFFFF, third := none, t := t0, granules := []
    sealNo := 0, step := 0, verdict := some 3, captured := [1, 2], emulator := none }

theorem wit_RequestsRead :
    (∀ e ∈ [(0x0101, 9216), (0x0102, 272)], let p := leBytes 4 (67108864 - e.2)
      asks (reqDev e.1 p) 0 (reqMsg e.1 p) e.1 4 ∧ fld p 0 4 + e.2 ≤ 67108864)
    ∧ (let s := reqDev 0x0B03 (zeros 8)
       asks s 0 (reqMsg 0x0B03 (zeros 8)) 0x0B03 8 ∧ s.hub.cper.flatMap s.cperBytes = [])
    ∧ (∀ v ∈ [0, 1], let p := zeros 8 ++ leBytes 8 3 ++ [BitVec.ofNat 8 v]
       let s := reqDev 0x0B04 p { hub := { arbs := [openCase] } }
       asks s 0 (reqMsg 0x0B04 p) 0x0B04 17 ∧ s.hub.arbs = [openCase] ∧ openCase.case = fld p 8 8
        ∧ openCase.verdict.any (fun v => 2 ≤ v) = true ∧ fld p 16 1 = v ∧ fld p 0 4 + openCase.bundle.length ≤ 67108864
        ∧ fld p 0 4 + openCase.partLen ≤ 67108864 ∧ (reqDev 0x0B04 p).hub.arbs = [])
    ∧ (∀ e ∈ [(0x0203, 262400), (0x0503, 24), (0x0804, 2048)], let p := leBytes 4 (67108864 - e.2)
       asksCtx (reqOn e.1 p) 0 (reqMsg e.1 p) e.1 4 ∧ fld p 0 4 + e.2 ≤ 67108864 ∧ ((reqOn e.1 p).ctx 0).grid.length = 1)
    ∧ (∀ e ∈ [(0x0803, 0), (0x0803, 1), (0x0B02, 0), (0x0B02, 1)], let p := zeros 4 ++ [BitVec.ofNat 8 e.2]
       let s := reqOn e.1 p
       asksCtx s 0 (reqMsg e.1 p) e.1 5 ∧ fld p 4 1 = e.2 ∧ (s.ctx 0).glog = [] ∧ (s.ctx 0).xlog = [])
    ∧ (asksCtx (reqOn 0x0B01 (zeros 4)) 0 (reqMsg 0x0B01 (zeros 4)) 0x0B01 4)
    ∧ (let p := zeros 4 ++ [3]
       asksCtx (reqOn 0x0705 p) 0 (reqMsg 0x0705 p) 0x0705 5 ∧ 3 ≤ fld p 4 1 ∧ fld p 4 1 ≤ 5) := by decide +kernel

theorem wit_RequestsRead_device :
    (∀ o ∈ [0, 67108863], asks (reqDev 0x0802 (leBytes 4 o)) 0 (reqMsg 0x0802 (leBytes 4 o)) 0x0802 4)
    ∧ (let s := reqDev 0x0802 (leBytes 4 0)
       0 + s.devRecords.length ≤ 67108864)
    ∧ (let s := reqDev 0x0802 (leBytes 4 67108863)
       67108864 < 67108863 + s.devRecords.length) := by
  refine ⟨by decide +kernel, ?_, ?_⟩ <;> simp [devRecords_length]

/-- A report that is signed, and one that is not. -/
theorem wit_RequestsRead_report : ∀ b ∈ [true, false], let p := zeros 56
    let s : State := reqDev 0x0A01 p { part := { lcpos := 1 }, vault := { valid := b } }
    asks s 0 (reqMsg 0x0A01 p) 0x0A01 56 ∧ s.signsReports = b ∧ (s.report (slice p 8 48)).length = 448 := by decide +kernel

theorem wit_RequestsRead_certs : let s := reqDev 0x0A02 (zeros 4)
    asks s 0 (reqMsg 0x0A02 (zeros 4)) 0x0A02 4 ∧ s.certs.length = 0 := by decide +kernel

/-! ### Requests that write -/

/-- A creation with one slice: no barriers, one generation, no partner. -/
def create (slices hbm : Nat) : List Byte :=
  zeros 2 ++ [BitVec.ofNat 8 slices, 0, BitVec.ofNat 8 hbm] ++ zeros 30 ++ [0xFF, 0xFF, 0xFF, 0, 0, 0, 1, 0, 0, 0, 0, 0xFF] ++ zeros 193

theorem wit_CtxCreate :
    (let s := asking 16 0x0201 (create 1 1) {}
     asks s 0 (reqMsg 0x0201 (create 1 1)) 0x0201 240 ∧ s.exists_ (s.reqCtx 0) = false ∧ s.aon.zeroing = false
      ∧ badField (create 1 1) = none ∧ s.modeConflict (settingsOf (create 1 1)) = none
      ∧ (match s.formCtx (create 1 1) with
        | .inr _ => true
        | .inl _ => false) = true)
    ∧ badField (create 17 1) = some 2 ∧ badField (create 0 1) = some 2
    ∧ (let s : State := { twin := { mode := 3, isSpare := true } }
       s.modeConflict (settingsOf (create 1 1)) = some 1)
    ∧ (let s := asking 16 0x0201 (create 1 1) { hub := { withheld := List.range 16 } }
       (match ({ s with hub := { s.hub with withheld := List.range 16 } } : State).formCtx (create 1 1) with
        | .inl n => n
        | .inr _ => 99) = 0) := by decide +kernel

/-- A running stream in strand 0. -/
def busy : Strand := { m := { state := .running } }

theorem wit_RequestsWrite :
    ((reqOn 0x0202 []).quiet 0 = true ∧ (reqOn 0x0202 [] own0 busy).quiet 0 = false ∧ ((reqOn 0x0202 []).ctx 0).colls = []
      ∧ ((reqOn 0x0202 []).ctx 0).disps = [] ∧ ((reqOn 0x0202 []).ctx 0).ckpt.copying = none ∧ (reqOn 0x0202 []).hub.clearing = [])
    ∧ (∀ c ∈ [0x0202, 0x0207, 0x020D, 0x0402], asksCtx (reqOn c []) 0 (reqMsg c []) c 0)
    ∧ (let p := zeros 4 ++ leBytes 4 37392
       asksCtx (reqOn 0x0204 p) 0 (reqMsg 0x0204 p) 0x0204 8 ∧ fld p 4 4 = 37392 ∧ fld p 0 4 + 37392 ≤ 67108864)
    ∧ (asksCtx (reqOn 0x0205 (zeros 4)) 0 (reqMsg 0x0205 (zeros 4)) 0x0205 4) := by decide +kernel

theorem wit_RequestsWrite_plans :
    ∀ e ∈ [(5, 0, 0), (0, 8191, 1), (1, 65535, 1), (2, 4096, 1), (2, 4095, 1), (3, 4095, 1)],
      let p := zeros 4 ++ [BitVec.ofNat 8 e.1, 0, 0, 0] ++ leBytes 4 e.2.1 ++ leBytes 4 e.2.2
      asksCtx (reqOn 0x0206 p) 0 (reqMsg 0x0206 p) 0x0206 16 ∧ fld p 4 1 = e.1 ∧ fld p 8 4 = e.2.1 ∧ fld p 12 4 = e.2.2 := by
  decide +kernel

theorem wit_RequestsWrite_settings :
    (∀ n ∈ [0, 255, 256], let p := leBytes 2 n ++ zeros 2 ++ leBytes 4 7
       asksCtx (reqOn 0x0208 p) 0 (reqMsg 0x0208 p) 0x0208 8 ∧ fld p 0 2 = n ∧ ((reqOn 0x0208 p).ctx 0).hasSem n = decide (n ≠ 256)
        ∧ (reqOn 0x0208 p own0 busy).quiet 0 = false ∧ (reqOn 0x0208 p).quiet 0 = true)
    ∧ (∀ n ∈ [0, 1, 16, 17], let p := leBytes 2 5 ++ [BitVec.ofNat 8 n]
       asksCtx (reqOn 0x0209 p) 0 (reqMsg 0x0209 p) 0x0209 3 ∧ fld p 2 1 = n ∧ ((reqOn 0x0209 p).ctx 0).hasSem 5 = true)
    ∧ (∀ n ∈ [7, 8], let p := [BitVec.ofNat 8 n]
       asksCtx (reqOn 0x020C p) 0 (reqMsg 0x020C p) 0x020C 1 ∧ fld p 0 1 = n) := by decide +kernel

/-- Plans that load: an all-reduce and a dispatch of one rank; and some that do not. -/
theorem wit_Plans :
    let x : Ctx := { own0 with stageUnits := [0], cfg := { rankmap := [(0, 0x8000)] } }
    x.collOk 0 = true ∧ x.collOk 9 = false ∧ x.dispOk 0 = true ∧ x.dispOk 9 = false
      ∧ collBits (fld (Memory.readN [] 0 64) 0 64) = 0 ∧ dispBits (fld (Memory.readN [⟨0, 9⟩] 0 64) 0 64) = 9
      ∧ collBits (fld (Memory.readN [⟨0, 9⟩] 0 64) 0 64) = 9 := by decide +kernel

theorem wit_Plans_endpoints : ∀ e, (((reqOn 0x0206 (zeros 16)).ctx 0).conn e).unacked = [] := fun _ => rfl

theorem readN_empty_eq (n : Nat) : ∀ a, Memory.readN [] a n = zeros n := by
  induction n with
  | zero => intro a; rfl
  | succ n ih =>
    intro a
    simp only [Memory.readN, ih (a + 1)]
    rfl

theorem leNat_zeros_eq (n : Nat) : leNat (zeros n) = 0 := by
  induction n with
  | zero => rfl
  | succ n ih =>
    have h : zeros (n + 1) = 0 :: zeros n := rfl
    simp only [h, leNat, ih]
    rfl

theorem fld_zeros_eq (n o k : Nat) : fld (zeros n) o k = 0 := by
  have h : ((zeros n).drop o).take k = zeros (min k (n - o)) := by simp [zeros]
  simp only [fld, h, leNat_zeros_eq]

/-- A table image of zeros loads; one whose first entry has reserved CLASS 3 does not. -/
theorem wit_CtxTables : imageBad ((reqOn 0x0204 []).stgRead 0 0 37392) = none := by
  have h : (reqOn 0x0204 []).stgRead 0 0 37392 = zeros 37392 := readN_empty_eq _ _
  rw [h]
  simp only [imageBad, fld_zeros_eq]
  rw [List.find?_eq_none]
  intro o _
  decide

/-- No semaphore of a fresh device has had an increment in this cycle. -/
theorem wit_Setsem : ∀ p, (({ reqOn 0x0208 (zeros 8) with now := 1 } : State).core p).incCycle ≠ ({ reqOn 0x0208 (zeros 8) with now := 1 } : State).now := by
  intro p
  simp only [State.core, SMap.get, reqOn, asking, withStrand]
  split <;> decide

theorem wit_CtxTables_bad : (imageBad ([0, 0, 0, 3] ++ zeros 37388)) = some 0 := by decide +kernel

/-! ### Requests on memory, programs and strands -/

theorem wit_MemBport :
    (∀ e ∈ [(15, 0), (16, 0), (3, 1)], let p := [BitVec.ofNat 8 e.1] ++ zeros 7 ++ [BitVec.ofNat 8 e.2] ++ zeros 39
      asks (reqOn 0x0301 p) 0 (reqMsg 0x0301 p) 0x0301 48 ∧ fld p 0 1 = e.1 ∧ (bportOf (slice p 8 40)).space.toNat = e.2)
    ∧ (reqOn 0x0301 []).bound 0 0 = true
    ∧ (let p := zeros 8 ++ [1 + 16 * 3] ++ zeros 39
       (bportOf (slice p 8 40)).space = 1 ∧ (reqOn 0x0301 p).bound 0 (bportOf (slice p 8 40)).ctx.toNat = false) := by decide +kernel

theorem wit_MemZero :
    (∀ e ∈ [(0, 256), (0x100000000000, 16), (0, 0x100000000001), (0, 0x400000001), (0x2FFFFFFFFFFF, 1)],
      let p := leBytes 8 e.1 ++ leBytes 8 e.2
      asksCtx (reqOn 0x0302 p) 0 (reqMsg 0x0302 p) 0x0302 16 ∧ fld p 0 8 = e.1 ∧ fld p 8 8 = e.2)
    ∧ clean (reqOn 0x0302 []) ∧ (reqOn 0x0302 []).mem.inReset = [] ∧ (reqOn 0x0302 []).mem.isolated = []
    ∧ (let at_ (a : Nat) : Option Place := ((reqOn 0x0302 []).spot 0 a).map Spot.place
       at_ 0 = some .hbm ∧ at_ 255 = some .hbm ∧ at_ 0x100000000000 = some .ddr ∧ at_ 0x400000000 = none
        ∧ at_ 0x2FFFFFFFFFFF = none) := by decide +kernel

/-- An image without code for 16 virtual cores, and a load list whose one entry is it. -/
def imageOf (vc : Nat) : List Byte :=
  leBytes 4 0x4D595049 ++ leBytes 2 1 ++ [1, 0] ++ zeros 8 ++ leBytes 8 0x5C0 ++ leBytes 2 vc ++ leBytes 2 vc ++ zeros 4
    ++ leBytes 4 0x1C0 ++ leBytes 4 0x1C0 ++ zeros 24 ++ (List.range 8).flatMap (fun _ => leBytes 4 0x1C0 ++ zeros 44)
    ++ zeros 1024
def loadOf (vc : Nat) : List Byte := leBytes 4 16 ++ leBytes 2 0 ++ leBytes 2 16 ++ zeros 8 ++ imageOf vc

/-- Bytes as a memory keeps them: those that are not 0. -/
def sparse : Nat → List Byte → Memory
  | _, [] => []
  | a, b :: l => if b = 0 then sparse (a + 1) l else ⟨a, b⟩ :: sparse (a + 1) l

/-- A session that staged a load for a context of one slice. -/
def loading (vc : Nat) (y : Strand := {}) : State :=
  let p := leBytes 4 0 ++ leBytes 4 1 ++ zeros 8
  asking 16 0x0401 p (withStrand y {} own0) { staging := sparse 0 (loadOf vc) }

/-- The check of R379 on that load. -/
def loadDetail (vc : Nat) : Nat :=
  let s := loading vc
  let v := s.started 0 0 (reqMsg 0x0401 (leBytes 4 0 ++ leBytes 4 1 ++ zeros 8))
  (v.dropSuspects 0).loadCheck 0 (unpackLoad (s.stgRead 0 0 16) (fun o n => s.stgRead 0 o n) 67108864) 0

theorem wit_ProgLoad :
    (let p := leBytes 4 0 ++ leBytes 4 1 ++ zeros 8
     asksCtx (loading 16) 0 (reqMsg 0x0401 p) 0x0401 16 ∧ fld p 4 4 = 1 ∧ fld p 0 4 + 16 * 1 ≤ 67108864
      ∧ asksCtx (loading 15 busy) 0 (reqMsg 0x0401 p) 0x0401 16)
    ∧ (loading 16).quiet 0 = true ∧ (loading 16 busy).quiet 0 = false ∧ (loading 16).reqSess 0 = 0 := by decide +kernel

theorem wit_ProgLoad_passes : loadDetail 16 = 0 := by decide +kernel

/-- R379: an image for another VCORES fails check 2. -/
theorem wit_ProgLoad_fails : loadDetail 15 = 2 := by decide +kernel

/-- A context whose programs are loaded. -/
def loaded0 : Ctx := { own0 with cfg := { loaded := true } }

theorem wit_Strands :
    (∀ c ∈ [0x0501, 0x0502], let p := leBytes 2 0 ++ leBytes 2 1 ++ [2 ^ 7]
      asksCtx (reqOn c p) 0 (reqMsg c p) c 5 ∧ asksCtx (reqOn c p loaded0) 0 (reqMsg c p) c 5 ∧ fld p 2 2 = 1 ∧ fld p 4 1 = 2 ^ 7 ∧ fld p 0 2 = 0
        ∧ ((reqOn c p).ctx 0).grid.length = 1 ∧ ((reqOn c p).ctx 0).cfg.loaded = false
        ∧ ((reqOn c p loaded0).ctx 0).cfg.loaded = true)
    ∧ (let p := leBytes 2 2 ++ leBytes 2 1 ++ [1]
       asksCtx (reqOn 0x0501 p) 0 (reqMsg 0x0501 p) 0x0501 5 ∧ ((reqOn 0x0501 p).ctx 0).grid.length < fld p 0 2)
    ∧ (∀ n ∈ [0, 9], let p := leBytes 8 n
       asksCtx (reqOn 0x0504 p) 0 (reqMsg 0x0504 p) 0x0504 8 ∧ (reqOn 0x0504 p).compares 0 = false ∧ fld p 0 8 = n
        ∧ ((reqOn 0x0504 p).ctx 0).step = 0) := by decide +kernel

theorem wit_Strands_idle (e : Eng) : (((reqOn 0x0501 [] loaded0).strand ⟨0, 0, 7⟩).stream e).state = .idle := by
  cases e <;> decide +kernel

/-- Streams that a strand stop meets: at a boundary, in execution, waiting. -/
theorem wit_StrandStop :
    (let y : Strand := { m := { state := .running, phase := .boundary }, v := { state := .running, phase := .executing }
                         x := { state := .waiting, phase := .waitSem 3 1 } }
     let s := reqOn 0x0502 (leBytes 2 0 ++ leBytes 2 1 ++ [1]) own0 y
     let z (e : Eng) : Stream := (s.strand ⟨0, 0, 0⟩).stream e
     ((z .m).state, (z .m).phase) = (.running, .boundary) ∧ ((z .v).state, (z .v).phase) = (.running, .executing)
      ∧ ((z .x).state, (z .x).phase) = (.waiting, .waitSem 3 1)
      ∧ (let t := after (.strandStop 0) s
         ((t.strand ⟨0, 0, 0⟩).m.state, (t.strand ⟨0, 0, 0⟩).v.stopReq, (t.strand ⟨0, 0, 0⟩).x.state)
          = (.stopped, true, .stopped)))
    ∧ (let y : Strand := { m := { state := .running, phase := .executing }, mrun := some { latch := {} }
                           x := { state := .waiting, phase := .waitBar 3 1 } }
       let s := reqOn 0x0502 (leBytes 2 0 ++ leBytes 2 1 ++ [1]) own0 y
       let z (e : Eng) : Stream := (s.strand ⟨0, 0, 0⟩).stream e
       ((z .m).state, (z .m).phase) = (.running, .executing) ∧ ((z .x).state, (z .x).phase) = (.waiting, .waitBar 3 1)
        ∧ (s.strand ⟨0, 0, 0⟩).mrun.map (·.granted) = some false
        ∧ (let t := (after (.strandStop 0) s).strand ⟨0, 0, 0⟩
           (t.m.state, t.mrun.isNone, t.x.state) = (.stopped, true, .stopped))) := by decide +kernel

/-! ### Long requests -/

/-- A context with a snapshot target, on a device by itself. -/
def armed0 : Ctx := { own0 with cfg := { set := { target := 1 } } }

/-- Handle 1 of session 0: a restore target for context 0. -/
def handled (k c : Nat) : State :=
  let s := reqOn 0x0704 ([2, 0] ++ leBytes 2 1)
  { s with hub := { s.hub with handles := [(1, { sess := 0, kind := k, ctx := c, slotB := false, unit := 0, data := [], landed := [], poison := [] })] } }

theorem wit_CheckpointRequests :
    (asksCtx (reqOn 0x0701 [] armed0) 0 (reqMsg 0x0701 []) 0x0701 0 ∧ (reqOn 0x0701 [] armed0).mayCheckpoint 0 = true
      ∧ asksCtx (reqOn 0x0701 []) 0 (reqMsg 0x0701 []) 0x0701 0 ∧ (reqOn 0x0701 []).mayCheckpoint 0 = false)
    ∧ (let x : Ctx := { own0 with ckpt := { slotA := { commit := 0x8000000000000005, manifest := man5 } } }
       let s := reqOn 0x0702 (leBytes 8 5) x
       asksCtx s 0 (reqMsg 0x0702 (leBytes 8 5)) 0x0702 8 ∧ (s.ctx 0).ckpt.slotA.valid = true
        ∧ manStep (s.ctx 0).ckpt.slotA.manifest = fld (leBytes 8 5) 0 8 ∧ (s.ctx 0).ckpt.slotA.buddy = false)
    ∧ (let s := reqOn 0x0702 (leBytes 8 5)
       asksCtx s 0 (reqMsg 0x0702 (leBytes 8 5)) 0x0702 8 ∧ (s.ctx 0).ckpt.slotA.valid = false ∧ (s.ctx 0).ckpt.slotB.valid = false) := by
  decide +kernel

theorem wit_CheckpointRequests_handles :
    (∀ e ∈ [(0, 0), (1, 0), (2, 0), (0, 3), (2, 15)], let p := [BitVec.ofNat 8 e.1, BitVec.ofNat 8 e.2, 1]
       asks (reqOn 0x0703 p) 0 (reqMsg 0x0703 p) 0x0703 3 ∧ fld p 2 1 = 1 ∧ fld p 1 1 = e.2 ∧ fld p 0 1 = e.1
        ∧ (reqOn 0x0703 p).bound 0 e.2 = decide (e.2 = 0) ∧ (reqOn 0x0703 p).exists_ 0 = true ∧ (reqOn 0x0703 p).areaOf 0 = none)
    ∧ (let s := { reqOn 0x0703 [0, 0, 0] with ctxs := [] }
       s.bound 0 0 = true ∧ s.exists_ 0 = false)
    ∧ (let p := [2, 0] ++ leBytes 2 1
       asksCtx (handled 2 0) 0 (reqMsg 0x0704 p) 0x0704 4 ∧ fld p 0 1 = 2 ∧ fld p 1 1 ≤ 1 ∧ fld p 2 2 = 1
        ∧ ((handled 2 0).handle 1).kind = 2 ∧ ((handled 2 0).handle 1).sess = 0 ∧ ((handled 2 0).handle 1).ctx = 0
        ∧ (handled 2 0).quiet 0 = true ∧ ((handled 1 0).handle 1).kind ≠ 2 ∧ ((handled 2 1).handle 1).ctx ≠ 0
        ∧ asksCtx (handled 1 0) 0 (reqMsg 0x0704 p) 0x0704 4 ∧ asksCtx (handled 2 1) 0 (reqMsg 0x0704 p) 0x0704 4) := by
  decide +kernel

theorem wit_CheckpointRequests_busy :
    (let s := { handled 2 0 with cores := (reqOn 0 [] own0 busy).cores }
     asksCtx s 0 (reqMsg 0x0704 ([2, 0] ++ leBytes 2 1)) 0x0704 4 ∧ (s.handle 1).kind = 2 ∧ s.quiet 0 = false) := by decide +kernel

theorem wit_Resizes :
    (∀ e ∈ [(16, 72), (17, 0)], let p := zeros 2 ++ [BitVec.ofNat 8 e.1, BitVec.ofNat 8 e.2, 0]
      asksCtx (reqOn 0x020A p) 0 (reqMsg 0x020A p) 0x020A 5 ∧ fld p 2 1 = e.1 ∧ fld p 3 1 = e.2)
    ∧ (∀ o ∈ [0, 1, 2, 16], let p := [BitVec.ofNat 8 o, 0] ++ leBytes 2 1 ++ [0, 1]
      let s := { reqOn 0x020B p with ctxs := [(0, { own0 with state := .ready, slices := [0, 3] }), (1, { state := .ready })] }
      let t : State := { s with hub := { s.hub with bind := s.hub.bind ++ [(3, BitVec.ofNat 16 (0 + 32 * 17 + 1024))] } }
      asksCtx t 0 (reqMsg 0x020B p) 0x020B 6 ∧ fld p 0 1 = o ∧ t.bound 0 1 = true ∧ (o = 2 → t.bound 0 o = false)
        ∧ (t.ctx 1).dagger = none ∧ t.exists_ 1 = true ∧ fld p 2 2 = 1 ∧ (0 ∈ (t.ctx 0).slices)
        ∧ ((List.range 16).filter fun j => bits (fld p 2 2) j 1 = 1).length < (t.ctx 0).slices.length
        ∧ fld p 4 1 = 0 ∧ fld p 5 1 ≤ (t.ctx 0).ddrUnits.length) := by decide +kernel

/-- A long command of context 0 and of the device, on channel 0. -/
def longOf (c : BitVec 16) (b : Bool) : Dagger := ⟨0, 9, c, 0, 0, b⟩
def longOn (c : BitVec 16) (b : Bool) : State :=
  let s := reqOn 0 [] { own0 with dagger := some (longOf c b) }
  { s with hub := { s.hub with dagger := some (longOf c b) } }

theorem wit_Completions :
    (∀ b ∈ [true, false], ((longOn 0x020A b).ctx 0).dagger = some (longOf 0x020A b) ∧ (longOf 0x020A b).ready = b
      ∧ (longOf 0x020A b).cmd ≠ 0x0704 ∧ (longOf 0x020A b).cmd ≠ 0x0601 ∧ (longOn 0x020A b).hub.dagger = some (longOf 0x020A b))
    ∧ (let s : State := { longOn 0x0601 false with twin := { peerCkpt := [1], peerPart := (longOn 0x0601 false).part.part, peerSig := nsig } }
       s.hub.dagger = some (longOf 0x0601 false) ∧ s.twin.peerCkpt ≠ [] ∧ s.twin.peerPart = s.part.part
        ∧ s.twin.peerSig.toNat = nsig ∧ s.twin.mode = 0 ∧ (longOf 0x0601 false).status = 0 ∧ s.twin.region = []
        ∧ s.twin.peerCopy = 0 ∧ ∀ c, c < 16 → (s.ctx c).ckpt.copying = none)
    ∧ (let s := longOn 0x020A true
       s.findChan (bindDst (s.bind 0)) (bindSrc (s.bind 0)) = some 1 ∧ bindSrc (s.bind 0) < 8
        ∧ (s.session (bindSrc (s.bind 0))).opened = true ∧ s.hub.outbox = [] ∧ (s.chan 1).slots.length < 8) := by decide +kernel

/-- R375: the notice COMPLETE. -/
theorem test_complete : ((after (.commandComplete 0) (longOn 0x020A true)).chan 1).slots.map (fun m => (m.cmd, m.kind, m.tag))
    = [(0x0F22, 2, 9)] := by decide +kernel

/-! ### Requests about the pair, firmware and configuration -/

theorem wit_Pairing :
    (∀ e ∈ [(0, 0), (3, 255), (4, 0)], let p := [BitVec.ofNat 8 e.1, BitVec.ofNat 8 e.2]
      asks (reqDev 0x0601 p) 0 (reqMsg 0x0601 p) 0x0601 2 ∧ (reqDev 0x0601 p).hub.dagger = none ∧ (reqDev 0x0601 p).reqSess 0 < 8
        ∧ fld p 0 1 = e.1 ∧ (reqDev 0x0601 p).twin.up = false ∧ (reqDev 0x0601 p { twin := { up := true } }).twin.up = true
        ∧ (reqDev 0x0601 p { twin := { up := true } }).twin.waiting = [] ∧ (reqDev 0x0601 p { twin := { up := true } }).twin.unacked.length ≤ 1022)
    ∧ (∀ m ∈ [0, 1, 2, 3], let p := [BitVec.ofNat 8 m, 0, 0]
      let s := reqDev 0x0602 p
      let t := reqDev 0x0602 p { twin := { paired := true } }
      asks s 0 (reqMsg 0x0602 p) 0x0602 3 ∧ fld p 0 1 = m ∧ s.hub.dagger = none ∧ (m = 1 → s.modeRule 1 0 = some 1)
        ∧ s.twin.region = [] ∧ s.twin.up = false ∧ (∀ c, c < 16 → (s.ctx c).ckpt.copying = none)
        ∧ t.modeRule 2 0 = none ∧ t.twin.up = false ∧ (∀ c, c < 16 → (t.ctx c).ckpt.copying = none)
        ∧ s.twin.paired = false ∧ t.twin.peerCopy = 0) := by decide +kernel

theorem wit_PairTakeover :
    (let s := reqDev 0x0603 []
     asks s 0 (reqMsg 0x0603 []) 0x0603 0 ∧ s.hub.dagger = none ∧ s.twin.paired = false)
    ∧ (let s := reqDev 0x0603 [] { twin := { paired := true, silent := true } }
       asks s 0 (reqMsg 0x0603 []) 0x0603 0 ∧ s.twin.paired = true ∧ s.twin.silent = true ∧ s.twin.mode ≠ 1 ∧ s.twin.mode ≠ 3
        ∧ ∀ c, c < 16 → (s.ctx c).ckpt.copying = none ∧ ∀ e ∈ (s.ctx c).cfg.endpoints, epTwin e.2 = false)
    ∧ (∀ n ∈ [2, 3], let p := [BitVec.ofNat 8 n]
      asks (reqDev 0x0604 p) 0 (reqMsg 0x0604 p) 0x0604 1 ∧ fld p 0 1 = n) := by decide +kernel

/-- A firmware object of kind `k` and body byte `b`, signed with the key 1 (Table 14.4). -/
def object (k b r s : Nat) : List Byte :=
  leBytes 4 0x4D594657 ++ leBytes 2 1 ++ [BitVec.ofNat 8 k, 0] ++ zeros 8 ++ leBytes 8 241 ++ zeros 8 ++ ecPoint ecG ++ zeros 15
    ++ [BitVec.ofNat 8 b] ++ leBytes 48 r ++ leBytes 48 s

def anImage : List Byte := object 0 0
  15109895381411715901146089269106042671362763076832118879068696207877065023359993016646613860123930103883867604617832
  8885695628957293876004959584368642306131221343197926386561372137710532734240916860407905004875958342331909092297303
def aStage : List Byte := object 1 2
  17538749176236375255825907788998660140802239776648571629407523893781192643691831687908989677427879778208808428787143
  12845009510969955672281532088383178770799875776278150603650034707777995175087971304495209024014956700815509953190393
def aRevoke : List Byte := object 2 1
  8058995008800294257184657075913924568720024050399906626300651052825253797116601376312029322874238229808160052524857
  5310749569802883780903868701408343612909782948810915785906110759081081295825738312561278935045771673955095594842455
def ownRevoke : List Byte := object 2 0
  10467860375254412268022222513042978631708037666731628538114710299100635306765519623501894083901792198579358585336044
  18481174123880027007094929414224969840275022561447211455876825779246356542261603428666820008396356376047945905780872

/-- A provisioned device whose root key 0 is that key, with object `b` staged. -/
def keyed (b : Option (List Byte)) (rec : Bool := false) : State :=
  { part := { lcpos := 1, rk := [BitVec.ofNat 384 (leNat (sha384 (ecPoint ecG))), 0, 0, 0] }
    hub := { staged := b }, aon := { recovery := rec } }

theorem wit_FwObjects_image : (keyed none).objCheck anImage = none ∧ objKind anImage = 0 := by decide +kernel
theorem wit_FwObjects_stage : (keyed none).objCheck aStage = none ∧ objKind aStage = 1 := by decide +kernel
theorem wit_FwObjects_revoke : (keyed none).objCheck aRevoke = none ∧ objKind aRevoke = 2
    ∧ (keyed none).revokeBad aRevoke (objBody aRevoke 1) = false := by decide +kernel
theorem wit_FwObjects_ownRevoke : (keyed none).objCheck ownRevoke = none ∧ objKind ownRevoke = 2
    ∧ (keyed none).revokeBad ownRevoke (objBody ownRevoke 1) = true := by decide +kernel

theorem objCheck_keyed_eq (b : List Byte) (o : Option (List Byte)) (r : Bool) (pl : List Byte) (n : Nat) :
    (asking 8 n pl (keyed o r)).objCheck b = (keyed none).objCheck b := rfl
theorem revokeBad_keyed_eq (b : List Byte) (o : Option (List Byte)) (r : Bool) (pl : List Byte) (n k : Nat) :
    (asking 8 n pl (keyed o r)).revokeBad b k = (keyed none).revokeBad b k := rfl

/-- A debug token for the device whose DEVIDHASH begins with 7. -/
def debugToken : List Byte :=
  let o := object 3 5
    17338180799756078697510835764385407191359407636676175578347854687247353355764900226968144420117290495686914004407027
    15802548210973180539557720230364623393427015370581438785501321702098730164632002823913844350608125731283316055111783
  o.take 0x18 ++ leBytes 8 7 ++ o.drop 0x20

def tokened : State :=
  { asking 8 0x0902 [] (keyed (some debugToken)) with vault := { devidHash := leBytes 48 7 } }

theorem wit_FwObjects_token : tokened.objCheck debugToken = none ∧ objKind debugToken = 3 := by decide +kernel
theorem wit_FwCommit_token : asks tokened 0 (reqMsg 0x0902 []) 0x0902 0 ∧ tokened.hub.dagger = none
    ∧ tokened.hub.staged = some debugToken ∧ tokened.reqSess 0 < 8 := by decide +kernel

/-- The four objects, staged, meet the premises of FW.COMMIT; the image, in recovery, those of FW.ACTIVATE. -/
theorem wit_FwCommit :
    (∀ b ∈ [anImage, aStage, aRevoke, ownRevoke], let s := asking 8 0x0902 [] (keyed (some b))
      asks s 0 (reqMsg 0x0902 []) 0x0902 0 ∧ s.hub.dagger = none ∧ s.hub.staged = some b ∧ s.reqSess 0 < 8)
    ∧ (let s := asking 8 0x0902 [] (keyed none)
       asks s 0 (reqMsg 0x0902 []) 0x0902 0 ∧ s.hub.staged = none)
    ∧ (let s := asking 8 0x0902 [] (keyed (some []))
       s.hub.staged = some [] ∧ s.objCheck [] = some (4, 0)) := by decide +kernel

theorem wit_FwActivate :
    (let s := asking 8 0x0903 [] (keyed (some anImage) true)
     asks s 0 (reqMsg 0x0903 []) 0x0903 0 ∧ s.aon.recovery = true ∧ s.hub.staged = some anImage)
    ∧ (let s := asking 8 0x0903 [] (keyed none true)
       asks s 0 (reqMsg 0x0903 []) 0x0903 0 ∧ s.aon.recovery = true ∧ s.hub.staged = none)
    ∧ (let s := asking 8 0x0903 [] { aon := { stage := 8 } }
       asks s 0 (reqMsg 0x0903 []) 0x0903 0 ∧ s.aon.recovery = false ∧ s.aon.stage ≠ 0) := by decide +kernel

/-- A session that staged bytes for a device command. -/
def staging (c : Nat) (p : List Byte) (l : List Byte) : State := asking 8 c p (keyed none) { staging := sparse 0 l }

/-- Staging gives an object back that was put there. -/
theorem wit_FwStage :
    (let p := zeros 4 ++ leBytes 4 241
     asks (staging 0x0901 p anImage) 0 (reqMsg 0x0901 p) 0x0901 8 ∧ fld p 4 4 = 241
      ∧ (staging 0x0901 p anImage).stgRead 0 0 241 = anImage)
    ∧ (let p := zeros 8
       asks (staging 0x0901 p []) 0 (reqMsg 0x0901 p) 0x0901 8
        ∧ (staging 0x0901 p []).objCheck ((staging 0x0901 p []).stgRead 0 0 0) = some (4, 0)) := by decide +kernel

theorem wit_Cfg :
    (∀ c ∈ [0x0C01, 0x0C02], let p := leBytes 4 (67108864 - 98)
      asks (reqDev c p) 0 (reqMsg c p) c 4 ∧ fld p 0 4 + 98 ≤ 67108864)
    ∧ (∀ e ∈ [(0, 0), (2, 600), (2, 599), (0, 1), (3, 0)], let p := [BitVec.ofNat 8 e.1, 0] ++ leBytes 2 e.2
      asks (reqDev 0x0C03 p) 0 (reqMsg 0x0C03 p) 0x0C03 4 ∧ fld p 0 1 = e.1 ∧ fld p 2 2 = e.2) := by decide +kernel

/-- R431: a power cap below 600 W is a bad field. -/
theorem test_cap : (after (.cfgPower 0) (reqDev 0x0C03 ([0, 0] ++ leBytes 2 599))).pwr.cap = 0
    ∧ (after (.cfgPower 0) (reqDev 0x0C03 ([0, 0] ++ leBytes 2 600))).pwr.cap = 600 := by decide +kernel

/-! ### Resets and release -/

/-- A device at release stage `n`, that nothing holds in reset. -/
def atStage (n : Nat) (a : Aon := {}) : State := { aon := { a with sources := [], pwrok := true, stage := n, releaseAt := 0 } }

theorem wit_ResetReach :
    (({} : State).aon.stage = 0 ∧ (atStage 8).aon.stage ≠ 0)
    ∧ (∀ n ∈ [1, 9], 1 ≤ n ∧ n ≤ 9) ∧ (9 : Nat) < 10
    ∧ (1 : Nat) ∈ ({ aon := { sources := [1, 2] } } : State).aon.sources ∧ (1 : Nat) ∉ ({} : State).aon.sources := by decide +kernel

/-- What each release stage starts from: held, or free with what the stage asks for. -/
theorem wit_ReleaseSequence :
    (∀ n ∈ [1, 2, 4, 6, 7, 8], (atStage n).aon.sources = [] ∧ (atStage n).aon.pwrok = true ∧ (atStage n).aon.railsBad = false
      ∧ (atStage n).aon.releaseAt ≤ (atStage n).now ∧ (atStage n).aon.stage = n ∧ (atStage n).pwr.failed = []
      ∧ (atStage n).pwr.dead = [] ∧ (atStage n).part.lc ≠ 4 ∧ (atStage n).flash.copyA = [] ∧ (atStage n).flash.copyB = []
      ∧ (atStage n).aon.bootsrc = 0)
    ∧ ({} : State).aon.sources ≠ []
    ∧ (let s : State := { atStage 2 with pwr := { failed := [(.hub 1, 0)] } }
       (PllId.hub 1, 0) ∈ s.pwr.failed)
    ∧ (atStage 2 { bootsrc := 3 }).aon.bootsrc = 3
    ∧ ((atStage 3 { recovery := true }).aon.recovery = true ∧ (atStage 3 { image := [1] }).aon.image ≠ []
        ∧ ({ atStage 3 with part := { lcpos := 1 } } : State).part.lc ≠ 4 ∧ ({ atStage 3 with part := { lcpos := 1 } } : State).part.lc ≠ 0
        ∧ (atStage 3 { image := [1] }).aon.recovery = false)
    ∧ (atStage 5).flash.binding = [] := by decide +kernel

/-- A DDR5 channel whose module trains, and one without a module. -/
def gibs (n : Nat) : DimmChan := { slot0 := some { mr := true, gib := n, org := 0 } }
def module64 : DimmChan := gibs 64
def noModule : DimmChan := { trains := false }

theorem wit_ReleaseSequence_memory :
    (module64.ok = true ∧ module64.trains = true ∧ noModule.trains = false ∧ gibs 32 ≠ module64
      ∧ (gibs 32).ok = true ∧ (gibs 32).trains = true)
    ∧ (∀ e ∈ [(module64, module64), (noModule, noModule), (module64, noModule), (noModule, module64)],
        let s : State := { atStage 4 with part := { dimms := List.replicate 8 e.1 ++ List.replicate 8 e.2 } }
        s.part.dimms = List.replicate 8 e.1 ++ List.replicate 8 e.2 ∧ s.aon.stage = 4) := by decide +kernel

theorem wit_ReleaseSequence_waits :
    (∀ n ∈ [939999999, 940000000], let s : State := { atStage 3 { imageWait := some 0 } with now := n }
      s.aon.imageWait = some 0 ∧ s.now - 0 = n ∧ s.twin.imageTop = 0)
    ∧ (atStage 3).aon.imageWait = none ∧ (atStage 5 { zeroing := true }).aon.zeroing = true ∧ (atStage 5).aon.zeroing = false := by
  decide +kernel

/-- Table 15.5: stage 1 follows 376 cycles after the last source. -/
theorem test_release : (after .sysrstNRelease { aon := { sources := [1], pwrok := true, stage := 1 } }).aon.releaseAt = 376 := by
  decide +kernel

theorem wit_BlockResets :
    (let s := reqOn 0 []
     s.ownerOf 0 = some (0, 0) ∧ s.ownerOf 271 = none)
    ∧ (∀ p ∈ [PortId.fabric 15, .host 1, .twin, .hbm 11, .ddr 15],
        p ∉ (atStage 8).mem.inReset ∧ p ∉ (atStage 8).mem.isolated
        ∧ p ∈ ({ atStage 8 with mem := { inReset := [p] } } : State).mem.inReset)
    ∧ (atStage 8).twin.unacked = [] ∧ (atStage 8).twin.waiting = []
    ∧ (∀ c, c < 16 → ((atStage 8).ctx c).disps = []) ∧ (∀ k, k < 8 → ((atStage 8).session k).ahead = []) ∧ (∀ c, c < 16 → (atStage 8).exists_ c = false) ∧ (∀ c, c < 16 → ((atStage 8).ctx c).grid = [])
    ∧ 7 ≤ (atStage 8).aon.stage ∧ (atStage 8).aon.imageWait = none ∧ (atStage 8).mem.pendPoison = []
    ∧ (atStage 8).pwr.failed = [] ∧ (atStage 8).pwr.dead = [] := by decide +kernel

/-! ### Rails, sensors, clocks -/

/-- A running device at cycle `n`. -/
def runAt (n : Nat) (a : Aon := {}) (t : Twin := {}) (p : Pwr := {}) : State :=
  { atStage 8 a with now := n, twin := t, pwr := p }

theorem wit_RailsAndSensors :
    ((runAt 0).twin.paired = false ∧ (runAt 0).aon.pwrok = true ∧ (runAt 0).aon.railFaultAt = none ∧ (runAt 0).aon.stage ≠ 0)
    ∧ ({} : State).aon.pwrok = false
    ∧ (∀ n ∈ [7519, 7520], let s := runAt n { pwrokFellAt := some 0 }
       s.aon.pwrokFellAt = some 0 ∧ s.now - 0 = n ∧ 2 ≤ s.aon.stage)
    ∧ (let s : State := { aon := { stage := 8, pwrok := false } }
       s.aon.pwrok = false ∧ 2 ≤ s.aon.stage)
    ∧ (∀ n ∈ [4699, 4700], let s := runAt n { railFaultAt := some 0, railsBad := true }
       s.aon.railFaultAt = some 0 ∧ s.now - 0 = n ∧ s.aon.tamperAt = none ∧ s.aon.railsBad = true)
    ∧ ((runAt 0).aon.railsBad = false ∧ (runAt 0).aon.tamperHeld = false ∧ (runAt 0).aon.tamperAt = none)
    ∧ (∀ n ∈ [9399, 9400], let s := runAt n { tamperAt := some 0, tripped := [3] }
       s.aon.tamperAt = some 0 ∧ s.now - 0 = n ∧ s.part.tampcnt = 0 ∧ s.aon.tripped ≠ [])
    ∧ (∀ n ∈ [9399999, 9400000], let s : State := { runAt n with aon := { pwrokFellAt := some 0, thermtrip := true, stage := 1 } }
       s.aon.pwrokFellAt = some 0 ∧ s.now - 0 = n ∧ s.aon.thermtrip = true ∧ s.aon.pwrok = false)
    ∧ ((runAt 0 {} { up := true, paired := true }).twin.up = true ∧ (runAt 0 {} { up := true, paired := true }).twin.paired = true
      ∧ (runAt 0 {} { up := true, paired := true }).twin.waiting = []
      ∧ (runAt 0 {} { up := true, paired := true }).twin.unacked.length < 1024) := by
  decide +kernel

/-- Table 16.10: a trip at 120 degrees, none below. -/
theorem test_thermtrip : (after (.thermalTrip 119) (runAt 0)).aon.thermtrip = false
    ∧ (after (.thermalTrip 120) (runAt 0)).aon.thermtrip = true := by decide +kernel

theorem wit_ClocksFail :
    (∀ e ∈ (runAt 0).pwr.failed, e.1 ≠ .timebase) ∧ (runAt 0).pwr.dead = []
    ∧ (PortId.host 1 ∉ (runAt 0).mem.inReset ∧ PortId.host 1 ∉ (runAt 0).mem.isolated)
    ∧ (∀ c, c < 16 → (runAt 0).exists_ c = false)
    ∧ (∀ n ∈ [939999, 940000], let s := runAt n {} {} { failed := [(.hub 0, 0)] }
       s.pwr.failed = [(.hub 0, 0)] ∧ s.now - 0 = n ∧ ∃ e ∈ s.pwr.failed, e.1 = .hub 0) := by decide +kernel

theorem wit_TestAccess :
    (6 : Nat) ∉ (runAt 0).aon.sources ∧ ({ runAt 0 with part := { lcpos := 15 } } : State).part.lc = 4 ∧ (runAt 0).part.lc ≠ 4
    ∧ (runAt 0).twin.paired = false ∧ ({ runAt 0 with part := { lcpos := 1 } } : State).debugOpen = false
    ∧ ((runAt 0).debugOpen = true ∧ (∀ k ∈ [0, 1, 2], (runAt 0).scope k = true) ∧ clean (runAt 0)) := by decide +kernel

/-- R396: IDCODE of stepping A0. -/
theorem test_idcode : ((after .idcode (runAt 0)).tap.data.toNat % 4096) = 0xDC7 := by decide +kernel

/-! ### Power -/

/-- Core 0 in a power state since cycle 0, at cycle `n`. -/
def coreIn (w : CorePower) (n : Nat) (y : Strand := {}) : State :=
  { runAt n with cores := [(0, { strands := [(0, y)], power := w, powerAt := 0 })] }

theorem wit_PowerStates_core :
    (∀ n ∈ [9399, 9400], let s := coreIn .ready n
       (s.core 0).power = .ready ∧ (s.core 0).active = false ∧ s.now - (s.core 0).powerAt = n)
    ∧ (∀ q, q < 272 → q ≠ 0 → ((coreIn .ready 9400).core q).power ≠ .ready)
    ∧ (let s := { coreIn .ready 9400 with cores := [(0, { power := .ready }), (5, { power := .ready })] }
       ∃ q, q < 272 ∧ q ≠ 0 ∧ (s.core q).power = .ready)
    ∧ (∀ n ∈ [939999, 940000], let s := coreIn .asleep n
       (s.core 0).power = .asleep ∧ s.ownerOf 0 = none ∧ s.now - (s.core 0).powerAt = n)
    ∧ ((reqOn 0 []).ownerOf 0).isSome = true
    ∧ (let s := coreIn .asleep 0 busy
       8 ≤ s.aon.stage ∧ (s.core 0).power = .asleep ∧ (s.core 0).active = true ∧ s.pwr.failed = [] ∧ s.pwr.dead = []
        ∧ ∀ q, q < 272 → (s.core q).power ≠ .waking)
    ∧ (let s := { runAt 93 with cores := (railCores 0).map fun q => (q, { power := .waking }) }
       8 ≤ ((railCores (coreRail 0)).filter fun q =>
            (s.core q).power = .waking && decide (s.now - (s.core q).powerAt < 94)).length)
    ∧ ((coreIn .waking 0).core 0).power = .waking := by decide +kernel

/-- A valid host frame on port 0. -/
def aFrame : HostFrame := hf 1 0 0

theorem wit_PowerStates_device :
    (let s := runAt 940000000
     s.pwr.dev = .idle ∧ 8 ≤ s.aon.stage ∧ s.twin.mode = 0 ∧ s.hub.dagger = none ∧ 940000000 ≤ s.now - s.pwr.idleSince
      ∧ s.twin.up = false ∧ ∀ c, c < 16 → s.exists_ c = false ∧ (s.ctx c).colls = [] ∧ (s.ctx c).disps = [])
    ∧ (runAt 0 {} { mode := 2 }).twin.mode ≠ 0 ∧ (runAt 0 {} {} { dev := .run }).pwr.dev ≠ .idle
    ∧ (let s : State := { runAt 0 {} {} { dev := .standby } with hub := { port0 := { rate := 400 } } }
       s.pwr.dev = .standby ∧ s.hostUp aFrame.port = true ∧ aFrame.crcOk = true ∧ aFrame.ver = 1 ∧ hostType aFrame.typ = true
        ∧ aFrame.ip.dport = s.hub.udp) := by decide +kernel

/-- The power controller is due at 10 us. -/
def stepAt (l g : Nat) (p : Pwr := {}) (a : Aon := {}) : State := runAt 94000 a {} { p with level := l, gate := g }

theorem wit_PowerControl :
    (∀ e ∈ [(0, 0), (6, 0), (7, 0), (7, 3), (7, 4)], let s := stepAt e.1 e.2
       8 ≤ s.aon.stage ∧ 9400 ≤ s.now - s.pwr.stepAt ∧ s.aon.throttleLow = false ∧ s.pwr.holdUntil < s.now
        ∧ s.pwr.level = e.1 ∧ s.pwr.gate = e.2 ∧ s.pwr.limits = (2000, 2300, 100) ∧ s.pwr.raising = none)
    ∧ (let s := stepAt 3 0 { underSince := some 0 }
       s.pwr.underSince = some 0 ∧ 94000 ≤ s.now - 0 ∧ 0 < s.pwr.level ∧ s.pwr.gate = 0)
    ∧ ¬ 9400 ≤ (runAt 9399).now - (runAt 9399).pwr.stepAt
    ∧ (stepAt 3 0 {} { throttleLow := true }).aon.throttleLow = true
    ∧ (let s := stepAt 3 0 { holdUntil := 94000 }
       s.now ≤ s.pwr.holdUntil)
    ∧ (let p : Pwr := { mode := 2 }
       p.mode = 2 ∧ p.cap = 0)
    ∧ (∀ r ∈ [5, 6], let s := stepAt 3 0 { raising := some 2, avsWait := [5] }
       s.pwr.raising = some 2 ∧ ((∀ j ∈ s.pwr.avsWait, j = r) ↔ r = 5) ∧ ((∃ j ∈ s.pwr.avsWait, j ≠ r) ↔ r = 6))
    ∧ (let s : State := { runAt 1880 { throttleLow := true } with pwr := { level := 4 } }
       s.aon.throttleLow = true ∧ s.pwr.level < 5 ∧ 1880 ≤ s.now - s.pwr.throttleStepAt)
    ∧ (reqOn 0 []).exists_ 0 = true := by decide +kernel

/-- R432: above the ceiling of 2,300 W the level falls by one. -/
theorem test_ceiling : (after (.powerControlStep 2301 50) (stepAt 3 0)).pwr.level = 4
    ∧ (after (.powerControlStep 2300 50) (stepAt 3 0)).pwr.level = 3 := by decide +kernel

/-- One failed lane leaves 4, seven leave none. -/
theorem wit_Lanes : let failed (l : List Nat) : Twin := { suspectLanes := l.map fun k => ⟨0x40, k⟩ }
    (failed [3]).widest = 4 ∧ (failed [0, 1, 2, 3, 4, 5, 6]).widest = 0
      ∧ ∀ x ∈ ({} : State).twin.suspectLanes, 16 ≤ x.port → x.lane = 3 := by decide +kernel

/-! ### Rules stated whole -/

theorem wit_IncrementsCommute : [(3, 1, localKey 0 0 1), (3, 16, Machine.hostKey)].Perm [(3, 16, Machine.hostKey), (3, 1, localKey 0 0 1)] := by decide

/-- R211: the two orders give one value. -/
theorem test_increments : (((({} : State).increment 0 3 1 5).increment 0 3 16 9).core 0).cells
    = (((({} : State).increment 0 3 16 9).increment 0 3 1 5).core 0).cells := by decide +kernel

theorem wit_DoorbellBitEndsSet : bindValid ((mailNet).bind 0) = true ∧ (mailNet).recvState (bindDst ((mailNet).bind 0)) < 2 := by
  decide +kernel

theorem wit_NonFiniteChunks :
    (let l : List Machine.Num := [.nan]
     .nan ∈ l)
    ∧ (let l : List Machine.Num := [.inf false, .inf true]
       .inf false ∈ l ∧ .inf true ∈ l)
    ∧ (let l : List Machine.Num := [.inf true]
       .nan ∉ l ∧ .inf true ∈ l ∧ .inf false ∉ l) := by decide

theorem wit_DdrChannels : ({} : State).mem.ddrHalf = 0 ∧ ({ mem := { ddrHalf := 1 } } : State).mem.ddrHalf = 1
    ∧ ({ mem := { ddrHalf := 2 } } : State).mem.ddrHalf = 2 := by decide

end Sys2Proof.Tests
end

section
/-! PROOFS. The doorbell bits of a channel: what reports of them leave unchanged and what DB_CLEAR makes of them
(R8, R357). -/

namespace Sys2Proof.Machine

/-! ### Channels -/

theorem State.chan_updChan (s : State) (n j : Nat) (f : Chan → Chan) :
    (s.updChan n f).chan j = if j = n then f (s.chan n) else s.chan j :=
  SMap.get_upd _ n j f

@[simp] theorem State.chan_updChan_same (s : State) (n : Nat) (f : Chan → Chan) :
    (s.updChan n f).chan n = f (s.chan n) := by
  rw [State.chan_updChan, if_pos rfl]

/-! ### Reports of doorbell bits change no channel -/

@[simp] theorem State.chan_emit (s : State) (e : Emission) (j : Nat) : (s.emit e).chan j = s.chan j := rfl

@[simp] theorem State.chan_updSession (s : State) (k : Nat) (f : Session → Session) (j : Nat) :
    (s.updSession k f).chan j = s.chan j := rfl

@[simp] theorem State.chan_hostSend (s : State) (k : Nat) (typ ch status : Byte) (word : U32) (payload : List Byte)
    (j : Nat) : (s.hostSend k typ ch status word payload).chan j = s.chan j := by
  unfold State.hostSend
  dsimp only
  split
  · rw [State.chan_emit, State.chan_updSession]
  · rw [State.chan_updSession]

@[simp] theorem State.chan_twinSend (s : State) (ch : Byte) (aux : U64) (payload : List Byte) (mask : U64)
    (dep : Option Dep) (j : Nat) : (s.twinSend ch aux payload mask dep).chan j = s.chan j := by
  unfold State.twinSend
  split <;> rfl

theorem State.chan_when {f : State → State} {j : Nat} (keeps : ∀ t, (f t).chan j = t.chan j) (s : State) (b : Bool) :
    (s.when b f).chan j = s.chan j :=
  State.when_keeps (P := fun t => t.chan j = s.chan j) (fun t h => (keeps t).trans h) s b rfl

/-- Whichever side the bits are reported to (R357): a session, a steward, the twin or Hokunuon. -/
@[simp] theorem State.chan_ringDb (s : State) (n : Nat) (bits : U32) (j : Nat) :
    (s.ringDb n bits).chan j = s.chan j := by
  unfold State.ringDb
  dsimp only
  split_ifs
  · rfl
  · exact s.chan_hostSend ..
  · rfl
  · exact s.chan_emit ..
  · exact State.chan_when (fun t => t.chan_twinSend ..) s _
  · exact s.chan_emit ..

/-! ### DB_CLEAR -/

theorem State.chanLive_iff {s : State} {n : Nat} :
    s.chanLive n = true ↔ n < 64 ∧ bindValid (s.bind n) = true ∧ s.recvState (bindDst (s.bind n)) < 2 := by
  simp [State.chanLive, and_assoc]

/-- R8: the bits cleared go first, then the bits set in the same cycle come. -/
theorem State.db_clearDb {s : State} {n : Nat} (live : s.chanLive n = true) (v w : U32) :
    ((s.clearDb n v w).chan n).db = ((s.chan n).db &&& ~~~v) ||| w := by
  rw [State.clearDb, if_pos live, State.chan_ringDb, State.chan_updChan_same]

end Sys2Proof.Machine

namespace Sys2Proof.Statements
open Sys2Proof.Machine

/-- Settles O58: the cleared bits leave the register before the ones set in the same cycle join it. -/
theorem doorbellBitEndsSet : Obligations.DoorbellBitEndsSet := by
  intro s n k v w hn hk valid ready
  have live : s.chanLive n = true := State.chanLive_iff.2 ⟨hn, valid, ready⟩
  have bit : ((s.clearDb n v w).chan n).db.getLsbD k
      = ((s.chan n).db.getLsbD k && !v.getLsbD k || w.getLsbD k) := by
    rw [State.db_clearDb live]
    simp [hk]
  refine ⟨s.clearDb n v w, rfl, fun isSet => ?_, fun notSet cleared => ?_, fun notSet kept => ?_⟩
  · simp [bit, isSet]
  · simp [bit, notSet, cleared]
  · simp [bit, notSet, kept]

end Sys2Proof.Statements
end

section
/-! PROOFS. The value of a chunk that holds a non-finite product: the first of NaN, both infinities and one infinity
that is present decides it (R105). -/

namespace Sys2Proof.Machine

theorem chunkValue_of_nan_mem {l : List Num} (nan : .nan ∈ l) : chunkValue l = .nan := by
  rw [chunkValue, if_pos (by simpa using nan)]

/-- Whether a NaN is present or not: both answers are NaN. -/
theorem chunkValue_of_both_infs {l : List Num} (pos : .inf false ∈ l) (neg : .inf true ∈ l) :
    chunkValue l = .nan := by
  by_cases nan : .nan ∈ l
  · exact chunkValue_of_nan_mem nan
  · have both : (l.any (· = .inf false) && l.any (· = .inf true)) = true := by simp [pos, neg]
    rw [chunkValue, if_neg (by simpa using nan), if_pos both]

theorem chunkValue_of_one_inf {l : List Num} {b : Bool} (noNan : .nan ∉ l) (inf : .inf b ∈ l)
    (noOther : .inf (!b) ∉ l) : chunkValue l = .inf b := by
  cases b with
  | false => simp [chunkValue, noNan, inf, show .inf true ∉ l from noOther]
  | true => simp [chunkValue, noNan, inf, show .inf false ∉ l from noOther]

end Sys2Proof.Machine

namespace Sys2Proof.Statements
open Sys2Proof.Machine

/-- Settles O59: one lemma for each class of product that decides a chunk. -/
theorem nonFiniteChunks : Obligations.NonFiniteChunks := fun _ =>
  ⟨chunkValue_of_nan_mem, chunkValue_of_both_infs, fun _ => chunkValue_of_one_inf⟩

end Sys2Proof.Statements
end

section
/-! PROOFS. The channel of a DDR5 byte: of the 16 channels in a full tier, of the 8 of the half that runs in a half
tier (R194). -/

namespace Sys2Proof.Machine

@[simp] theorem State.iface_ddr (s : State) (p : Nat) : s.iface .ddr p = some (.ddr (s.ddrChan p)) := rfl

theorem State.ddrChan_of_full {s : State} (full : s.mem.ddrHalf = 0) (p : Nat) :
    s.ddrChan p = p / 256 % 16 := by
  simp [State.ddrChan, full, Nat.shiftRight_eq_div_pow]

theorem State.ddrChan_of_lower_half {s : State} (lower : s.mem.ddrHalf = 1) (p : Nat) :
    s.ddrChan p = p / 256 % 8 := by
  simp [State.ddrChan, lower, Nat.shiftRight_eq_div_pow]

/-- The upper half holds channels 8 to 15. -/
theorem State.ddrChan_of_upper_half {s : State} (upper : s.mem.ddrHalf = 2) (p : Nat) :
    s.ddrChan p = 8 + p / 256 % 8 := by
  simp [State.ddrChan, upper, Nat.shiftRight_eq_div_pow]

end Sys2Proof.Machine

namespace Sys2Proof.Statements
open Sys2Proof.Machine

/-- Settles O60: one lemma for the full tier and one for each half. -/
theorem ddrChannels : Obligations.DdrChannels := by
  intro s p
  rw [State.iface_ddr]
  refine ⟨fun full => ?_, fun lower => ?_, fun upper => ?_⟩
  · rw [State.ddrChan_of_full full]
  · rw [State.ddrChan_of_lower_half lower]
  · rw [State.ddrChan_of_upper_half upper]

end Sys2Proof.Statements
end

section
/-! PROOFS. What a cell has or is owed after increments at its synchronisation unit: the sum does not depend on their
order (R211, R218). -/

namespace Sys2Proof.Machine

/-- What a list of increments adds to cell `n`, modulo 2^32. -/
def addedTo (n : Nat) (l : List Inc) : U32 :=
  (l.map fun d => if d.cell = n then BitVec.ofNat 32 d.inc else 0).sum

@[simp] theorem addedTo_nil (n : Nat) : addedTo n [] = 0 := rfl

@[simp] theorem addedTo_cons (n : Nat) (d : Inc) (l : List Inc) :
    addedTo n (d :: l) = (if d.cell = n then BitVec.ofNat 32 d.inc else 0) + addedTo n l := rfl

@[simp] theorem addedTo_append (n : Nat) (l m : List Inc) : addedTo n (l ++ m) = addedTo n l + addedTo n m := by
  simp [addedTo]

theorem addedTo_perm {l m : List Inc} (n : Nat) (h : l.Perm m) : addedTo n l = addedTo n m :=
  (h.map _).sum_eq

/-- A new place in the order and a new cycle leave what increments add unchanged. -/
@[simp] theorem addedTo_map_key_cycle (n key cycle : Nat) (l : List Inc) :
    addedTo n (l.map fun d => { d with key := key, cycle := cycle }) = addedTo n l := by
  rw [addedTo, List.map_map]
  rfl

theorem insertInc_perm (d : Inc) (l : List Inc) : (insertInc d l).Perm (d :: l) := by
  induction l with
  | nil => rfl
  | cons e l ih =>
    rw [insertInc]
    split
    · exact (ih.cons e).trans (.swap d e l)
    · rfl

@[simp] theorem addedTo_insertInc (n : Nat) (d : Inc) (l : List Inc) :
    addedTo n (insertInc d l) = addedTo n (d :: l) :=
  addedTo_perm n (insertInc_perm d l)

/-! ### Cells -/

@[simp] theorem Core.cells_addCell (k : Core) (cell inc n : Nat) :
    SMap.get 0 (k.addCell cell inc).cells n
      = SMap.get 0 k.cells n + (if cell = n then BitVec.ofNat 32 inc else 0) := by
  rw [Core.addCell, SMap.get_upd]
  by_cases same : cell = n
  · simp [same]
  · simp [same, Ne.symm same]

@[simp] theorem Core.cells_subCell (k : Core) (cell inc n : Nat) :
    SMap.get 0 (k.subCell cell inc).cells n
      = SMap.get 0 k.cells n - (if cell = n then BitVec.ofNat 32 inc else 0) := by
  rw [Core.subCell, SMap.get_upd]
  by_cases same : cell = n
  · simp [same]
  · simp [same, Ne.symm same]

@[simp] theorem Core.deferred_addCell (k : Core) (cell inc : Nat) : (k.addCell cell inc).deferred = k.deferred := rfl
@[simp] theorem Core.deferred_subCell (k : Core) (cell inc : Nat) : (k.subCell cell inc).deferred = k.deferred := rfl

@[simp] theorem Core.cells_foldl_addCell (k : Core) (l : List Inc) (n : Nat) :
    SMap.get 0 (l.foldl (fun k d => k.addCell d.cell d.inc) k).cells n = SMap.get 0 k.cells n + addedTo n l := by
  induction l generalizing k with
  | nil => simp
  | cons d l ih => rw [List.foldl_cons, ih, Core.cells_addCell, addedTo_cons, add_assoc]

@[simp] theorem Core.deferred_foldl_addCell (k : Core) (l : List Inc) :
    (l.foldl (fun k d => k.addCell d.cell d.inc) k).deferred = k.deferred := by
  induction l generalizing k with
  | nil => rfl
  | cons d l ih => rw [List.foldl_cons, ih, Core.deferred_addCell]

end Sys2Proof.Machine

namespace Sys2Proof.Statements
open Sys2Proof.Machine

theorem owed_eq (k : Core) (n : Nat) : owed k n = SMap.get 0 k.cells n + addedTo n k.deferred := rfl

/-- The deferred increments fall into the four that are applied, the rest, and those of this cycle; each stays in the
cell or in the list. -/
@[simp] theorem owed_applyDeferred (k : Core) (now n : Nat) : owed (k.applyDeferred now) n = owed k n := by
  unfold Core.applyDeferred
  dsimp only
  split
  · rfl
  · have parts : addedTo n k.deferred
        = addedTo n ((k.deferred.filter fun d => d.cycle < now).take 4)
          + addedTo n ((k.deferred.filter fun d => d.cycle < now).drop 4)
          + addedTo n (k.deferred.filter fun d => !(d.cycle < now)) := by
      rw [← addedTo_append, List.take_append_drop, ← addedTo_append]
      exact addedTo_perm n (List.filter_append_perm _ _).symm
    rw [owed_eq, owed_eq, parts]
    dsimp only
    rw [Core.cells_foldl_addCell, Core.deferred_foldl_addCell, addedTo_append, addedTo_map_key_cycle]
    simp only [add_assoc]

/-- Whether the increment is applied, takes the place of another one or is deferred, its cell is owed exactly it more
(R218). -/
theorem owed_takeInc (k : Core) (now cell inc key n : Nat) :
    owed (k.takeInc now cell inc key) n = owed k n + (if cell = n then BitVec.ofNat 32 inc else 0) := by
  rw [← owed_applyDeferred k now n]
  unfold Core.takeInc
  generalize k.applyDeferred now = k
  dsimp only
  generalize (if k.incCycle = now then k.incs else []) = got
  split
  case isTrue applied =>
    simp only [owed_eq, Core.cells_addCell, Core.deferred_addCell]
    ring
  case isFalse full =>
    split
    case h_1 z last =>
      split
      case isTrue displaces =>
        simp only [owed_eq, Core.cells_addCell, Core.cells_subCell, Core.deferred_addCell, Core.deferred_subCell,
          addedTo_cons]
        ring
      case isFalse deferred =>
        simp only [owed_eq, addedTo_insertInc, addedTo_cons]
        ring
    case h_2 empty =>
      simp [List.getLast?_eq_none_iff.1 empty] at full

theorem owed_increment (s : State) (p cell inc key n : Nat) :
    owed ((s.increment p cell inc key).core p) n
      = owed (s.core p) n + (if cell = n then BitVec.ofNat 32 inc else 0) := by
  rw [State.increment, State.core_updCore_same, owed_takeInc]

/-- A set of increments adds up, in whatever order they come. -/
theorem owed_each_increment (s : State) (p n : Nat) (l : List (Nat × Nat × Nat)) :
    owed ((s.each l fun s e => s.increment p e.1 e.2.1 e.2.2).core p) n
      = owed (s.core p) n + (l.map fun e => if e.1 = n then BitVec.ofNat 32 e.2.1 else 0).sum := by
  induction l generalizing s with
  | nil => simp [State.each_nil]
  | cons e l ih => rw [State.each_cons, ih, owed_increment, List.map_cons, List.sum_cons, add_assoc]

/-- Settles O57: each order leaves the sum of its increments, and a permutation has the same sum. -/
theorem incrementsCommute : Obligations.IncrementsCommute := by
  intro s p l m perm n
  refine ⟨?_, owed_each_increment s p n l⟩
  rw [owed_each_increment, owed_each_increment, (perm.map _).sum_eq]

end Sys2Proof.Statements
end
